-- ==== Sys2Proof/Word.lean ====
section
/-! DEFINITION. The word types of the module and their plainest forms (00 R7: little-endian, bit 0 least significant). -/

namespace Sys2Proof

/-- One byte. -/
abbrev Byte := BitVec 8

/-- A 16-bit field: an EPA, a tag, a session number. -/
abbrev U16 := BitVec 16

/-- A 32-bit register word (14 R362). -/
abbrev Word := BitVec 32

/-- A 48-bit offset or step value (02 R32, 11 R272). -/
abbrev U48 := BitVec 48

/-- A 64-bit value: a trailer, an axle value, a galley address. -/
abbrev U64 := BitVec 64

end Sys2Proof
end

