-- ==== Sys2Proof/Syntax.lean ====
section
/-! DEFINITION. The commands of the block: one constructor per row of spec/opcode_table.json, in the table's order, with the
operands the row takes. A Lonus command carries its tag first (14 R349). Facts that only the outside world decides
(an analog lock, an ECC outcome, a sensed quantity) are operands of the row they belong to (log 13, 14, 15). -/

namespace Sys2Proof

/-- The 32-byte packet header (03 R54, tables "Header fields" and "ctl field"). -/
structure Header where
  typ    : BitVec 4
  tclass : BitVec 2
  epoch  : Bool
  mcast  : Bool
  last   : Bool
  mark   : Bool
  resend : Bool
  rsvd   : BitVec 5
  len    : U16
  dst    : U16
  src    : U16
  seq    : Word
  ctag   : U16
  op     : U16
  addr   : U48
  step   : U16
  chunk  : Word
  aux    : Word
  deriving DecidableEq, Repr, Inhabited

/-- A packet as it stands on a fabric link: header, payload, trailer (03 R53). -/
structure Packet where
  hdr     : Header
  payload : List Byte
  trailer : U64
  deriving DecidableEq, Repr, Inhabited

/-- A Lonus frame (14 R349, table "Frame header"). -/
structure Frame where
  ftype     : Byte
  resend    : Bool
  last      : Bool
  gap       : Bool
  flagsRsvd : BitVec 5
  session   : U16
  tag       : U16
  code      : U16
  status    : Byte
  rsvd      : BitVec 24
  length    : Word
  word      : U64
  axle      : U64
  payload   : List Byte
  trailer   : U64
  deriving DecidableEq, Repr, Inhabited

/-- One image of a firmware set as the Keccak engine sees it (15 R382, R383). -/
structure FwImage where
  typ      : Nat
  set      : Nat
  headerOk : Bool
  digest   : List Byte
  deriving DecidableEq, Repr, Inhabited

/-- A firmware set: its manifest fields (15 R382, table "Manifest") and the facts that the check of 15 R383 establishes (log 8). -/
structure FwSet where
  version        : Nat
  nImages        : Nat
  set            : Nat
  epoch          : Nat
  steppings      : List Nat
  linkMajor      : Nat
  linkMinor      : Nat
  arithRev       : Nat
  signer         : Nat
  size           : Nat
  layoutOk       : Bool
  keyDigest      : List Byte
  signatureOk    : Bool
  ownerKeyDigest : Option (List Byte)
  ownerSigOk     : Bool
  entries        : List (Nat × List Byte)
  images         : List FwImage
  manifestDigest : List Byte
  library        : List (Nat × List Byte)
  deriving DecidableEq, Repr, Inhabited

/-- The parameters of JOB_LOAD (14, table "Commands of this chapter"). -/
structure JobParams where
  block     : Nat
  x0        : Nat
  y0        : Nat
  z0        : Nat
  dx        : Nat
  dy        : Nat
  dz        : Nat
  seed      : U64
  firstStep : Nat
  cslotBase : Nat
  cslotCount : Nat
  deriving DecidableEq, Repr, Inhabited

/-- The parameters of RECORD_START (11, table "Record and replay commands"); startStep none is "all ones for at once". -/
structure RecordParams where
  block     : Nat
  ringMib   : Nat
  wrap      : Nat
  digest    : Nat
  egress    : Nat
  startStep : Option Nat
  deriving DecidableEq, Repr, Inhabited

/-- A galley thread context (08, R190 tzinfo): hub die, cluster, core, thread. -/
structure ThreadRef where
  die     : Nat
  cluster : Nat
  core    : Nat
  thread  : Nat
  deriving DecidableEq, Repr, Inhabited

/-- The AMO operations of the galley (08 R203, 10 R256). -/
inductive AmoOp where
  | add | and | or | xor | min | max | minu | maxu | swap | lr | sc
  deriving DecidableEq, Repr, Inhabited

/-- What the ECC of a memory access found (10 R261, R262); an input of the row (log 13). `template` is an uncorrectable error in the template that
TZ.SEND reads before its payload (08 R191, R195); the other rows meet no error with it. -/
inductive Ecc where
  | ok | corrected | uncorrectable | template
  deriving DecidableEq, Repr, Inhabited

/-- What befell an add of a Ladle (07 R165, R179, R180); an input of the row (log 13): nothing, an adder whose output for element `elem` differs
by `delta` from the sum, or an uncorrectable error or bad pattern in the memory read for the add. -/
inductive LadleCheck where
  | ok
  | upset (elem : Nat) (delta : Int)
  | memory
  deriving DecidableEq, Repr, Inhabited

/-- The quantities that a control cycle reads (16, table "Supervised quantities"): W, 10 mV, 0.1 A, 0.1 °C, 0.01 L/min; the demand that
R406 compares, and per die the lowest setpoint of R408 in mV over nominal. -/
structure Sensed where
  draw      : Nat
  volts     : Nat
  amps      : Nat
  flow      : Nat
  flowFault : Bool
  inlet     : Int
  outlet    : Int
  sensors   : List (Option Int × Option Int)
  model     : List Int
  demand    : Nat
  margins   : List Int
  deriving DecidableEq, Repr, Inhabited

/-- What the power-up sequence samples (18 R435, 13 R322, 14 R369): eight strap samples, the seal loops, REFCLK. -/
structure PowerUpInput where
  straps   : List (Nat × Nat)
  sealA    : Bool
  sealB    : Bool
  refclk   : Bool
  deriving DecidableEq, Repr, Inhabited

/-- The repair entry kinds and units (18 R442, table "Repair units"). -/
structure RepairUnit where
  kind : Nat
  unit : Nat
  deriving DecidableEq, Repr, Inhabited

/-- The outcome of a self-test (18 R438-R441): units newly failed, whether every die, link and engine passed, whether each
Ehrok core passed, images whose replaced core's scratch was lost at a warm switch-in. -/
structure SelfTest where
  failed    : List RepairUnit
  badDie    : Option Nat
  ehrokOk   : Bool
  lostScratch : List Nat
  deriving DecidableEq, Repr, Inhabited

/-- One command of the block. -/
inductive Instr where
  -- identity, state, registers, repair, sessions (14, 15, 18)
  | idRead (tag : Nat)
  | idCert (tag : Nat)
  | idQuote (tag : Nat) (nonce : List Byte)
  | idMeasure (tag : Nat)
  | idOwnerSet (tag : Nat) (record : List Byte)
  | idOwnerClear (tag : Nat)
  | stateSet (tag : Nat) (target : Nat)
  | stateGet (tag : Nat)
  | regRead (tag : Nat) (addr : Nat) (count : Nat) (view : Nat)
  | regWrite (tag : Nat) (addr : Nat) (count : Nat) (words : List Word)
  | commit (tag : Nat)
  | repairMark (tag : Nat) (unit : RepairUnit)
  | repairRead (tag : Nat)
  | sessionOpen (tag : Nat) (rxRate : Nat)
  | sessionClose (tag : Nat)
  -- job blocks
  | jobLoad (tag : Nat) (p : JobParams)
  | jobActivate (tag : Nat) (block : Nat)
  | jobPause (tag : Nat) (block : Nat)
  | jobResume (tag : Nat) (block : Nat)
  | jobUnload (tag : Nat) (block : Nat)
  | jobStatus (tag : Nat) (block : Nat)
  -- larder
  | larderRead (tag : Nat) (addr : Nat) (length : Nat) (ecc : Ecc)
  | larderWrite (tag : Nat) (addr : Nat) (data : List Byte)
  | larderStatus (tag : Nat)
  -- telemetry, sampling, capture
  | telemStart (tag : Nat) (sets : Nat) (periodMs : Nat)
  | telemStop (tag : Nat)
  | telemSnapshot (tag : Nat) (sets : Nat)
  | sampleStart (tag : Nat) (port : Nat) (oneInN : Nat) (trunc : Nat)
  | sampleStop (tag : Nat)
  | captureStart (tag : Nat) (ringMib : Nat) (port : Nat)
  | captureStop (tag : Nat) (ring : Nat)
  | captureDump (tag : Nat) (ring : Nat) (offset : Nat) (length : Nat) (ecc : Ecc)
  -- power, thermal, coolant
  | capSet (tag : Nat) (capW : Nat)
  | powerStatus (tag : Nat)
  | shedSet (tag : Nat) (pct : Nat)
  | orphanSet (tag : Nat) (pct : Nat)
  | heartbeat (tag : Nat) (sequence : Nat)
  | thermalStatus (tag : Nat)
  | coolantStatus (tag : Nat)
  -- firmware, presence, seals, debug
  | fwStage (tag : Nat) (data : List Byte)
  | fwArm (tag : Nat)
  | fwDisarm (tag : Nat)
  | fwStatus (tag : Nat)
  | presenceStatus (tag : Nat)
  | sealLogRead (tag : Nat)
  | sealLogClear (tag : Nat)
  | debugUnlock (tag : Nat)
  | debugLock (tag : Nat)
  | debugAttach (tag : Nat) (image : Nat)
  | debugDetach (tag : Nat) (image : Nat)
  | debugThread (tag : Nat) (image : Nat) (t : ThreadRef)
  | debugResume (tag : Nat) (image : Nat) (t : ThreadRef)
  | steadySet (tag : Nat) (value : Nat)
  -- tables
  | tableFlip (tag : Nat) (version : Nat) (copiesAgree : Bool)
  | tableSeal (tag : Nat)
  | tableCopy (tag : Nat)
  | tableClear (tag : Nat) (version : Nat)
  | tableStatus (tag : Nat)
  -- harnesses, steps, galley
  | harnessLoad (tag : Nat) (harness : Nat)
  | harnessUnload (tag : Nat) (harness : Nat)
  | harnessStatus (tag : Nat) (harness : Nat)
  | jobStepClose (tag : Nat) (block : Nat) (v : Nat)
  | galleyLoad (tag : Nat) (image : Nat) (block : Nat) (source : Nat) (item : Nat) (clusters : Nat) (elf : List Byte)
  | galleyUnload (tag : Nat) (image : Nat)
  | galleyLaunch (tag : Nat) (image : Nat) (entry : Nat) (arg0 : Nat) (arg1 : Nat)
  | galleyStatus (tag : Nat) (image : Nat)
  -- links and lanes
  | linkStatus (tag : Nat) (port : Nat)
  | linkReset (tag : Nat) (port : Nat)
  | linkDisable (tag : Nat) (port : Nat)
  | linkEnable (tag : Nat) (port : Nat)
  | linkIdle (tag : Nat) (port : Nat)
  | linkWake (tag : Nat) (port : Nat)
  | lanePrbsStart (tag : Nat) (lane : Nat) (pattern : Nat) (direction : Nat)
  | lanePrbsStop (tag : Nat) (lane : Nat)
  | lanePrbsRead (tag : Nat) (lane : Nat)
  | laneInject (tag : Nat) (lane : Nat) (kind : Nat) (n : Nat) (count : Nat) (intervalUs : Nat)
  | laneBitslip (tag : Nat) (lane : Nat)
  | laneEyeScan (tag : Nat) (lane : Nat) (eye : Nat)
  | eyeScanDone (chiplet : Nat) (counts : List Word)
  -- plan and certification
  | planInstall (tag : Nat) (plan : List Byte)
  | planEdit (tag : Nat) (port : Nat) (state : Nat)
  | planRead (tag : Nat)
  | certRun (tag : Nat) (port : Nat) (mode : Nat) (dwellS : Nat)
  -- recording and replay
  | recordStart (tag : Nat) (p : RecordParams)
  | recordStop (tag : Nat) (ring : Nat)
  | recordStatus (tag : Nat) (ring : Nat)
  | recordDump (tag : Nat) (ring : Nat) (offset : Nat) (length : Nat) (ecc : Ecc)
  | ringFree (tag : Nat) (ring : Nat)
  | replayLoad (tag : Nat) (ringMib : Nat) (data : List Byte)
  | replayStart (tag : Nat) (ring : Nat) (outMib : Nat) (startAxle : Nat)
  | replayStop (tag : Nat)
  | replayStatus (tag : Nat)
  -- I3C
  | entdaa (addr : Nat)
  | setdasa (staticAddr : Nat) (addr : Nat)
  | setnewda (addr : Nat)
  | rstdaa
  | enec (events : Byte)
  | disec (events : Byte)
  | getpid
  | getbcr
  | getdcr
  | getstatus
  | getmwl
  | getmrl
  | rstact (action : Byte)
  | i3cPrivateWrite (bytes : List Byte) (reads : Nat := 0)
  -- Lonus frames and line
  | commandFrame (f : Frame) (words : List (List Nat) := []) (start : Nat := 0)
  | bulkFrame (f : Frame) (words : List (List Nat) := []) (start : Nat := 0)
  | bulkTimeout (tag : Nat)
  | outputFrameSend
  | lonusLineUp
  | lonusLineDown
  -- register-write rows
  | tableEntryWrite (tag : Nat) (addr : Nat) (word : Word)
  | stgE2eCtlWrite (tag : Nat) (word : Word)
  | stgGalBindWrite (tag : Nat) (harness : Nat) (word : Word)
  | stgJblkStepsrcWrite (tag : Nat) (block : Nat) (word : Word)
  | hubPortWidthWrite (tag : Nat) (die : Nat) (word : Word)
  | modDrainCtlWrite (tag : Nat) (word : Word)
  | modLardLayoutWrite (tag : Nat) (second : Bool) (word : Word)
  -- packet arrivals
  | write (port : Nat) (p : Packet)
  | readReq (port : Nat) (p : Packet)
  | readRsp (port : Nat) (p : Packet)
  | atomic (port : Nat) (p : Packet)
  | atomicRsp (port : Nat) (p : Packet)
  | collContrib (port : Nat) (p : Packet) (checks : List LadleCheck)
  | galleyCall (port : Nat) (p : Packet)
  | ack (port : Nat) (p : Packet)
  | nack (port : Nat) (p : Packet)
  | sync (port : Nat) (p : Packet) (rxAxle : U64)
  -- crossbar, queues, overflow, Brake, timers
  | crossbarCellTime (die : Nat)
  | packetTransmit (port : Nat)
  | brakeRelease (die : Nat) (ecc : Ecc := .ok)
  | queueStateExchange
  | tableDrainSlow
  | overflowDrain (port : Nat) (eccs : List Ecc := [])
  | ovfExhausted
  | markDepthWindow
  | brakeIncrease (die : Nat) (epa : Nat)
  | queueHistogramSample
  | ackDelayExpiry (src : Nat)
  | resendTimeout (dst : Nat) (group : Bool) (seq : Nat)
  | portFlushed (port : Nat)
  -- collectives
  | leafStateSend (die : Nat) (harness : Nat) (step : Nat) (chunk : Nat) (ecc : Ecc := .ok) (checks : List LadleCheck := [])
  | leafStateArrival (die : Nat) (harness : Nat) (step : Nat) (chunk : Nat) (checks : List LadleCheck)
  | collTimeout (die : Nat) (harness : Nat) (step : Nat) (chunk : Nat)
  | spillExhausted (port : Nat)
  -- larder units
  | larderRequestPart (ld : Nat) (ecc : Ecc) (check : LadleCheck := .ok)
  | refreshSlot (stack : Nat) (pc : Nat) (waiting : Nat) (scrubAddr : Nat) (ecc : Ecc)
  -- galley threads
  | tzSubmit (t : ThreadRef) (rs1 rs2 : Nat)
  | descriptorAccept (die : Nat) (engine : Nat) (ecc : Ecc := .ok)
  | tzSend (t : ThreadRef) (rs1 rs2 : Nat) (ecc : Ecc := .ok)
  | tzWait (t : ThreadRef) (rd rs1 rs2 : Nat)
  | tzWaitWake (t : ThreadRef)
  | waitLimit (t : ThreadRef)
  | tzTake (t : ThreadRef) (rd rs1 rs2 : Nat) (ecc : Ecc := .ok)
  | tzTakeWake (t : ThreadRef) (ecc : Ecc := .ok)
  | tzBrake (t : ThreadRef) (rs1 : Nat)
  | tzAxle (t : ThreadRef) (rd : Nat)
  | tzStep (t : ThreadRef) (rd : Nat)
  | tzYield (t : ThreadRef)
  | galleyAccess (t : ThreadRef) (addr : Nat) (size : Nat) (ecc : Ecc)
  | fence (t : ThreadRef) (predW : Bool)
  | exit (t : ThreadRef)
  | log (t : ThreadRef) (ecc : Ecc := .ok)
  | ebreak (t : ThreadRef)
  | launchGroupStart (image : Nat) (ecc : Ecc := .ok)
  -- engines
  | descriptorWaitRelease (die : Nat)
  | engineWaitLimit (die : Nat)
  | descriptorComplete (die : Nat) (engine : Nat) (cycles : Nat)
  | contrib (die : Nat) (ecc : Ecc) (checks : List LadleCheck)
  | accInit (die : Nat) (check : LadleCheck)
  | accAdd (die : Nat) (ecc : Ecc) (check : LadleCheck)
  | accRound (die : Nat) (ecc : Ecc)
  | topk (die : Nat) (ecc : Ecc)
  | sort (die : Nat) (ecc : Ecc)
  | thresh (die : Nat) (ecc : Ecc)
  | selectRank (die : Nat) (ecc : Ecc)
  | gather (die : Nat) (ecc : Ecc)
  | scatter (die : Nat) (ecc : Ecc)
  | pageGather (die : Nat) (ecc : Ecc)
  | pageScatter (die : Nat) (ecc : Ecc)
  | convert (die : Nat) (ecc : Ecc)
  | crc64 (die : Nat) (ecc : Ecc)
  | shake256 (die : Nat) (ecc : Ecc)
  | sumcheck (die : Nat) (ecc : Ecc)
  | put (die : Nat) (ecc : Ecc)
  -- hitch, identity, timing
  | trainingFrame (port : Nat) (lane : Nat) (bits : BitVec 128) (inverted : Bool) (errorsLow : Bool)
  | hitchStageTimeout (port : Nat) (swingLost : Bool)
  | backOffEnd (port : Nat)
  | listenBeacon (port : Nat)
  | listenSwingSeen (port : Nat)
  | bitSlipSearch (lane : Nat) (found : Option Nat)
  | identityMessage (port : Nat) (msg : List Byte)
  | timingMessage (port : Nat) (msg : List Byte) (rxAxle : U64)
  | portMisplaced (port : Nat)
  | verifyEnd (port : Nat) (uncorrectable : Nat) (corrected : Nat) (received : Nat)
  | uncorrectableRound (port : Nat) (words : List (List Nat)) (headers : List Packet)
  | linkDown (port : Nat) (cause : Nat)
  | enterIdle (port : Nat)
  | idleExitBurst (port : Nat)
  | idleExit (port : Nat)
  -- axle, certification, telemetry, replay
  | syncSend
  | axleServo
  | masterSelfLock
  | certDone (mode : Nat) (results : List (Nat × Nat × Nat × Bool))
  | certSchedule
  | telemetryBoundary
  | replayInject (checks : List LadleCheck := [])
  -- control, thermal, Ehrok
  | controlCycle (sensed : Sensed) (copied : Bool := true)
  | thermalHold (position : Nat)
  | thermalTrip (position : Nat) (sensor : Nat) (reading : Int)
  | ehrokTakeover (cause : Nat)
  | coreRestart (coreB : Bool) (imageOk : Bool)
  | ehrokTakeback
  | hardwareWatchdog
  -- start-up, Rest, Hold, Drain
  | powerUp (input : PowerUpInput)
  | setupEntry (imagesOk : Bool)
  | selfTestComplete (r : SelfTest)
  | restEntry
  | holdEnter (cause : Nat) (unit : Option RepairUnit)
  | drainLimit
  | orphanEnter
  | presenceOpen (jumper : Bool)
  | presenceClose
  | sealOpen (loopB : Bool)
  | sealClose (loopB : Bool)
  | pinReset
  | resetNRelease (inputInRange : Bool) (input : PowerUpInput)
  -- pins, input, clocks, coolant
  | shedNAssert
  | shedNRelease
  | capOverrun (draw : Option Nat := none)
  | inputRange (volts : Nat)
  | undervoltageShed (volts : Nat)
  | inputUndervolt (volts : Nat)
  | protectiveStop (overvoltage : Bool)
  | lossOfInput
  | droopStretch (die : Nat)
  | droopRelease (die : Nat)
  | marginLow (position : Nat) (atLimit : Bool)
  | coolLowFlow (flow : Nat) (sensorFault : Bool)
  | flowRecovered (flow : Nat)
  | coolInletHigh (inlet outlet : Int)
  | coolInletLow (inlet : Int)
  | leak (loop : Nat)
  | leakLoopFault (loop : Nat) (resistance : Nat)
  | refclkAbsent
  | inputRecovered (volts : Nat)
  | refclkRestored
  -- the table's last rows
  | alignExit (port : Nat)
  | streamResume (port : Nat)
  | prbsLock (lane : Nat)
  | prbsLockLost (lane : Nat) (bits bitErrors symbolErrors : Nat)
  | invalidTypePacket (port : Nat) (p : Packet)
  | illegalInstruction (t : ThreadRef) (word : Nat) (ecc : Ecc)
  deriving DecidableEq, Repr

end Sys2Proof
end

