-- ==== Sys2Proof/Config.lean ====
section
/-! DEFINITION. The free values: what the manual leaves open. Each is an opaque constant without a body, so that no
statement can rest on one of its values (notes/assumptions/7.md, 8.md, 11.md, 23.md). -/

namespace Sys2Proof.Config

/-- FREE VALUE (log 11): the two status bytes that the CCC GETSTATUS returns (14 R371 names the CCC and no value). -/
opaque i3cStatus : Nat → List Byte

/-- FREE VALUE (log 11): the two bytes that the CCC GETMWL returns (14 R371). -/
opaque i3cMwl : Nat → List Byte

/-- FREE VALUE (log 11): the bytes that the CCC GETMRL returns (14 R371). -/
opaque i3cMrl : Nat → List Byte

/-- FREE VALUE (log 11): the unstated bytes of the provisional ID returned by GETPID, over its part and instance fields (14 R371). -/
opaque i3cPid : Nat → List Byte

/-- FREE VALUE (log 8): the issuer_id and signature bytes of the identity certificate over bytes 0 to 79 (15 R391). -/
opaque certTail : List Byte → List Byte

/-- FREE VALUE (log 8): the pure SLH-DSA-SHAKE-256f signature over a quote body (15 R394; FIPS 205 is not part of the manual). -/
opaque quoteSignature : List Byte → List Byte

/-- FREE VALUE (log 8): whether a pure SLH-DSA-SHAKE-256s signature over a message verifies under a key (15 R383; FIPS 205 is not part of the manual). -/
opaque signatureGood : List Byte → List Byte → List Byte → Bool

/-- FREE VALUE (log 8): the identity public key that FIPS 205 key generation forms from the 96 expanded bytes of the seed (15 R390). -/
opaque identityKey : List Byte → List Byte

/-- FREE VALUE (log 8): collective library item `k` inside the galley runtime image (15, table "Set images"). -/
opaque libraryItem : List Byte → Nat → List Byte

/-- FREE VALUE (log 8): measurement entry 6, the digest of the fuse state, over the fuse fields the model holds (15 R393). -/
opaque fuseMeasure : List Nat → List Byte

/-- FREE VALUE (log 8): measurement entry 7, the digest of plan, STEADY and owner record; the manual gives no byte order of the three (15 R393). -/
opaque configMeasure : List Byte → Bool → List Byte → List Byte

/-- FREE VALUE (log 7): a byte of a payload that the manual leaves unstated, by draw number and position. -/
opaque freeByte : Nat → Nat → Byte

/-- FREE VALUE (log 7): a word that the manual leaves unstated, by draw number. -/
opaque freeWord : Nat → Nat

/-- FREE VALUE (log 23): how many queued bytes of records a hub die has written since its last record, by time and draw number (11 R288 gives
no rate). -/
opaque recordWritten : Nat → Nat → Nat

/-- FREE VALUE (log 28): byte `k` of the stream of the `n`-th codeword after the seed where it carries no packet: after a fill word, and in IDLE and
ENTER_IDLE rounds (12 R300). -/
opaque fillByte : Nat → Nat → Byte

/-- FREE VALUE (log 28): the register from which a test pattern starts, by lane and time (12 R307, R317). -/
opaque patternStart : Nat → Nat → Nat

/-- FREE VALUE (log 28): the bits of SSPRQ, which IEEE 802.3 Clause 120 defines and the manual does not (12 R317). -/
opaque ssprq : Nat → Bool

/-- FREE VALUE (log 28): where in a codeword or pattern an injection strikes, by lane and time (12 R318). -/
opaque injectPlace : Nat → Nat → Nat

/-- FREE VALUE (log 28): the state from which the scrambler of the Lonus line starts; 14 R347 names none, and the line has no Align. -/
opaque lonusSeed : Nat

end Sys2Proof.Config
end

