-- ==== Sys2Proof/Machine/Bits.lean ====
section
/-! DEFINITION. Bit fields, byte order and arithmetic helpers (00 R7: little-endian, bit 0 least significant). -/

namespace Sys2Proof.Machine

/-- The `len` bits of `w` from bit `lo` upward. -/
def bits (w lo len : Nat) : Nat := w / 2 ^ lo % 2 ^ len

/-- Bit `i` of `w`. -/
def bit (w i : Nat) : Bool := decide (w / 2 ^ i % 2 = 1)

/-- A Bool as a bit. -/
def b2n (b : Bool) : Nat := if b then 1 else 0

/-- A register word from (lowest bit, width, value) fields. -/
def fields : List (Nat × Nat × Nat) → Nat
  | [] => 0
  | (lo, len, v) :: fs => v % 2 ^ len * 2 ^ lo + fields fs

/-- `n` bytes of `v`, least significant first. -/
def leBytes : Nat → Nat → List Byte
  | 0, _ => []
  | n + 1, v => BitVec.ofNat 8 v :: leBytes n (v / 256)

/-- The number that little-endian bytes hold. -/
def ofLe : List Byte → Nat
  | [] => 0
  | b :: bs => b.toNat + 256 * ofLe bs

/-- The `n` bytes from `off`; bytes past the end read 0. -/
def slice (bs : List Byte) (off n : Nat) : List Byte :=
  let r := (bs.drop off).take n
  r ++ List.replicate (n - r.length) 0

/-- The little-endian number in the `n` bytes from `off`. -/
def getLe (bs : List Byte) (off n : Nat) : Nat := ofLe (slice bs off n)

/-- `v` in two's complement of `n` bits. -/
def twos (n : Nat) (v : Int) : Nat := (v % (2 ^ n : Nat)).toNat

/-- The signed value of the low `n` bits of `v`. -/
def signed (n : Nat) (v : Nat) : Int :=
  let m := v % 2 ^ n
  if m < 2 ^ (n - 1) then (m : Int) else (m : Int) - (2 ^ n : Nat)

/-- Round up to a multiple of `m`. -/
def alignUp (a m : Nat) : Nat := (a + m - 1) / m * m

/-- Division rounded up. -/
def ceilDiv (a b : Nat) : Nat := (a + b - 1) / b

/-- Saturating increment of a counter of `n` bits. -/
def satInc (n v : Nat) : Nat := min (v + 1) (2 ^ n - 1)

/-- Saturating addition to a counter of `n` bits. -/
def satAdd (n v k : Nat) : Nat := min (v + k) (2 ^ n - 1)

/-- The first index at or after `from_` (cyclically, modulo `n`) that satisfies `p`. -/
def firstFrom (n from_ : Nat) (p : Nat → Bool) : Option Nat :=
  ((List.range n).map fun k => (from_ + k) % n).find? p

/-- Insertion into a list sorted by `le`; a new element goes after its equals. -/
def insertBy {α : Type} (le : α → α → Bool) (x : α) : List α → List α
  | [] => [x]
  | y :: ys => if le y x then y :: insertBy le x ys else x :: y :: ys

/-- A stable sort by `le`. -/
def sortBy {α : Type} (le : α → α → Bool) (l : List α) : List α :=
  l.foldl (fun acc x => insertBy le x acc) []

/-- The element with the least key; the first of equals. -/
def minBy {α : Type} (key : α → Int) : List α → Option α
  | [] => none
  | x :: xs => match minBy key xs with
    | none => some x
    | some y => if key y < key x then some y else some x

/-- The largest element of a list of numbers, 0 for none. -/
def maxNat (l : List Nat) : Nat := l.foldl max 0

/-- The median of an odd or even list: the lower middle element of the sorted list. -/
def median (l : List Int) : Int :=
  let t := sortBy (fun a b => decide (a ≤ b)) l
  (t[(t.length - 1) / 2]?).getD 0

/-- The index and value pairs of a list. -/
def enum {α : Type} (l : List α) : List (Nat × α) := (List.range l.length).zip l

end Sys2Proof.Machine
end

