-- ==== Sys2Proof/Machine/Tab.lean ====
section
/-! DEFINITION. A sparse table: what is indexed by a number and mostly at its reset value. The list holds (key, value) pairs with
strictly rising keys and no value equal to the default, so that equal tables are equal data. The larder, scratch and cluster memories are such
tables of bytes. -/

namespace Sys2Proof.Machine

/-- A sparse table from numbers to values. -/
abbrev Tab (α : Type) := List (Nat × α)

variable {α : Type}

/-- The value at `k`; `d` where nothing is listed. -/
def Tab.get (d : α) : Tab α → Nat → α
  | [], _ => d
  | (j, v) :: t, k => if j = k then v else Tab.get d t k

/-- The table without an entry at `k`. -/
def Tab.erase : Tab α → Nat → Tab α
  | [], _ => []
  | (j, v) :: t, k => if j = k then Tab.erase t k else (j, v) :: Tab.erase t k

/-- The table with `(k, v)` put before the first larger key. -/
def Tab.put : Tab α → Nat → α → Tab α
  | [], k, v => [(k, v)]
  | (j, w) :: t, k, v => if k < j then (k, v) :: (j, w) :: t else (j, w) :: Tab.put t k v

/-- Store `v` at `k`: the canonical form lists no default value. -/
def Tab.set [DecidableEq α] (d : α) (t : Tab α) (k : Nat) (v : α) : Tab α :=
  if v = d then Tab.erase t k else Tab.put (Tab.erase t k) k v

/-- Apply `f` to the value at `k`. -/
def Tab.upd [DecidableEq α] (d : α) (t : Tab α) (k : Nat) (f : α → α) : Tab α :=
  Tab.set d t k (f (Tab.get d t k))

/-- Apply `f` to every value; entries that become the default are dropped. -/
def Tab.mapV [DecidableEq α] (d : α) (t : Tab α) (f : α → α) : Tab α :=
  (t.map fun e => (e.1, f e.2)).filter fun e => decide (e.2 ≠ d)

/-- The canonical form: keys strictly rising, no entry equal to the default. -/
def Tab.wf [DecidableEq α] (d : α) : Tab α → Bool
  | [] => true
  | [(_, v)] => decide (v ≠ d)
  | (j, v) :: (k, w) :: t => decide (v ≠ d) && decide (j < k) && Tab.wf d ((k, w) :: t)

/-- A byte memory: unlisted bytes read 0 (log 4). -/
abbrev Mem := Tab Byte

/-- The byte at `a`. -/
def Mem.byte (m : Mem) (a : Nat) : Byte := Tab.get 0 m a

/-- The `n` bytes from `a` upward. -/
def Mem.read (m : Mem) (a n : Nat) : List Byte := (List.range n).map fun i => Mem.byte m (a + i)

/-- Store bytes from `a` upward. -/
def Mem.write (m : Mem) (a : Nat) : List Byte → Mem
  | [] => m
  | b :: bs => Mem.write (Tab.set 0 m a b) (a + 1) bs

/-- The canonical form of a byte memory. -/
def Mem.wf (m : Mem) : Bool := Tab.wf 0 m

end Sys2Proof.Machine
end

