-- ==== Sys2Proof/Machine/State.lean ====
section
/-! DEFINITION. The state of the module: every piece of state INVENTORY.md lists, as plain data, the reasons a step can stop, and the
state right after reset (power applied to no input: Off, 01 R17, 18 R435). -/

namespace Sys2Proof.Machine

/-- Why the machine stops. -/
inductive Fault where
  /-- Raised by an event row that names a die, port, lane, engine, loop or thread context that the module does not have. Safe: no
  hardware raises such an event (log 5). -/
  | noSuchUnit
  deriving DecidableEq, Repr

/-- Why a command has no meaning. -/
inductive Refusal where
  /-- Raised by a dispatch arm whose command has no meaning yet. Safe: nothing is claimed of it. -/
  | notModelled (mnemonic : String)
  deriving DecidableEq, Repr

/-- The two grades (00 R1, R2). -/
inductive Grade where
  | h12 | h6
  deriving DecidableEq, Repr, Inhabited

/-- The module states (01, table "Module states"). -/
inductive ModState where
  | off | standby | rest | setup | ready | run | drain | hold
  deriving DecidableEq, Repr, Inhabited

/-- What the factory fixed; no command changes it (00, 15 R383, R390, R395, 18 R443). -/
structure Fixed where
  grade      : Grade := .h12
  serial     : Nat := 2600413907
  dateCode   : Nat := 2619
  factorySet : Nat := 1042
  keyDigests : List (List Byte) := []
  revoked    : List Nat := []
  factoryMap : List RepairUnit := []
  seed       : List Byte := []
  deriving DecidableEq, Repr, Inhabited

/-- One entry of a cable plan (13 R324, table "Plan entry"). -/
structure PlanEntry where
  epa         : Nat := 0
  state       : Nat := 0
  partnerPort : Nat := 0
  deriving DecidableEq, Repr, Inhabited

/-- The stored cable plan (13 R324, table "Plan header"). -/
structure Plan where
  plane   : Nat := 0
  rackPos : Nat := 0
  widths  : List Nat := []
  edits   : Nat := 0
  planId  : Nat := 0
  entries : List PlanEntry := []
  deriving DecidableEq, Repr, Inhabited

/-- A field repair entry (18 R443): unit and source (1 REPAIR_MARK, 2 self-test). -/
structure FieldMark where
  unit   : RepairUnit
  source : Nat
  deriving DecidableEq, Repr, Inhabited

/-- A seal-log entry (14 R369). -/
structure SealEntry where
  axle  : Nat
  cycle : Nat
  loop  : Nat
  kind  : Nat
  deriving DecidableEq, Repr, Inhabited

/-- The slot states (15 R384). -/
inductive SlotState where
  | empty | writing | staged | armed | active | bad
  deriving DecidableEq, Repr, Inhabited

/-- One flash device with its role record (15, "Slots and staging"). -/
structure Slot where
  state        : SlotState := .empty
  generation   : Nat := 0
  ownerDigest  : Option (List Byte) := none
  reachedReady : Bool := false
  set          : Option FwSet := none
  deriving DecidableEq, Repr, Inhabited

/-- The cause, axle value and state of the last protective stop or pin reset (16 R398, 18 R445). -/
structure StopRecord where
  cause : Nat
  axle  : Nat
  state : Nat
  deriving DecidableEq, Repr, Inhabited

/-- What survives a power cycle (18 R444). `curIsF1` says which device holds role "current". -/
structure NonVolatile where
  plan         : Option Plan := none
  steady       : Bool := false
  fieldMap     : List FieldMark := []
  sealLog      : List SealEntry := []
  sealOverflow : Nat := 0
  owner        : Option (List Byte) := none
  f0           : Slot := {}
  f1           : Slot := {}
  curIsF1      : Bool := false
  floor        : Nat := 0
  cycles       : Nat := 0
  stop         : Option StopRecord := none
  deriving DecidableEq, Repr, Inhabited

/-- A transition in progress: its target, whether it is warm, and the tag of the STATE_SET that asked for it (01 R17, 14 R360). -/
structure Transition where
  target : ModState
  warm   : Bool
  tag    : Nat
  deriving DecidableEq, Repr, Inhabited

/-- MOD_START_STAT (18 R457). -/
structure StartStat where
  checkDone : Bool := false
  checkPass : Bool := false
  plan      : Bool := false
  loaded    : Bool := false
  axle      : Bool := false
  pending   : Nat := 0
  deriving DecidableEq, Repr, Inhabited

/-- The module-level state (01 R17 to R26, 18). `marked` holds the units that failed in this Setup alone, `late` the marks issued in it, which take effect
at the next (18 R440, R442); `warm` how Setup was entered; `startKept` MOD_START_STAT at the last entry to Ready. -/
structure Mod where
  st        : ModState := .off
  trans     : Option Transition := none
  bootRom   : Bool := false
  fellBack  : Bool := false
  strapBad  : Bool := false
  plane     : Nat := 0
  rackPos   : Nat := 0
  cause     : Nat := 0
  unitKind  : Nat := 0
  unitValid : Bool := false
  unit      : Nat := 0
  dpOff     : Bool := false
  start     : StartStat := {}
  readyAxle : Nat := 0
  drainAt   : Nat := 0
  resetLow  : Bool := false
  refBad    : Bool := false
  bootWait  : Option PowerUpInput := none
  frozen    : Bool := false
  marked    : List RepairUnit := []
  late      : List RepairUnit := []
  warm      : Bool := false
  startKept : StartStat := {}
  deriving DecidableEq, Repr, Inhabited

/-- A command the host has sent and that has not completed (14 R353 to R359); `running`: it has started to execute (R360). -/
structure Cmd where
  tag      : Nat
  session  : Nat
  op       : Nat
  word     : Nat
  payload  : List Byte
  bulk     : List Byte := []
  bulkDone : Bool := true
  lastAt   : Nat := 0
  buf      : Nat := 0
  late     : Bool := false
  running  : Bool := false
  deriving DecidableEq, Repr, Inhabited

/-- A response: tag, opcode, status, payload, bulk, and the axle value when it was formed (14 R349, R357). -/
structure Response where
  tag     : Nat
  op      : Nat
  status  : Nat
  payload : List Byte
  bulk    : List Byte
  resend  : Bool := false
  axle    : Nat := 0
  deriving DecidableEq, Repr, Inhabited

/-- An event: code, sequence number, job block (0xFFFF none), items, 32 B datum or set of ranks, and the axle value when it was formed (14 R349, R365). -/
structure Event where
  code  : Nat
  seq   : Nat
  block : Nat
  items : List Nat
  datum : List Byte := []
  axle  : Nat := 0
  deriving DecidableEq, Repr, Inhabited

/-- A stream frame: TELEMETRY or MIRROR (17 R425, R429), with the axle value when it was formed. -/
structure StreamFrame where
  code    : Nat
  seq     : Nat
  gap     : Bool
  payload : List Byte
  axle    : Nat := 0
  deriving DecidableEq, Repr, Inhabited

/-- Errors that LANE_INJECT adds to a lane (12 R318): kind, size, repetitions, interval in µs, since when. -/
structure Inject where
  kind  : Nat
  n     : Nat
  count : Nat
  us    : Nat
  at_   : Nat
  deriving DecidableEq, Repr, Inhabited

/-- What a transmitter has put on its lanes (12 R298 to R304, R307): `reps` rounds of one kind (0 DATA, 1 IDLE, 2 CTRL, 3 ENTER_IDLE), training frames
(4), an idle-exit burst (5), or the symbols of a lane's test pattern (6). `count` is the first round's number, `first` the codewords that each lane had
sent since its scrambler was seeded, `at_` the start in units of the line, `bytes` the stream, `ctls` the control fields by lane index, or the
lane and pattern of a test, `inj` the injections at work by lane index. -/
structure LineItem where
  kind  : Nat
  count : Nat := 0
  reps  : Nat := 1
  first : Nat := 0
  at_   : Nat := 0
  bytes : List Byte := []
  ctls  : List Nat := []
  seeds : List Nat := []
  inj   : List (Nat × Inject) := []
  deriving DecidableEq, Repr, Inhabited

/-- A transmitter (12 R299 to R304): the next round's number, the codewords sent since the scramblers were seeded, DATA rounds since the last IDLE round,
when the line is free, stream bytes that wait for their round to fill, the lanes' seeds, and what it has sent (the model's own record). -/
structure TxLine where
  count : Nat := 0
  first : Nat := 0
  data  : Nat := 0
  at_   : Nat := 0
  buf   : List Byte := []
  seeds : List Nat := []
  sent  : List LineItem := []
  deriving DecidableEq, Repr, Inhabited

/-- The Lonus port (14). `bulkQ` holds, for each transfer out of the module, its tag, opcode, the offset of the next byte and what is left; `tx` is
the line's transmitter (14 R347), `sent` the frames that it has sent (the model's own record, log 6), `recent` the starts and sizes of those of the
last 10 µs (R367); `refCut`: the line is down for want of REFCLK (19 R469). -/
structure Lonus where
  lineUp      : Bool := false
  opened      : Bool := false
  session     : Nat := 0
  rxRate      : Nat := 0
  closing     : Option Nat := none
  outstanding : List Cmd := []
  kept        : List Response := []
  respQ       : List Response := []
  bulkQ       : List (Nat × Nat × Nat × List Byte) := []
  telemQ      : List StreamFrame := []
  mirrorQ     : List StreamFrame := []
  events      : List Event := []
  evSeq       : Nat := 0
  strSeq      : Nat := 0
  gapT        : Bool := false
  gapM        : Bool := false
  bad         : Nat := 0
  stream      : Nat := 0
  i3cDrop     : Nat := 0
  orphan      : Bool := false
  beatAt      : Nat := 0
  recent      : List (Nat × Nat) := []
  refCut      : Bool := false
  sent        : List Frame := []
  tx          : TxLine := {}
  deriving DecidableEq, Repr

/-- The I3C target (14 R371, R372). -/
structure I3c where
  dyn       : Option Nat := none
  ibi       : Bool := false
  offset    : Nat := 0
  lastAlert : Nat := 0
  ibis      : List Nat := []
  rstAct    : Nat := 0
  out       : List (List Byte) := []
  deriving DecidableEq, Repr, Inhabited

/-- Presence window, seals, debug lock (14 R368 to R370). -/
structure Mgmt where
  opened  : Bool := false
  jumper  : Bool := false
  closeAt : Nat := 0
  sealA   : Bool := false
  sealB   : Bool := false
  debug   : Bool := false
  deriving DecidableEq, Repr, Inhabited

/-- Power supervision (16). `causes` holds the shed causes present; `shedTgt` the target W while the shed is engaged; `rampLim` the limit under which the
draw rises no faster than ramp_up, `rampW` the draw that it allows (R406); `noBurn`: no burn load in the coming cycle. -/
structure Power where
  draw      : Nat := 0
  volts     : Nat := 0
  amps      : Nat := 0
  mgrCap    : Nat := 0
  trayCap   : Nat := 0
  thermCap  : Nat := 2600
  shedPct   : Nat := 50
  orphanPct : Nat := 80
  shed      : Bool := false
  causes    : List Nat := []
  shedTgt   : Nat := 0
  rampLim   : Nat := 16
  rampW     : Nat := 0
  noBurn    : Bool := false
  ratio     : Nat := 16
  dieLim    : Nat := 16
  effRatio  : Nat := 16
  effLim    : Nat := 16
  burn      : Bool := false
  rangeBad  : Bool := false
  uvBad     : Bool := false
  alert     : Bool := false
  shedN     : Bool := false
  lastCap   : Nat := 2600
  floorOn   : Bool := false
  supply    : Tab Int := []
  deriving DecidableEq, Repr, Inhabited

/-- Temperatures (16 R412, R413, 17 R425): positions 0 to 39 in the order of telemetry set 1; `hot` holds the positions above 105 °C with
their consecutive cycles, `dual` those with both sensors suspect and since when each of the two has read well. -/
structure Thermal where
  sensors : List (Option Int × Option Int) := []
  model   : List Int := []
  suspect : List (Nat × Nat) := []
  hot     : List (Nat × Nat) := []
  dual    : List (Nat × Option Nat × Option Nat) := []
  deriving DecidableEq, Repr, Inhabited

/-- Coolant and leak loops (16 R410, R411). `flowAt` is when the flow reading last changed, `drawLo` and `drawHi` the extremes of the draw since, `stuck`
whether it has not changed for 60 s while they lie more than 300 W apart. -/
structure Coolant where
  flow      : Nat := 0
  flowFault : Bool := false
  inlet     : Int := 0
  outlet    : Int := 0
  loop0     : Nat := 0
  loop1     : Nat := 0
  lowAlert  : Bool := false
  inHigh    : Bool := false
  inLow     : Bool := false
  flowAt    : Nat := 0
  drawLo    : Nat := 0
  drawHi    : Nat := 0
  stuck     : Bool := false
  deriving DecidableEq, Repr, Inhabited

/-- What the state copy holds of the control loops (15 R375): the slow loop's settings, the thermal cap, the ramp, the cycles and times of 16 R410, R412
and R413, and the time of the last HEARTBEAT. What the switch keeps by 14 R355 and what latches hold by 15 R377 stands once, outside it (log 22). -/
structure LoopCopy where
  dieLim   : Nat := 16
  ratio    : Nat := 16
  thermCap : Nat := 2600
  rampLim  : Nat := 16
  rampW    : Nat := 0
  hot      : List (Nat × Nat) := []
  suspect  : List (Nat × Nat) := []
  dual     : List (Nat × Option Nat × Option Nat) := []
  flowAt   : Nat := 0
  drawLo   : Nat := 0
  drawHi   : Nat := 0
  beatAt   : Nat := 0
  deriving DecidableEq, Repr, Inhabited

/-- The Ehrok cores (15 R374 to R381, R395). Core states: 0 stopped, 1 restarting, 2 standby syncing, 3 running or synced. `copyA` and `copyB` are the
standby core's two buffers, `newB` says which holds the last complete copy, `lastCopy` when it arrived; `dueAt` is the boundary at which a core that takes
control has still to run its first cycle; `sinceCopy` holds the tags completed since the last copy. -/
structure Ehrok where
  inB       : Bool := false
  aState    : Nat := 3
  bState    : Nat := 3
  single    : Bool := false
  sync      : Nat := 0
  takeovers : Nat := 0
  takebacks : Nat := 0
  gap       : Nat := 0
  stopsA    : List Nat := []
  stopsB    : List Nat := []
  waitBack  : Nat := 0
  lastCycle : Nat := 0
  lastRun   : Nat := 0
  sinceCopy : List Nat := []
  lastCopy  : Nat := 0
  copyA     : Option LoopCopy := none
  copyB     : Option LoopCopy := none
  newB      : Bool := false
  dueAt     : Option Nat := none
  deriving DecidableEq, Repr

/-- A pool window's three register words (02 R51). -/
structure Window where
  base : Word := 0
  map  : Word := 0
  ctl  : Word := 0
  deriving DecidableEq, Repr, Inhabited

/-- A committed window change that waits for step boundaries (02 R36). -/
structure WinPend where
  w       : Nat
  win     : Window
  waitFor : List Nat
  deriving DecidableEq, Repr, Inhabited

/-- The job-block states (01, table "Job-block transitions"; 02 R51). -/
inductive BlockState where
  | unloaded | loaded | active | paused | faulted
  deriving DecidableEq, Repr, Inhabited

/-- A job block (02 R40 to R51, 11 R272 to R294). -/
structure Block where
  st       : BlockState := .unloaded
  x0       : Nat := 0
  y0       : Nat := 0
  z0       : Nat := 0
  dx       : Nat := 0
  dy       : Nat := 0
  dz       : Nat := 0
  seed     : Nat := 0
  step     : Nat := 0
  close    : Option Nat := none
  pause    : Bool := false
  slotBase : Nat := 0
  slotCnt  : Nat := 0
  refuse   : Nat := 0
  choice   : Nat := 0
  skew     : Nat := 0
  skewAt   : Option Nat := none
  deriving DecidableEq, Repr, Inhabited

/-- A count slot (03 R68). -/
structure CSlot where
  bytes   : Nat := 0
  packets : Nat := 0
  ovf     : Bool := false
  deriving DecidableEq, Repr, Inhabited

/-- The states of a table version (05 R118). -/
inductive VerState where
  | writable | active | draining
  deriving DecidableEq, Repr, Inhabited

/-- STG_EPOCH_STAT and the drain bookkeeping (05 R118 to R136). -/
structure Epochs where
  active   : Bool := false
  verA     : VerState := .writable
  verB     : VerState := .writable
  loaded   : Bool := false
  sealed   : Bool := false
  sealedAt : Nat := 0
  slow     : Bool := false
  stamp    : List Bool := [false, false, false, false]
  sumA     : Nat := 0
  sumB     : Nat := 0
  stale    : Nat := 0
  deriving DecidableEq, Repr, Inhabited

/-- The state of one accumulator element (07 R164, R165): the finite states hold an integer A that stands for A × 2^-149. -/
inductive Acc where
  | fin (a : Int)
  | pInf | nInf | nan | negZero
  deriving DecidableEq, Repr, Inhabited

/-- One contribution or leaf state on its way into a slot (06 R147, R150). -/
structure CItem where
  rank    : Nat
  leaf    : Bool := false
  payload : List Byte := []
  check   : Nat := 0
  elems   : List Acc := []
  cands   : List (Nat × Nat × Nat) := []
  fast    : List Word := []
  deriving DecidableEq, Repr, Inhabited

/-- A chunk key on a die. -/
structure CKey where
  die   : Nat
  h     : Nat
  step  : Nat
  chunk : Nat
  deriving DecidableEq, Repr, Inhabited

/-- A claimed reduction slot (06 R150; 07 R166, R177, R182), number `num` of its die. `pend` holds the fast-mode levels, `cands` the SELECT candidates
(rank, key, index). -/
structure RSlot where
  key     : CKey
  num     : Nat := 0
  seen    : List Nat := []
  count   : Nat := 0
  elems   : List Acc := []
  k       : Nat := 0
  cands   : List (Nat × Nat × Nat) := []
  pend    : List (Option (List Word)) := []
  startAt : Nat := 0
  ready   : Bool := false
  deriving DecidableEq, Repr, Inhabited

/-- A spilled chunk (06 R150) or an early contribution (06 R147). -/
structure CSpill where
  key     : CKey
  items   : List CItem
  startAt : Nat := 0
  deriving DecidableEq, Repr, Inhabited

/-- A result hold (06 R151): the die and slot that formed it, the result bytes, the receivers (EPAs; 65,536 + rank for a galley member) that have not
acknowledged. -/
structure RHold where
  die     : Nat := 0
  slot    : Nat := 0
  h       : Nat
  step    : Nat
  chunk   : Nat
  bytes   : List Byte
  waiting : List (Nat × Nat)
  deriving DecidableEq, Repr, Inhabited

/-- A loaded harness (06 R142 to R147). `formed` lists the (step, chunk) pairs of the open steps whose result is formed. -/
structure Harness where
  loaded : Bool := false
  base   : Nat := 0
  spill  : Nat := 0
  expect : List Nat := [0, 0, 0, 0]
  formed : List (Nat × Nat) := []
  deriving DecidableEq, Repr, Inhabited

/-- The reduction state of the hub dies (06 R150, R153). -/
structure Coll where
  slots  : List RSlot := []
  spills : List CSpill := []
  early  : List CSpill := []
  flight : List (Nat × CKey × CItem) := []
  holds  : List RHold := []
  lastSpillFault : Option Nat := none
  deriving DecidableEq, Repr, Inhabited

/-- One launch (08 R196 to R201): its arguments, its STEADY key, and, once started, the threads still running. -/
structure Launch where
  id      : Nat
  entry   : Nat
  a0      : Nat
  a1      : Nat
  a2      : Nat
  payload : Option (List Byte) := none
  key     : Nat
  started : Bool := false
  left    : Nat := 0
  deriving DecidableEq, Repr, Inhabited

/-- A galley image (08 R193 to R207). Image state 0 Free, 1 Loaded, 2 with a debug session. -/
structure Image where
  st        : Nat := 0
  owner     : Nat := 0
  item      : Nat := 65535
  clusters  : List Nat := []
  entries   : List (Nat × Nat) := []
  stack     : Nat := 0
  waitUs    : Nat := 0
  depth     : Nat := 0
  heapBase  : Nat := 0
  heapBytes : Nat := 0
  queueBase : Nat := 0
  queueMib  : Nat := 0
  gp        : Nat := 0
  queue     : List Launch := []
  logAt     : Option Nat := none
  logDrop   : Nat := 0
  deriving DecidableEq, Repr, Inhabited

/-- Where loaded bytes go: an integer register (sign-extended or not), a floating-point register, or runs of bytes of the vector registers, as
position (64 bytes a register) and length. -/
inductive Dest where
  | x (rd : Nat) (signed : Bool)
  | f (rd : Nat)
  | v (runs : List (Nat × Nat))
  deriving DecidableEq, Repr, Inhabited

/-- Why a thread sleeps (08 R188, R200). -/
inductive Sleep where
  | none
  | submit (engine addr : Nat)
  | send (dst : Nat) (seq : Nat) (addr : Nat)
  | wait (rd slot : Nat) (packets : Bool) (target : Nat)
  | take (rd h step chunk rank dst : Nat)
  | load (dest : Dest)
  | yield (waitFor : List Nat)
  deriving DecidableEq, Repr, Inhabited

/-- A galley thread context (08 R185, R188 to R200); `run` numbers the start of its group, which tells its self-brake from a later thread's;
`stub` is the runtime exit stub that its ra held at the start. -/
structure Thread where
  live   : Bool := false
  image  : Nat := 0
  entry  : Nat := 0
  launch : Nat := 0
  run    : Nat := 0
  pc     : Nat := 0
  stub   : Nat := 0
  x      : Tab U64 := []
  f      : Tab U64 := []
  v      : Tab (BitVec 512) := []
  vill   : Bool := true
  vtype  : Nat := 0
  vl     : Nat := 0
  vstart : Nat := 0
  vxrm   : Nat := 0
  vxsat  : Bool := false
  instret : Nat := 0
  frm    : Nat := 0
  fflags : Nat := 0
  ctag   : Nat := 0
  resv   : Option Nat := none
  sleep  : Sleep := .none
  since  : Nat := 0
  posted : Nat := 0
  halted : Bool := false
  exitCode : Option Nat := none
  deriving DecidableEq, Repr, Inhabited

/-- A self-brake (08 R188): the rate in sixty-fourths of 100 GB/s, and when the next packet under it may leave. -/
structure Pace where
  rate : Nat := 64
  next : Nat := 0
  deriving DecidableEq, Repr, Inhabited

/-- An accepted descriptor (09 R209 to R216). -/
structure Desc where
  bytes : List Byte
  engine : Nat
  t     : ThreadRef
  image : Nat
  block : Nat
  at_   : Nat
  id    : Nat
  pace  : Nat := 0
  deriving DecidableEq, Repr, Inhabited

/-- One engine of a die (09 R212 to R215, R238; 17 R423). `exec` is the descriptor executed and the bytes its completion counts. -/
structure Engine where
  queue    : List Desc := []
  exec     : Option (Desc × Nat) := none
  cycles   : Nat := 0
  done     : Nat := 0
  released : Nat := 0
  faults   : Nat := 0
  deriving DecidableEq, Repr, Inhabited

/-- A destination of a packet at a crossbar input (04 R85, 05 R131): a port, or the bridge to a die. -/
inductive XDest where
  | port (p : Nat)
  | bridge (d : Nat)
  deriving DecidableEq, Repr, Inhabited

/-- A packet in flight inside the module (05 R121): the packet, the port it arrived on (none: module-originated), the block
charged, when it entered the module, the copies of a replicated result by egress port (06 R155), and whether its trailer will fail (04 R83). -/
structure Flight where
  pkt     : Packet
  arrPort : Option Nat := none
  block   : Nat := 0xFFFF
  stamp   : Nat := 0
  id      : Nat := 0
  fan     : List (Nat × Packet) := []
  bad     : Bool := false
  deriving DecidableEq, Repr, Inhabited

/-- A packet at a crossbar input (04 R88): when its header arrived there, the cells that have arrived (04 R83: cells cross ahead of the trailer), the
cells still to cross to each destination. -/
structure XEntry where
  fl      : Flight
  input   : Nat
  trunk   : Bool
  cells   : Nat
  came    : Nat := 0
  inn     : Nat
  left    : List (XDest × Nat)
  dests   : List Nat := []
  reserve : Option Nat := none
  noDefl  : Bool := false
  final   : Option Nat := none
  deriving DecidableEq, Repr, Inhabited

/-- A packet in a bridge transmit queue (04 R90 to R93): cells in, cells out, the far ports (empty: deflected toward `final`). -/
structure BEntry where
  fl    : Flight
  cells : Nat
  inn   : Nat
  out   : Nat
  dests : List Nat
  final : Option Nat := none
  deriving DecidableEq, Repr, Inhabited

/-- A packet in an egress queue (04 R84): its cells and how many have arrived. -/
structure EEntry where
  fl    : Flight
  cells : Nat
  inn   : Nat
  deriving DecidableEq, Repr, Inhabited

/-- Why the module originated a packet: what its acknowledgement, response or refusal concerns. -/
inductive Purpose where
  | plain
  | result (h step chunk part : Nat)
  | response
  | thread (t : ThreadRef)
  | put (die : Nat) (desc : Nat)
  deriving DecidableEq, Repr, Inhabited

/-- An originated packet waiting at the Brake (04 R103, R104); `pace` names the thread, ended or not, whose self-brake it meets (08 R188, 09 R234). -/
structure Held where
  pkt     : Packet
  block   : Nat
  purpose : Purpose
  port    : Option Nat := none
  pace    : Option Nat := none
  resend  : Bool := false
  dupRsp  : Bool := false
  deriving DecidableEq, Repr, Inhabited

/-- A multicast WRITE whose dies have still to report their missing members (05 R134): flight id, header, owner, dies awaited,
missing members with their reasons. -/
structure McastRep where
  id      : Nat
  hdr     : Header
  owner   : Nat
  port    : Nat
  wait    : List Nat
  missing : List (Nat × Nat) := []
  deriving DecidableEq, Repr, Inhabited

/-- One hub die: crossbar, bridges, Brake, unit counters (04, 17 R422). `rateCut` is what each destination's rate lacks of its port rate, `tokens`
what each destination's bucket lacks of 4,176 bytes; `alt` the x2 port last served at a point; `droopOn` whether the die's own detector is engaged,
`pace` the self-brake of each thread by launch and context, `stretchAt` since when and `stretched` for how long before the clock has been stretched
(16 R409); `failing` the flights whose trailer will fail, with their cells still to arrive (04 R83). -/
structure Hub where
  gPtr      : List Nat := List.replicate 32 0
  aPtr      : List Nat := List.replicate 32 0
  xq        : List XEntry := []
  bridges   : Tab (List BEntry) := []
  credit    : Tab Nat := []
  alt       : Tab Nat := []
  mcast     : List McastRep := []
  rateCut   : Tab Rat := []
  lastDec   : Tab (Option Nat) := []
  lastMark  : Tab Nat := []
  lastInc   : Tab Nat := []
  tokens    : Tab Rat := []
  pace      : Tab Pace := []
  dieTok    : Rat := 4176
  held      : List Held := []
  ovfView   : List Nat := []
  echoes    : List Nat := []
  missing   : List (Nat × List (Nat × Nat)) := []
  choice    : Nat := 0
  ladle     : Nat := 0
  galley    : Nat := 0
  droop     : Nat := 0
  resends   : Nat := 0
  lostSmp   : Nat := 0
  smpGap    : Bool := false
  stretch   : Bool := false
  droopOn   : Bool := false
  stretchAt : Nat := 0
  stretched : Nat := 0
  waitPool  : List Desc := []
  failing   : List (Nat × Nat) := []
  deriving DecidableEq, Repr

/-- The stages of the hitch (12 R308, R321). -/
inductive Stage where
  | disabled | detect | sound | align | identify | verify | up | listen | quarantine | backoff
  deriving DecidableEq, Repr, Inhabited

/-- The port counters (17 R420). -/
structure PortCnt where
  rxPkts   : Nat := 0
  txPkts   : Nat := 0
  rxCells  : Nat := 0
  txCells  : Nat := 0
  stall    : Nat := 0
  crcFail  : Nat := 0
  refused  : Nat := 0
  resendRx : Nat := 0
  marked   : Nat := 0
  diverted : Nat := 0
  flushed  : Nat := 0
  deriving DecidableEq, Repr, Inhabited

/-- A port (04, 12, 13, 17). `tx` is its transmitter, `sentT` the timing messages sent, `beaconEnd` when its beacon ends, `rxEnd` and `rxFill` the end
of the DATA round that a port in Quarantine counted last and the bytes of it seen. `frames` counts, per lane index, the consecutive good training
frames; `egWait` holds the packets written directly toward the egress queue that wait for room (04 R83, R87). -/
structure Port where
  stage      : Stage := .disabled
  failures   : Nat := 0
  failStage  : Nat := 0
  failCause  : Nat := 0
  txIdle     : Bool := false
  rxIdle     : Bool := false
  ups        : Nat := 0
  disabled   : Bool := false
  since      : Nat := 0
  backoff    : Nat := 0
  beacons    : Nat := 0
  frames     : Tab Nat := []
  gotId      : Bool := false
  acked      : Bool := false
  check      : Nat := 0
  pEpa       : Nat := 0
  pPort      : Nat := 0
  pSerial    : Nat := 0
  minor      : Nat := 0
  discarded  : Nat := 0
  paired     : Bool := false
  misSent    : Bool := false
  delay      : Nat := 0
  samples    : List Int := []
  lastT      : Option (Nat × Nat) := none
  ueTimes    : List Nat := []
  dropStream : Bool := false
  sawIdle    : Bool := false
  idleAt     : Nat := 0
  syncOff    : Int := 0
  syncAt     : Option Nat := none
  egq        : List EEntry := []
  ctlq       : List EEntry := []
  markDepth  : Option Nat := none
  winMax     : Nat := 0
  winOvf     : Bool := false
  ovf        : Bool := false
  ovfList    : List Flight := []
  egWait     : List Flight := []
  flushing   : Bool := false
  flushIn    : Nat := 0
  flushOut   : Nat := 0
  flushOvf   : Nat := 0
  cnt        : PortCnt := {}
  hist       : Tab Nat := []
  smpCount   : Nat := 0
  cert       : Nat := 0
  certDwell  : Nat := 0
  certEnd    : Nat := 0
  tx         : TxLine := {}
  sentT      : Nat := 0
  beaconEnd  : Nat := 0
  rxEnd      : Nat := 0
  rxFill     : Nat := 0
  x8alt      : Bool := false
  deriving DecidableEq, Repr, Inhabited

/-- A logical lane (12 R306, R316 to R318, R321); `injPast` holds the injections that later ones followed since its generator started. -/
structure Lane where
  signal   : Bool := false
  cdr      : Bool := false
  cw       : Bool := false
  polInv   : Bool := false
  idle     : Bool := false
  rxLane   : Nat := 0
  skew     : Nat := 0
  ctle     : Nat := 0
  eye      : Bool := false
  ce       : Nat := 0
  ue       : Nat := 0
  gen      : Option Nat := none
  chk      : Option Nat := none
  lock     : Bool := false
  bits     : Nat := 0
  bitErr   : Nat := 0
  symErr   : Nat := 0
  slip     : Nat := 0
  inject   : Option Inject := none
  injPast  : List Inject := []
  taps     : List Int := [0, -4, 52, -8, 0, 0]
  tapStat  : List Nat := [0, 0, 0, 0, 0, 0]
  ask      : List Nat := [0, 0, 0, 0, 0, 0]
  ready    : Bool := false
  genAt    : Nat := 0
  seed     : Nat := 0
  count    : Nat := 0
  deriving DecidableEq, Repr, Inhabited

/-- What a larder request does (10 R249 to R256). -/
inductive LKind where
  | read | write
  | vadd (fmt : Nat) | vaddExact (fmt : Nat) | scatterAdd (fmt : Nat)
  | copy (src : Nat) | fill | pageGather
  | atomic (code : Nat) (wide : Bool)
  | gLoad (dest : Dest)
  | gStore
  | gAmo (op : AmoOp) (rd : Nat)
  deriving DecidableEq, Repr, Inhabited

/-- A larder request in progress (10 R248, R249): its packet, arrival port or thread, larder address, length, data, parts left. COPY, PAGE_GATHER and
VADD_EXACT run in phases (10 R252): COPY reads (0) and writes (1); PAGE_GATHER reads a list entry (0), reads a token (1) and writes it (2); `idx` counts
tokens or elements, `buf` holds what was read, `base` is the larder address of the page list's first entry, `page` of the page, `src` of the token;
`spans` are the larder addresses and lengths of a thread's load or store. -/
structure LReq where
  id     : Nat
  kind   : LKind
  pkt    : Packet
  port   : Nat
  thread : Option ThreadRef
  block  : Nat
  win    : Nat
  addr   : Nat
  len    : Nat
  data   : List Byte
  left   : Nat
  phase  : Nat := 0
  idx    : Nat := 0
  base   : Nat := 0
  page   : Nat := 0
  src    : Nat := 0
  buf    : List Byte := []
  spans  : List (Nat × Nat) := []
  deriving DecidableEq, Repr, Inhabited

/-- One part of a request (10 R248): `len` bytes at larder address `addr`, which are the bytes from `off` of the request's data; `also` names the
other die of an accumulator state that lies on two. -/
structure LPart where
  req  : Nat
  addr : Nat
  off  : Nat
  len  : Nat
  also : Option Nat := none
  deriving DecidableEq, Repr, Inhabited

/-- A packet held on its port's local path (06 R153, 08 R196): its port, its source's block, the Ladle's checks of a contribution, when it
arrived (03 R73), and the larder request it was decoded to (02 R36). -/
structure LocalWait where
  port  : Nat
  block : Nat
  pkt   : Packet
  check : List LadleCheck
  came  : Nat := 0
  req   : Option LReq := none
  deriving DecidableEq, Repr

/-- An exact cell (10 R258): element format code and state. -/
structure Cell where
  fmt : Nat
  acc : Acc
  deriving DecidableEq, Repr, Inhabited

/-- The counters of one larder die (10 R269, 17 R423). -/
structure LDie where
  queue    : List LPart := []
  ce       : Nat := 0
  ue       : Nat := 0
  lastAddr : Nat := 0
  lastStk  : Nat := 0
  lastPc   : Nat := 0
  stalls   : Nat := 0
  choice   : Nat := 0
  spares   : Nat := 0
  deriving DecidableEq, Repr, Inhabited

/-- The larder (10). `ceHour` holds, per pseudo-channel, the times of the last hour's corrected errors (10 R261); `dmap`, per stack, the datapaths that
are marked (10 R242); `recHeld` the bytes of records that each hub die
has queued (11 R288), `recDraw` the free values drawn for them (the model's own). -/
structure Larder where
  mem     : Mem := []
  reqs    : List LReq := []
  nextId  : Nat := 0
  dies    : Tab LDie := []
  badUnits : List Nat := []
  cells   : Tab (Option Cell) := []
  grants  : List (Nat × Nat × Nat) := []
  rings   : List (Nat × Nat × Nat) := []
  slots   : Tab Nat := []
  ceHour  : Tab (List Nat) := []
  state   : Nat := 0
  hot     : List Nat := []
  dmap    : Tab (List Nat) := []
  lastOvfFault : Option Nat := none
  recHeld : Tab Nat := []
  recDraw : Nat := 0
  deriving DecidableEq, Repr, Inhabited

/-- Receive state of one source (03 R63, R65), its coalescing period (03 R73), and the numbers of its marked packets that no ACK has covered (03 R80). -/
structure Recv where
  base   : Nat := 0
  map    : BitVec 4096 := 0
  fresh  : Nat := 0
  since  : Nat := 0
  marks  : List Nat := []
  limit  : Nat := 0
  delay  : Nat := 0
  port   : Nat := 0
  deriving DecidableEq, Repr, Inhabited

/-- An originated packet not yet acknowledged or answered (03 R79); `acked`: an ACK has covered a request that still waits for its response
(03 R76). -/
structure OutPkt where
  pkt     : Packet
  die     : Nat
  block   : Nat
  purpose : Purpose
  port    : Option Nat := none
  expires : Option Nat := none
  rto     : Nat
  limit   : Nat
  tries   : Nat := 0
  waiting : List Nat
  acked   : Bool := false
  deriving DecidableEq, Repr, Inhabited

/-- End-to-end state (03). -/
structure E2e where
  recv  : Tab Recv := []
  txSeq : Tab Nat := []
  out   : List OutPkt := []
  deriving DecidableEq, Repr, Inhabited

/-- The axle counter and its servo (13 R338 to R343). -/
structure Axle where
  value    : Nat := 0
  locked   : Bool := false
  holdover : Bool := false
  everLock : Bool := false
  warmWait : Bool := false
  inBand   : Nat := 0
  outBand  : Nat := 0
  median   : Int := 0
  slew     : Int := 0
  lastElig : Nat := 0
  firstUp  : Option Nat := none
  eligible : Nat := 0
  lastSync : Nat := 0
  deriving DecidableEq, Repr, Inhabited

/-- A certification result (13 R346). -/
structure CertRes where
  result : Nat := 0
  mode   : Nat := 0
  lane   : Nat := 0
  worst  : Nat := 0
  at_    : Nat := 0
  deriving DecidableEq, Repr, Inhabited

/-- A certification run in progress (13 R336, R337): tag of its CERT_RUN, ports still to report, those that have failed in its
course, and those whose own dwell has ended, with whether every checker held lock. -/
structure CertRun where
  tag    : Option Nat
  mode   : Nat
  ports  : List Nat
  endAt  : Nat := 0
  bad    : List Nat := []
  ended  : List (Nat × Bool) := []
  deriving DecidableEq, Repr, Inhabited

/-- Where a ring stood before the records of the cycle that it now writes (11 R284). -/
structure RingMark where
  records : Nat := 0
  recSeq  : Nat := 0
  first   : Nat := 64
  used    : Nat := 64
  sizes   : List (Nat × Nat) := []
  deriving DecidableEq, Repr, Inhabited

/-- A recording, capture or replay-input ring (11 R283 to R293, 17 R431 to R434). State 0 free, 1 recording, 2 complete, 3 replay input.
`lostNow` counts the records lost just before the next one (11 R288); `cycAt` is when it last wrote, `cyc` the records of that cycle with their
places in its order, `mark` where it stood before them. -/
structure Ring where
  st        : Nat := 0
  capture   : Bool := false
  block     : Nat := 0
  port      : Nat := 0xFFFF
  mib       : Nat := 0
  base      : Nat := 0
  egress    : Bool := false
  wrap      : Bool := false
  digest    : Bool := false
  replayOut : Bool := false
  complete  : Bool := false
  faulted   : Bool := false
  begun     : Bool := false
  waitStep  : Option Nat := none
  set       : Nat := 0
  plane     : Nat := 0
  steady    : Bool := false
  arithRev  : Nat := 3
  startStep : Nat := 0
  startAxle : Nat := 0
  startAt   : Nat := 0
  records   : Nat := 0
  recSeq    : Nat := 0
  lost      : Nat := 0
  lostNow   : Nat := 0
  crcSkip   : Nat := 0
  first     : Nat := 64
  used      : Nat := 64
  sizes     : List (Nat × Nat) := []
  winStart  : Nat := 0
  winBytes  : Nat := 0
  prevBytes : Nat := 0
  cycAt     : Nat := 0
  cyc       : List (Nat × List Byte) := []
  mark      : RingMark := {}
  deriving DecidableEq, Repr, Inhabited

/-- The replay in progress (11 R290 to R293). -/
structure Replay where
  running : Bool := false
  inRing  : Nat := 0
  outRing : Nat := 0
  pos     : Nat := 64
  nextSeq : Nat := 0
  t0      : Nat := 0
  n0      : Nat := 0
  axle0   : Option Nat := none
  cyc0    : Nat := 0
  live    : Nat := 0
  deriving DecidableEq, Repr, Inhabited

/-- The telemetry stream (17 R424; `repl` the sets, period and first boundary of a stream that will replace it) and sampling (17 R428). -/
structure Telem where
  running : Bool := false
  sets    : Nat := 0
  period  : Nat := 0
  next    : Nat := 0
  repl    : Option (Nat × Nat × Nat) := none
  smpOn   : Bool := false
  smpPort : Nat := 0
  smpN    : Nat := 0
  smpTrunc : Nat := 0
  deriving DecidableEq, Repr, Inhabited

/-- An eye scan in progress on a chiplet (12 R319). -/
structure EyeScan where
  chiplet : Nat
  lane    : Nat
  tag     : Nat
  deriving DecidableEq, Repr, Inhabited

/-- The state of the module. `code` is, per core, the code that it fetches: its own memories as of its last FENCE.I or the load (08 R204); `issue`
tells which thread of a core issued last, plus one (08 R200). -/
structure State where
  pending  : List Instr := []
  now      : Nat := 0
  freeCtr  : Nat := 0
  flightId : Nat := 0
  fixed    : Fixed := {}
  nv       : NonVolatile := {}
  mod      : Mod := {}
  lonus    : Lonus := {}
  i3c      : I3c := {}
  mgmt     : Mgmt := {}
  pwr      : Power := {}
  therm    : Thermal := {}
  cool     : Coolant := {}
  ehrok    : Ehrok := {}
  regs     : Tab (Option Word) := []
  held     : Tab (Option Word) := []
  winEff   : Tab Window := []
  winPend  : List WinPend := []
  blocks   : Tab Block := []
  noBlockAt : Tab (Option Nat) := []
  cslots   : Tab CSlot := []
  epoch    : Epochs := {}
  harn     : Tab Harness := []
  coll     : Coll := {}
  localQ   : List LocalWait := []
  img      : Tab Image := []
  clusters : Tab (Option Nat) := []
  thr      : Tab Thread := []
  scratch  : Mem := []
  cmem     : Mem := []
  code     : Tab Mem := []
  issue    : Tab Nat := []
  eng      : Tab Engine := []
  descId   : Nat := 0
  hub      : Tab Hub := []
  ports    : Tab Port := []
  lanes    : Tab Lane := []
  lmap     : Tab (List Nat) := []
  cmap     : Tab (List Nat) := []
  lard     : Larder := {}
  e2e      : E2e := {}
  axle     : Axle := {}
  cert     : Tab CertRes := []
  certRuns : List CertRun := []
  certAt   : Nat := 0
  rings    : Tab Ring := []
  replay   : Replay := {}
  telem    : Telem := {}
  eye      : List EyeScan := []
  wire     : List (Nat × Packet) := []
  deriving DecidableEq, Repr

/-- The factory firmware set that flash device F0 holds at reset (log 2): set 1042, built for stepping B1 and ARITH_REV 3. -/
def State.factoryFw : FwSet where
  version := 1
  nImages := 5
  set := 1042
  epoch := 7
  steppings := [0xB1]
  linkMajor := 1
  linkMinor := 2
  arithRev := 3
  signer := 0
  size := 50331648
  layoutOk := true
  keyDigest := []
  signatureOk := true
  ownerKeyDigest := none
  ownerSigOk := false
  entries := [(1, []), (2, []), (3, []), (4, []), (5, [])]
  images := [⟨1, 1042, true, []⟩, ⟨2, 1042, true, []⟩, ⟨3, 1042, true, []⟩, ⟨4, 1042, true, []⟩, ⟨5, 1042, true, []⟩]
  manifestDigest := []
  library := []

/-- The module right after reset: Off, nothing loaded, no plan, the factory set in F0 (18 R435, 13 R326; log 2). -/
def State.reset : State :=
  { fixed := { keyDigests := [[], [], [], []] },
    nv := { f0 := { state := .active, generation := 1, set := some State.factoryFw } } }

end Sys2Proof.Machine
end

