-- ==== Sys2Proof/Machine/Arith.lean ====
section
/-! DEFINITION. The exact reduction arithmetic (07): accumulator states, input conversion, addition, rounding, the random generator, checks,
and the ranking of candidates (06 R156, 09 R226). -/

namespace Sys2Proof.Machine

/-- The largest finite accumulator integer plus one (07 R165). -/
def accLim : Int := 2 ^ 310

/-- The 320-bit pattern of a state (07 R165). -/
def accWord : Acc → Nat
  | .fin a => twos 320 a
  | .pInf => 0x1FF * 2 ^ 310
  | .nInf => 0x200 * 2 ^ 310
  | .nan => 0x100 * 2 ^ 310
  | .negZero => 0x300 * 2 ^ 310

/-- The state a 320-bit pattern spells; none where the pattern breaks R165. -/
def accOf (w : Nat) : Option Acc :=
  let top : Nat := w / 2 ^ 310 % 1024
  let low : Nat := w % 2 ^ 310
  if top = 0 then some (.fin (Int.ofNat low))
  else if top = 0x3FF then some (.fin (Int.ofNat low - 2 ^ 310))
  else if low ≠ 0 then none
  else if top = 0x1FF then some .pInf else if top = 0x200 then some .nInf
  else if top = 0x100 then some .nan else if top = 0x300 then some .negZero else none

/-- The 40 bytes of a state. -/
def accBytes (a : Acc) : List Byte := leBytes 40 (accWord a)

/-- The state of an integer sum: one that leaves the finite range becomes infinite (07 R170). -/
def accFin (n : Int) : Acc := if n ≥ accLim then .pInf else if n < -accLim then .nInf else .fin n

/-- State addition (07 R169, R170). -/
def accAdd (s t : Acc) : Acc :=
  match s, t with
  | .nan, _ | _, .nan => .nan
  | .pInf, .nInf | .nInf, .pInf => .nan
  | .pInf, _ | _, .pInf => .pInf
  | .nInf, _ | _, .nInf => .nInf
  | .negZero, x => x
  | x, .negZero => x
  | .fin a, .fin b => accFin (a + b)

/-- Whether a state is NaN or infinite. -/
def accSpecial : Acc → Bool
  | .nan | .pInf | .nInf => true
  | _ => false

-- Residue checks (07 R180)

/-- The residue of an integer in 0 to m - 1. -/
def residue (m : Nat) (x : Int) : Nat := (x % (m : Int)).toNat

/-- The check of an add of T into S whose adder put out Z: modulo 255 and modulo 253. -/
def residueOk (s t z : Int) : Bool := [255, 253].all fun m => decide ((residue m s + residue m t) % m = residue m z)

/-- What the adder of element `j` puts out: the sum, and what an upset of the hardware adds to it (an input of the row; log 13). -/
def adderOut (c : LadleCheck) (j : Nat) (a b : Int) : Int :=
  a + b + (match c with | .upset k d => if k = j then d else 0 | _ => 0)

/-- The state that the Ladle stores for element `j`. -/
def ladleSum (c : LadleCheck) (j : Nat) (s t : Acc) : Acc :=
  match s, t with
  | .fin a, .fin b => accFin (adderOut c j a b)
  | _, _ => accAdd s t

/-- Whether the residue check of element `j`'s add fails; an add in which S or T is not finite is not checked. -/
def residueMiss (c : LadleCheck) (j : Nat) (s t : Acc) : Bool :=
  match s, t with
  | .fin a, .fin b => !residueOk a b (adderOut c j a b)
  | _, _ => false

-- Formats (06 R138, 07 R167, R173, R174)

/-- Exponent and mantissa widths and bias of a floating format code; MX codes give their element's. -/
def fpShape (f : Nat) : Nat × Nat × Nat :=
  match f with
  | 0 => (8, 23, 127) | 1 => (8, 7, 127) | 2 => (5, 10, 15) | 3 => (4, 3, 7) | 4 => (5, 2, 15)
  | 5 => (4, 3, 7) | 6 => (5, 2, 15) | 7 => (3, 2, 3) | 8 => (2, 3, 1) | 9 => (2, 1, 1)
  | _ => (0, 0, 0)

/-- Whether a code is an integer format (MXINT8 elements included). -/
def isIntFmt (f : Nat) : Bool := decide (10 ≤ f)

/-- Whether a code is an MX format. -/
def isMx (f : Nat) : Bool := decide (5 ≤ f ∧ f ≤ 10)

/-- Bits of an element (06 R138). -/
def elemBits (f : Nat) : Nat :=
  match f with
  | 0 | 12 => 32 | 1 | 2 => 16 | 7 | 8 => 6 | 9 => 4 | _ => 8

/-- Payload bytes of a chunk of `e` elements (06 R139). -/
def chunkBytes (f e : Nat) : Nat := alignUp (ceilDiv (elemBits f * e) 8 + (if isMx f then ceilDiv e 32 else 0)) 32

/-- Bytes without the padding to 32 B. -/
def denseBytes (f e : Nat) : Nat := ceilDiv (elemBits f * e) 8 + (if isMx f then ceilDiv e 32 else 0)

/-- A signed magnitude as a state. -/
def accSigned (neg : Bool) (m sh : Nat) : Acc :=
  if m = 0 then (if neg then .negZero else .fin 0)
  else .fin (if neg then -((m * 2 ^ sh : Nat) : Int) else ((m * 2 ^ sh : Nat) : Int))

/-- Convert an element's bits, under MX scale byte `x` (127 for the other formats) (07 R167, R168). -/
def convert (f w x : Nat) : Acc :=
  if isMx f ∧ x = 255 then .nan
  else if isIntFmt f then
    let n := elemBits f
    .fin (signed n w * 2 ^ (if f = 10 then 149 - 6 + x - 127 else 149))
  else
    let (eb, mb, bias) := fpShape f
    let e := bits w mb eb
    let m := bits w 0 mb
    let neg := bit w (eb + mb)
    let ieee := decide (f ≤ 2 ∨ f = 4 ∨ f = 6)
    if ieee ∧ e = 2 ^ eb - 1 then (if m = 0 then (if neg then .nInf else .pInf) else .nan)
    else if (f = 3 ∨ f = 5) ∧ e = 15 ∧ m = 7 then .nan
    else if e = 0 then accSigned neg m (1 + 149 + x - 127 - bias - mb)
    else accSigned neg (2 ^ mb + m) (e + 149 + x - 127 - bias - mb)

/-- The states that a chunk's payload holds (06 R139, 07 R168). -/
def decodeChunk (f e : Nat) (payload : List Byte) : List Acc :=
  let v := ofLe payload
  let w := elemBits f
  let base := ceilDiv (w * e) 8
  (List.range e).map fun i => convert f (bits v (w * i) w) (if isMx f then getLe payload (base + i / 32) 1 else 127)

/-- Precision and emin of a floating output format (07 R173, R174). -/
def outShape (f : Nat) : Nat × Int :=
  match f with
  | 0 => (24, -126) | 1 => (8, -126) | 2 => (11, -14) | 3 | 5 => (4, -6) | 4 | 6 => (3, -14)
  | 7 => (3, -2) | 8 => (4, 0) | 9 => (2, 0) | _ => (1, 0)

/-- The code of a format's largest finite magnitude. -/
def maxCode (f : Nat) : Nat :=
  match f with
  | 0 => 0x7F7FFFFF | 1 => 0x7F7F | 2 => 0x7BFF | 3 | 5 => 0x7E | 4 | 6 => 0x7B | 7 | 8 => 0x1F | _ => 0x7

/-- The code of a finite overflow (07 R173): infinity, or the largest magnitude where there is none or the element is MX. -/
def overCode (f : Nat) : Nat :=
  match f with
  | 0 => 0x7F800000 | 1 => 0x7F80 | 2 => 0x7C00 | 4 => 0x7C | _ => maxCode f

/-- The sign bit's weight of a floating format. -/
def signBit (f : Nat) : Nat := 2 ^ (elemBits f - 1)

/-- The NaN code (07 R173). -/
def nanCode (f : Nat) : Nat :=
  match f with
  | 0 => 0x7FC00000 | 1 => 0x7FC0 | 2 => 0x7E00 | 3 => 0x7F | 4 => 0x7E | _ => 0

/-- The code of an infinite state (07 R173). -/
def infCode (f : Nat) (neg : Bool) : Nat := if f = 3 then 0x7F else overCode f + (if neg then signBit f else 0)

/-- Round a magnitude at quantum bit `t`: to nearest even, or up where the drawn value is below the discarded fraction (07 R172). -/
def roundAt (m t : Nat) (rnd : Option Nat) : Nat :=
  let n := m / 2 ^ t
  let d := m % 2 ^ t
  match rnd with
  | none => if 2 * d > 2 ^ t ∨ (t > 0 ∧ 2 * d = 2 ^ t ∧ n % 2 = 1) then n + 1 else n
  | some r => if r < d * 2 ^ 32 / 2 ^ t then n + 1 else n

/-- The index of the highest set bit. -/
def topBit (m : Nat) : Nat := Nat.log2 m

/-- Round a non-zero finite state to a floating format under a scale exponent `x` (0 outside MX) (07 R172 to R174). The state counts
units of 2^-`w`: 149 in the Ladle (07 R165), 213 in the Whisk (09 R230). -/
def roundFp (a : Int) (f : Nat) (x : Int) (rnd : Option Nat) (w : Nat := 149) : Nat :=
  let neg := decide (a < 0)
  let m := a.natAbs
  let (p, emin) := outShape f
  let q : Int := max ((topBit m : Int) - w - (p - 1)) (emin - (p - 1) + x)
  let n0 := roundAt m (q + w).toNat rnd
  let (n, q) := if n0 ≥ 2 ^ p then (n0 / 2, q + 1) else (n0, q)
  let q := q - x
  let code := if n < 2 ^ (p - 1) then n else ((q - (emin - (p - 1)) + 1).toNat) * 2 ^ (p - 1) + (n - 2 ^ (p - 1))
  (if code > maxCode f then overCode f else code) + (if neg then signBit f else 0)

/-- Clamp a rounded magnitude to a two's-complement format of `n` bits. -/
def clampInt (n : Nat) (neg : Bool) (m : Nat) : Nat :=
  if neg then twos n (-(min m (2 ^ (n - 1)) : Nat)) else min m (2 ^ (n - 1) - 1)

/-- Round a state to an element of a format outside MX (07 R172, R173). -/
def roundOut (a : Acc) (f : Nat) (rnd : Option Nat) (w : Nat := 149) : Nat :=
  if isIntFmt f then
    let n := elemBits f
    match a with
    | .nan | .negZero => 0
    | .pInf => 2 ^ (n - 1) - 1
    | .nInf => 2 ^ (n - 1)
    | .fin v => clampInt n (decide (v < 0)) (roundAt v.natAbs w rnd)
  else
    match a with
    | .nan => nanCode f
    | .pInf => infCode f false
    | .nInf => infCode f true
    | .negZero => signBit f
    | .fin v => if v = 0 then 0 else roundFp v f 0 rnd w

/-- The magnitude of a finite state. -/
def accMag : Acc → Nat
  | .fin a => a.natAbs
  | _ => 0

/-- emax of an MX element format (07 R174). -/
def mxEmax (f : Nat) : Int :=
  match f with
  | 5 => 8 | 6 => 15 | 7 => 4 | 8 => 2 | 9 => 2 | _ => 0

/-- The scale byte of a block (07 R174). -/
def mxScale (f : Nat) (blk : List Acc) (w : Nat := 149) : Nat :=
  if blk.any accSpecial then 255
  else
    let mm := maxNat (blk.map accMag)
    if mm = 0 then 127 else (min 254 (max 0 ((topBit mm : Int) - w - mxEmax f + 127))).toNat

/-- One element of an MX block under scale byte `x` (07 R174). -/
def mxElem (f x : Nat) (a : Acc) (rnd : Option Nat) (w : Nat := 149) : Nat :=
  if x = 255 then 0
  else match a with
    | .negZero => if f = 10 then 0 else signBit f
    | .fin v =>
      if v = 0 then 0
      else if f = 10 then clampInt 8 (decide (v < 0)) (roundAt v.natAbs (w - 6 + x - 127) rnd)
      else roundFp v f ((x : Int) - 127) rnd w
    | _ => 0

/-- The blocks of 32 elements of a list; `n` bounds their number. -/
def blocks32 {α : Type} : Nat → List α → List (List α)
  | 0, _ => []
  | n + 1, l => if l.isEmpty then [] else l.take 32 :: blocks32 n (l.drop 32)

/-- Pack `w`-bit codes densely. -/
def packBits (w : Nat) (cs : List Nat) : List Byte :=
  leBytes (ceilDiv (w * cs.length) 8) (((enum cs).map fun e => e.2 * 2 ^ (w * e.1)).sum)

/-- The payload of rounded elements, `rnd i` the drawn value of element `i`, padded to 32 B (06 R139). -/
def encodeChunk (f : Nat) (elems : List Acc) (rnd : Nat → Option Nat) (w : Nat := 149) : List Byte :=
  let body :=
    if isMx f then
      let bl := blocks32 (elems.length / 32 + 1) elems
      let sc := bl.map (mxScale f · w)
      packBits (elemBits f) ((enum elems).map fun e => mxElem f ((sc[e.1 / 32]?).getD 127) e.2 (rnd e.1) w) ++
        sc.map (BitVec.ofNat 8)
    else packBits (elemBits f) ((enum elems).map fun e => roundOut e.2 f (rnd e.1) w)
  body ++ List.replicate (alignUp body.length 32 - body.length) 0

-- The random generator (07 R175)

def rotl32 (v n : Nat) : Nat := v * 2 ^ n % 2 ^ 32 + v / 2 ^ (32 - n)

/-- One of the two rounds. -/
def rand32Round (a b c d : Nat) : Nat × Nat × Nat × Nat :=
  let a := (a + b) % 2 ^ 32
  let d := rotl32 (d ^^^ a) 16
  let c := (c + d) % 2 ^ 32
  let b := rotl32 (b ^^^ c) 12
  let a := (a + b) % 2 ^ 32
  let d := rotl32 (d ^^^ a) 8
  let c := (c + d) % 2 ^ 32
  let b := rotl32 (b ^^^ c) 7
  (a, b, c, d)

/-- The generator value of an element (07 R175). -/
def rand32 (seed step h idx : Nat) : Nat :=
  let a := seed % 2 ^ 32
  let b := seed / 2 ^ 32 % 2 ^ 32 ^^^ step / 2 ^ 16 % 2 ^ 32
  let c := idx % 2 ^ 32
  let d := step % 2 ^ 16 * 2 ^ 16 + h % 1024 * 16 + idx / 2 ^ 32 % 16
  let (a, b, c, d) := rand32Round a b c d
  let (a, b, c, d) := rand32Round a b c d
  a ^^^ b ^^^ c ^^^ d

-- Sum-checks (07 R181, R182)

/-- The modulus of the sum-check. -/
def sumP : Nat := 0xFFFFFFFB

/-- The check image of an element (07 R181). -/
def accImage : Acc → Nat
  | .fin a => (a % (sumP : Int)).toNat
  | _ => 0

/-- The check of a chunk (07 R181). -/
def sumCheck (elems : List Acc) : Nat := ((enum elems).map fun e => (e.1 + 1) * accImage e.2).sum % sumP

/-- What an add takes from the check register: the images that a non-finite state hides (07 R182). -/
def hidden (olds news : List Acc) : Nat :=
  ((enum (olds.zip news)).map fun e =>
    let (s, t) := e.2
    if accSpecial s then (e.1 + 1) * accImage t
    else if accSpecial (accAdd s t) then (e.1 + 1) * accImage s else 0).sum % sumP

/-- The check register after an add of `news` with check `c` (07 R182). -/
def checkAdd (k c : Nat) (olds news : List Acc) : Nat := (k + c + (sumP - hidden olds news)) % sumP

-- Fast FP32 mode (07 R177)

/-- IEEE binary32 addition, round to nearest even, subnormals kept; NaN is 0x7FC00000. -/
def fp32Add (a b : Word) : Word :=
  BitVec.ofNat 32 (roundOut (accAdd (convert 0 a.toNat 127) (convert 0 b.toNat 127)) 0 none)

/-- Element-wise addition. -/
def fp32AddAll (a b : List Word) : List Word := (a.zip b).map fun e => fp32Add e.1 e.2

/-- Enter values at a level: while the level holds a value, add and carry; the answer counts the additions. -/
def fastEnter : List (Option (List Word)) → List Word → List (Option (List Word)) × Nat
  | [], v => ([some v], 0)
  | none :: ls, v => (some v :: ls, 0)
  | some u :: ls, v => let (r, n) := fastEnter ls (fp32AddAll u v); (none :: r, n + 1)

/-- Fold the pending levels from level 0 upward; the answer counts the additions. -/
def fastFinish (ls : List (Option (List Word))) : Option (List Word) × Nat :=
  ls.foldl (fun acc l => match acc.1, l with
    | none, x => (x, acc.2)
    | x, none => (x, acc.2)
    | some u, some v => (some (fp32AddAll u v), acc.2 + 1)) (none, 0)

/-- A FP32 result as it is written: NaN is 0x7FC0_0000 (07 R177). -/
def fp32Canon (w : Word) : Word := if 0x7F800000 < w.toNat % 2 ^ 31 then 0x7FC00000 else w

-- Ranking (06 R156, 09 R226)

/-- A key's numeric value; none for NaN, which ranks after every other key. -/
def keyVal (f key : Nat) : Option Int :=
  match convert f key 127 with
  | .nan => none
  | .pInf => some (2 ^ 400)
  | .nInf => some (-(2 ^ 400))
  | .negZero => some 0
  | .fin a => some a

/-- Whether candidate (rank, key, index) `a` ranks before or with `b`: key highest first, then lower index, then lower rank. -/
def candLe (f : Nat) (a b : Nat × Nat × Nat) : Bool :=
  let tie := decide (a.2.2 < b.2.2 ∨ (a.2.2 = b.2.2 ∧ a.1 ≤ b.1))
  match keyVal f a.2.1, keyVal f b.2.1 with
  | some x, some y => if x = y then tie else decide (x > y)
  | some _, none => true
  | none, some _ => false
  | none, none => tie

end Sys2Proof.Machine
end

