-- ==== Sys2Proof/Machine/Crc.lean ====
section
/-! DEFINITION. The CRC-64 of 03 R59, the CRC-16 of 12 R307, and the byte form of a packet header (03 R54). -/

namespace Sys2Proof.Machine

/-- One bit of the reflected CRC-64: the bit-reversed ECMA-182 polynomial (03 R59). -/
def crc64Bit (c : Nat) : Nat := if c % 2 = 1 then (c / 2) ^^^ 0xC96C5795D7870F42 else c / 2

/-- `n` bits of the CRC-64. -/
def crc64Bits : Nat → Nat → Nat
  | 0, c => c
  | n + 1, c => crc64Bits n (crc64Bit c)

/-- The CRC register after some bytes. -/
def crc64Run (c : Nat) (bs : List Byte) : Nat := bs.foldl (fun c b => crc64Bits 8 (c ^^^ b.toNat)) c

/-- The CRC-64 of bytes (03 R59): initial value and final XOR all ones. -/
def crc64 (bs : List Byte) : Nat := crc64Run 0xFFFFFFFFFFFFFFFF bs ^^^ 0xFFFFFFFFFFFFFFFF

/-- One bit of the CRC-16 of 12 R307 (x^16 + x^12 + x^5 + 1), most significant bit first in the register. -/
def crc16Bit (c : Nat) (b : Bool) : Nat :=
  let top := decide (c / 32768 % 2 = 1)
  let sh := c * 2 % 65536
  if (top != b) then sh ^^^ 0x1021 else sh

/-- The CRC-16 over bits `n - 1` to 0 of a control field, taken bit 0 first as they go on the wire (12 R307). -/
def crc16 (v n : Nat) : Nat := (List.range n).foldl (fun c i => crc16Bit c (bit v i)) 0xFFFF

/-- The ctl field of a header (03, table "ctl field"). -/
def ctlOf (h : Header) : Nat :=
  h.typ.toNat + 16 * h.tclass.toNat + 64 * b2n h.epoch + 128 * b2n h.mcast + 256 * b2n h.last +
    512 * b2n h.mark + 1024 * b2n h.resend + 2048 * h.rsvd.toNat

/-- Header bytes 0 to 31 (03 R54). -/
def headerBytes (h : Header) : List Byte :=
  leBytes 2 (ctlOf h) ++ leBytes 2 h.len.toNat ++ leBytes 2 h.dst.toNat ++ leBytes 2 h.src.toNat ++
  leBytes 4 h.seq.toNat ++ leBytes 2 h.ctag.toNat ++ leBytes 2 h.op.toNat ++ leBytes 6 h.addr.toNat ++
  leBytes 2 h.step.toNat ++ leBytes 4 h.chunk.toNat ++ leBytes 4 h.aux.toNat

/-- The header that 32 bytes spell (03 R54). -/
def headerOf (bs : List Byte) : Header :=
  let ctl := getLe bs 0 2
  { typ := BitVec.ofNat 4 ctl, tclass := BitVec.ofNat 2 (ctl / 16), epoch := bit ctl 6, mcast := bit ctl 7, last := bit ctl 8,
    mark := bit ctl 9, resend := bit ctl 10, rsvd := BitVec.ofNat 5 (ctl / 2048), len := BitVec.ofNat 16 (getLe bs 2 2),
    dst := BitVec.ofNat 16 (getLe bs 4 2), src := BitVec.ofNat 16 (getLe bs 6 2), seq := BitVec.ofNat 32 (getLe bs 8 4),
    ctag := BitVec.ofNat 16 (getLe bs 12 2), op := BitVec.ofNat 16 (getLe bs 14 2), addr := BitVec.ofNat 48 (getLe bs 16 6),
    step := BitVec.ofNat 16 (getLe bs 22 2), chunk := BitVec.ofNat 32 (getLe bs 24 4), aux := BitVec.ofNat 32 (getLe bs 28 4) }

/-- The trailer of a packet: the CRC-64 with the mark bit taken as 0 (03 R59). -/
def trailerOf (h : Header) (payload : List Byte) : Nat :=
  crc64 (headerBytes { h with mark := false } ++ payload)

/-- Whether a packet's trailer passes (03 R60). A payload that is not as long as len says fails with it. -/
def trailerOk (p : Packet) : Bool :=
  decide (p.payload.length = 32 * p.hdr.len.toNat) && decide (p.trailer.toNat = trailerOf p.hdr p.payload)

/-- The cells a packet occupies (04 R81). -/
def cellsOf (p : Packet) : Nat := ceilDiv (40 + 32 * p.hdr.len.toNat) 256

/-- The bytes of a packet on the wire (03 R53). -/
def wireBytes (p : Packet) : Nat := 40 + 32 * p.hdr.len.toNat

end Sys2Proof.Machine
end

