-- ==== Sys2Proof/Machine/Flags.lean ====
section
/-! DEFINITION. The codes of the module: command status (14 R357), NACK reasons (03 R75), packet types (03 R56), event codes (14 R366
and the chapters' own tables), Hold causes (18 R449), and the flag words computed from state. -/

namespace Sys2Proof.Machine

/-- Response status (14, table "Status codes"). -/
inductive Status where
  | ok | busyState | noSpace | badParam | badState | noPresence | sealOpen | version | restarted | notFound | denied | timeout | faulted
  deriving DecidableEq, Repr, Inhabited

/-- The code of a status (14 R357). -/
def statusCode : Status → Nat
  | .ok => 0 | .busyState => 1 | .noSpace => 2 | .badParam => 3 | .badState => 4 | .noPresence => 5 | .sealOpen => 6
  | .version => 7 | .restarted => 8 | .notFound => 9 | .denied => 10 | .timeout => 11 | .faulted => 12

/-- NACK reasons (03, table "NACK reasons"). -/
inductive Reason where
  | crc | badHdr | badSrc | badEpa | noRoute | noBlock | notActive | jobFault | outsideBlock | badAddr | seqWin | badTag
  | flushed | badOp | noHarness | noImage | stepWin
  deriving DecidableEq, Repr, Inhabited

/-- The code of a NACK reason (03 R75). -/
def reasonCode : Reason → Nat
  | .crc => 0x01 | .badHdr => 0x02 | .badSrc => 0x03 | .badEpa => 0x04 | .noRoute => 0x05 | .noBlock => 0x06
  | .notActive => 0x07 | .jobFault => 0x08 | .outsideBlock => 0x09 | .badAddr => 0x0A | .seqWin => 0x0B | .badTag => 0x0C
  | .flushed => 0x0D | .badOp => 0x0E | .noHarness => 0x0F | .noImage => 0x10 | .stepWin => 0x11

/-- Whether a reason code is retryable; a code outside the table is not (03 R75). -/
def retryable (code : Nat) : Bool := code == 0x01 || code == 0x0B || code == 0x0D

/-- Packet type codes (03 R56). -/
def tWRITE : Nat := 0
def tREADREQ : Nat := 1
def tREADRSP : Nat := 2
def tATOMIC : Nat := 3
def tATOMICRSP : Nat := 4
def tCONTRIB : Nat := 5
def tRESULT : Nat := 6
def tCALL : Nat := 7
def tACK : Nat := 8
def tNACK : Nat := 9
def tSHORTFALL : Nat := 10
def tSYNC : Nat := 11

/-- Whether a type is one of the four that draw no answer (03 R60) and take no number (03 R62). -/
def unnumbered (t : Nat) : Bool := decide (8 ≤ t ∧ t ≤ 11)

/-- Event codes of 14 R366. -/
def evStrapUnstable : Nat := 0x0201
def evTagReuse : Nat := 0x0202
def evHoldEnter : Nat := 0x0240
def evReadyEnter : Nat := 0x0241
def evRepairFound : Nat := 0x0242
def evRepairFull : Nat := 0x0243
def evPinReset : Nat := 0x0244
def evBlockHold : Nat := 0x0245
def evDrainLimit : Nat := 0x0246
def evTableDrained : Nat := 0x0301
def evDrainSlow : Nat := 0x0302
def evNoBlockSrc : Nat := 0x0401
def evBlockCross : Nat := 0x0402
def evCslotOverflow : Nat := 0x0403
def evCslotNonzero : Nat := 0x0404
def evResendLimit : Nat := 0x0405
def evPeerRefused : Nat := 0x0406
def evMcastShortfall : Nat := 0x0407
def evCollNotMember : Nat := 0x0408
def evCollDuplicate : Nat := 0x0409
def evCollTimeout : Nat := 0x040A
def evCollResidue : Nat := 0x040B
def evCollSumcheck : Nat := 0x040C
def evCollShortfall : Nat := 0x040D
def evCollEcc : Nat := 0x040E
def evSpillExhausted : Nat := 0x040F
def evOvfExhausted : Nat := 0x0410
def evStepSkew : Nat := 0x0411
def evLarderOp : Nat := 0x0501
def evLarderCe : Nat := 0x0502
def evLarderUe : Nat := 0x0503
def evGalleyFault : Nat := 0x0601
def evGalleyLog : Nat := 0x0602
def evGalleyFull : Nat := 0x0603
def evEngineFault : Nat := 0x0604
def evLinkUp : Nat := 0x0701
def evLinkDown : Nat := 0x0702
def evLinkListen : Nat := 0x0703
def evPortFlushed : Nat := 0x0704
def evSrcMismatch : Nat := 0x0705
def evPlanNotInForce : Nat := 0x0706
def evQuarantine : Nat := 0x0707
def evLikelySwap : Nat := 0x0708
def evMisplaced : Nat := 0x0709
def evCertDone : Nat := 0x070A
def evCertFail : Nat := 0x070B
def evAxleUnlock : Nat := 0x070C
def evAxleHoldover : Nat := 0x070D
def evTelemGap : Nat := 0x0801
def evOrphanEnter : Nat := 0x0901
def evOrphanLeave : Nat := 0x0902
def evPresenceOpen : Nat := 0x0A01
def evPresenceClose : Nat := 0x0A02
def evSealOpen : Nat := 0x0A03
def evSealClose : Nat := 0x0A04
def evRecordFull : Nat := 0x0B01
def evRecordEnd : Nat := 0x0B02
def evReplayDone : Nat := 0x0B03
def evReplayDigest : Nat := 0x0B04
def evReplayGap : Nat := 0x0B05
def evReplayEnd : Nat := 0x0B06
def evDebugUnlocked : Nat := 0x0C01
def evDebugLocked : Nat := 0x0C02

/-- Codes of the module states in STATE_GET and telemetry (14 R474): 0 Off to 7 Hold. -/
def stateCode : ModState → Nat
  | .off => 0 | .standby => 1 | .rest => 2 | .setup => 3 | .ready => 4 | .run => 5 | .drain => 6 | .hold => 7

/-- STG_JBLK_STAT.state (02 R51). -/
def blockCode : BlockState → Nat
  | .unloaded => 0 | .loaded => 1 | .active => 2 | .paused => 3 | .faulted => 4

/-- HUB_HITCH_STAT.stage (12 R321). -/
def stageCode : Stage → Nat
  | .disabled => 0 | .detect => 1 | .sound => 2 | .align => 3 | .identify => 4 | .verify => 5 | .up => 6 | .listen => 7
  | .quarantine => 8 | .backoff => 9

/-- STG_EPOCH_STAT's version states (05 R136). -/
def verCode : VerState → Nat
  | .writable => 0 | .active => 1 | .draining => 2

/-- Whether the data plane is powered: Setup, Ready, Run, Drain, and Hold except after causes 7 and 9 (01, "Module states"; 18 R450). -/
def dpPowered (s : State) : Bool :=
  match s.mod.st with
  | .setup | .ready | .run | .drain => true
  | .hold => !s.mod.dpOff
  | _ => false

/-- Whether the data plane runs: packets are carried (01, "Module states"). -/
def dpRuns (s : State) : Bool :=
  match s.mod.st with
  | .setup | .ready | .run | .drain => true
  | _ => false

/-- Sustained power of the grade in W (00, table "Ordering codes"). -/
def sustained (s : State) : Nat := match s.fixed.grade with | .h12 => 2600 | .h6 => 2420

/-- HBM3E stacks of the grade (00, table "Ordering codes"). -/
def stackCount (s : State) : Nat := match s.fixed.grade with | .h12 => 12 | .h6 => 6

/-- Larder capacity in GiB (00, table "Ordering codes"). -/
def capGib (s : State) : Nat := 36 * stackCount s

/-- One GiB, one MiB. -/
def gib : Nat := 1073741824
def mib : Nat := 1048576

/-- The module's EPA (02 R28). -/
def ownEpa (s : State) : Nat := 0x8000 + s.mod.plane

/-- STEADY (11 R277). -/
def steady (s : State) : Bool := s.nv.steady

end Sys2Proof.Machine
end

