-- ==== Sys2Proof/Machine/Operands.lean ====
section
/-! DEFINITION. The layouts of what commands return and carry: sized items (14 R356), the fields of packets by type (03 R57),
endpoint addresses (02 R27). -/

namespace Sys2Proof.Machine

/-- One item of a payload: its size in bytes and its value (14 R356). -/
abbrev Item := Nat × Nat

/-- Append an item at its own alignment: 1, 2, 4 and 8 B items at their size, any other at 8 B (14 R356). -/
def putItem (acc : List Byte) (it : Item) : List Byte :=
  let al := if it.1 = 1 ∨ it.1 = 2 ∨ it.1 = 4 ∨ it.1 = 8 then it.1 else 8
  acc ++ List.replicate (alignUp acc.length al - acc.length) 0 ++ leBytes it.1 it.2

/-- The payload that items form (14 R356). -/
def layout (items : List Item) : List Byte := items.foldl putItem []

/-- Register words, 4 B each (14 R356). -/
def words (ws : List Nat) : List Byte := ws.flatMap (leBytes 4)

/-- Whether a 16-bit value is a valid accelerator EPA (02 R27). -/
def isAccel (e : Nat) : Bool := decide (e < 128)

/-- Whether a 16-bit value is a valid module EPA (02 R27). -/
def isModule (e : Nat) : Bool := decide (0x8000 ≤ e ∧ e < 0x8010)

/-- Whether a 16-bit value is a valid EPA (02 R27). -/
def validEpa (e : Nat) : Bool := isAccel e || isModule e

/-- The coordinates of an accelerator EPA (02 R27). -/
def epaX (e : Nat) : Nat := bits e 4 3
def epaY (e : Nat) : Nat := bits e 2 2
def epaZ (e : Nat) : Nat := bits e 0 2

/-- Membership of a box (02 R41). -/
def inBox (b : Block) (e : Nat) : Bool :=
  decide ((epaX e + 8 - b.x0) % 8 < b.dx ∧ (epaY e + 4 - b.y0) % 4 < b.dy ∧ (epaZ e + 4 - b.z0) % 4 < b.dz)

/-- The tclass that the table "Packet types" asks of a packet sent by a link partner (03 R56, R58). -/
def tclassOk (h : Header) : Bool :=
  let t := h.typ.toNat
  let want :=
    if t = 0 then (if h.mcast then 0 else if h.dst.toNat ≥ 0x8000 then 2 else 0)
    else if t = 1 ∨ t = 3 then (if h.dst.toNat ≥ 0x8000 then 2 else 0)
    else if t = 2 ∨ t = 4 then 0
    else if t = 5 ∨ t = 6 then 1
    else if t = 7 then 0
    else 3
  decide (h.tclass.toNat = want)

/-- The length that the table "Packet types" asks (03 R56). -/
def lenOk (h : Header) : Bool :=
  let t := h.typ.toNat
  let n := h.len.toNat
  if t = 0 ∨ t = 2 ∨ t = 5 ∨ t = 6 then decide (1 ≤ n ∧ n ≤ 64)
  else if t = 3 ∨ t = 4 ∨ t = 10 then decide (n = 1)
  else if t = 7 then decide (n ≤ 64)
  else decide (n = 0)

/-- The operand size of an atomic in bytes: op bit 8 selects 8 B for integers; FADD takes 4 or 2 B (10 R255). A code that the
table does not list has no operand, so it breaks no alignment (DEDUCED, log 17). -/
def atomicBytes (op : Nat) : Nat :=
  if op = 0x11 ∨ op = 0x12 then 2
  else if op = 0x10 then 4
  else if 1 ≤ op % 256 ∧ op % 256 ≤ 0xA ∧ op / 512 = 0 then (if bit op 8 then 8 else 4)
  else 1

/-- Whether op is a VADD or VADD_EXACT code toward a module (03 R57; 10, table "Near-memory operations": kinds 1 and 2). -/
def isVaddOp (op : Nat) : Bool := bits op 0 4 == 1 || bits op 0 4 == 2

/-- The reserved and alignment rules of a link partner's packet (03 R57, R58); ACK and NACK included. -/
def fieldsOk (h : Header) : Bool :=
  let t := h.typ.toNat
  let addr := h.addr.toNat
  let toMod := decide (h.dst.toNat ≥ 0x8000)
  let ctag := h.ctag.toNat
  decide (h.rsvd = 0) && (!h.mcast || decide (t = 0)) &&
  (if t = 0 then
     decide (addr % 32 = 0) && decide (h.aux = 0) &&
       (if toMod && !h.mcast && isVaddOp h.op.toNat then decide (bits h.chunk.toNat 13 19 = 0) else decide (h.chunk = 0))
   else if t = 1 then
     decide (h.op = 0 ∧ h.aux = 0 ∧ addr % 32 = 0 ∧ bits h.chunk.toNat 7 25 = 0 ∧ 1 ≤ h.chunk.toNat ∧ h.chunk.toNat ≤ 64)
   else if t = 2 then decide (h.op = 0)
   else if t = 3 then decide (h.chunk = 0 ∧ h.aux = 0 ∧ addr % atomicBytes h.op.toNat = 0)
   else if t = 4 then decide (h.chunk = 0)
   else if t = 5 then
     decide (bits h.op.toNat 11 5 = 0 ∧ addr = 0) && (bit h.op.toNat 10 || decide (h.aux = 0))
   else if t = 7 then decide (h.aux = 0)
   else if t = 8 then decide (h.op = 0 ∧ h.aux = 0 ∧ bits addr 17 31 = 0)
   else if t = 9 then decide (bits addr 17 31 = 0 ∧ bits h.aux.toNat 9 23 = 0)
   else true) &&
  (decide (t = 9) || !bit ctag 14) && (!(decide (t = 5 ∨ t = 7 ∨ t = 8)) || !bit ctag 15)

/-- The header-validity step of 02 R45 for a link partner's packet (03 R58). -/
def headerOk (h : Header) : Bool :=
  let t := h.typ.toNat
  decide (t < 10 ∧ t ≠ 6) && tclassOk h && lenOk h && fieldsOk h

/-- The count slot that a ctag names with cnt 1 (03 R66). -/
def ctagSlot (c : Nat) : Option Nat := if bit c 15 then some (c % 16384) else none

end Sys2Proof.Machine
end

