-- ==== Sys2Proof/Machine/Ops.lean ====
section
/-! DEFINITION. The named operations on the state that every meaning uses: finishing a command, reading and updating the indexed parts,
forming events, job-block and window lookups. -/

namespace Sys2Proof.Machine

-- Output pins and the alert byte (14 R371, R372, 18 R452)

/-- Whether the management side works: in every state but Off. -/
def alive (s : State) : Bool := decide (s.mod.st ≠ .off)

/-- Whether the management rails are good: from the boot on, also while it waits for REFCLK (18 R435, 19 R469). -/
def railsGood (s : State) : Bool := alive s || s.mod.bootWait.isSome

/-- The Ehrok core in control runs (15 R374, R395). -/
def ctrlRuns (s : State) : Bool :=
  alive s && !s.mod.bootRom && decide ((if s.ehrok.inB then s.ehrok.bState else s.ehrok.aState) = 3)

/-- ALERT_N asserted (15 R380, 16 R410 to R412, 18 R452, 19 R469). -/
def alertN (s : State) : Bool :=
  s.mod.bootRom || s.mod.refBad || s.ehrok.single || s.cool.lowAlert || s.cool.inHigh || s.cool.inLow ||
  decide (s.cool.loop0 = 2 ∨ s.cool.loop1 = 2) || !s.therm.suspect.isEmpty

/-- PWR_ALERT_N asserted (16 R397, R402, R403). -/
def pwrAlertN (s : State) : Bool := s.pwr.rangeBad || s.pwr.shed || s.pwr.alert

/-- LEAK_N asserted (16 R411). -/
def leakN (s : State) : Bool := decide (s.cool.loop0 = 1 ∨ s.cool.loop1 = 1)

/-- HOLD_N asserted (18 R452). -/
def holdN (s : State) : Bool := decide (s.mod.st = .hold)

/-- The alert byte of the I3C map (14 R372). -/
def alertByte (s : State) : Nat :=
  if alive s then
    fields [(0, 1, b2n (alertN s)), (1, 1, b2n (pwrAlertN s)), (2, 1, b2n (leakN s)), (3, 1, b2n (holdN s)), (4, 1, b2n s.pwr.shed),
      (5, 1, b2n (decide (s.cool.loop0 = 2 ∨ s.cool.loop1 = 2))), (6, 1, b2n (s.mgmt.sealA || s.mgmt.sealB))]
  else 0

/-- While IBI is enabled a change of the alert byte raises an IBI with the new byte (14 R371). -/
def ibiNote (s : State) : State :=
  let a := alertByte s
  { s with i3c := { s.i3c with lastAlert := a,
                               ibis := if s.i3c.ibi && decide (a ≠ s.i3c.lastAlert) then s.i3c.ibis ++ [a] else s.i3c.ibis } }

/-- Whether some block is Active. -/
def anyActive (s : State) : Bool := s.blocks.any fun e => decide (e.2.st = .active)

/-- Run ends where no block is Active (01 R17). -/
def endRun (s : State) : State :=
  if s.mod.st = .run ∧ anyActive s = false then { s with mod := { s.mod with st := .ready } } else s

/-- The outcome of a command: everything but the queue and what the factory fixed may have changed. The module's own transition from Run is made as
the command leaves it. -/
def done (s0 s1 : State) : Host.Outcome State Fault Refusal :=
  .next { ibiNote (endRun s1) with pending := s0.pending, fixed := s0.fixed }

/-- The command names a unit that the module does not have (log 5). -/
def absent : Host.Outcome State Fault Refusal := .fault .noSuchUnit

/-- Run `f` where the unit exists (log 5). -/
def onUnit (ok : Bool) (s : State) (f : State → State) : Host.Outcome State Fault Refusal :=
  if ok then done s (f s) else absent

/-- `n` nanoseconds pass (log 1): the time base and, once the module has left Off, the axle counter (13 R338). -/
def elapse (s : State) (n : Nat) : State :=
  { s with now := s.now + n,
           axle := if s.mod.st = .off then s.axle else { s.axle with value := (s.axle.value + n) % 2 ^ 64 } }

/-- One nanosecond passes (log 1). -/
def timeTick (s : State) : State := elapse s 1

/-- Idle until time `t`: an event row that stands before its time happens at its time (log 3). -/
def waitUntil (s : State) (t : Nat) : State := elapse s (t - s.now)

/-- Nanoseconds to the next control-cycle boundary, counted from the axle counter (15 R374). -/
def toBoundary (s : State) : Nat := 250000 - s.axle.value % 250000

-- Indexed parts

def blockOf (s : State) (b : Nat) : Block := Tab.get {} s.blocks b
def updBlock (s : State) (b : Nat) (f : Block → Block) : State := { s with blocks := Tab.upd {} s.blocks b f }
def portOf (s : State) (p : Nat) : Port := Tab.get {} s.ports p
def updPort (s : State) (p : Nat) (f : Port → Port) : State := { s with ports := Tab.upd {} s.ports p f }
def laneOf (s : State) (l : Nat) : Lane := Tab.get {} s.lanes l
def updLane (s : State) (l : Nat) (f : Lane → Lane) : State := { s with lanes := Tab.upd {} s.lanes l f }
def hubOf (s : State) (d : Nat) : Hub := Tab.get {} s.hub d
def updHub (s : State) (d : Nat) (f : Hub → Hub) : State := { s with hub := Tab.upd {} s.hub d f }

/-- Crossbar time of a die in nanoseconds of an unstretched clock: a stretched clock runs at half its rate (06 R161, 16 R409). -/
def xTime (s : State) (d : Nat) : Nat :=
  let h := hubOf s d
  s.now - (h.stretched + (if h.stretch then s.now - h.stretchAt else 0)) / 2

def engOf (s : State) (d e : Nat) : Engine := Tab.get {} s.eng (8 * d + e)
def updEng (s : State) (d e : Nat) (f : Engine → Engine) : State := { s with eng := Tab.upd {} s.eng (8 * d + e) f }
def imgOf (s : State) (i : Nat) : Image := Tab.get {} s.img i
def updImg (s : State) (i : Nat) (f : Image → Image) : State := { s with img := Tab.upd {} s.img i f }
def harnOf (s : State) (h : Nat) : Harness := Tab.get {} s.harn h
def updHarn (s : State) (h : Nat) (f : Harness → Harness) : State := { s with harn := Tab.upd {} s.harn h f }
def slotOf (s : State) (k : Nat) : CSlot := Tab.get {} s.cslots k
def ringOf (s : State) (r : Nat) : Ring := Tab.get {} s.rings r
def updRing (s : State) (r : Nat) (f : Ring → Ring) : State := { s with rings := Tab.upd {} s.rings r f }
def ldOf (s : State) (d : Nat) : LDie := Tab.get {} s.lard.dies d
def updLd (s : State) (d : Nat) (f : LDie → LDie) : State :=
  { s with lard := { s.lard with dies := Tab.upd {} s.lard.dies d f } }
def recvOf (s : State) (e : Nat) : Recv := Tab.get {} s.e2e.recv e
def updRecv (s : State) (e : Nat) (f : Recv → Recv) : State :=
  { s with e2e := { s.e2e with recv := Tab.upd {} s.e2e.recv e f } }

/-- The key of a thread context: die, cluster, core, thread (08 R188). -/
def thrKey (t : ThreadRef) : Nat := ((t.die * 128 + t.cluster) * 64 + t.core) * 4 + t.thread

/-- The thread context that a key names. -/
def thrRef (k : Nat) : ThreadRef := ⟨k / 32768, k / 256 % 128, k / 4 % 64, k % 4⟩

/-- Whether the module has the context: 4 dies, 98 clusters, 64 cores, 4 threads (08 R185). -/
def thrExists (t : ThreadRef) : Bool := decide (t.die < 4 ∧ t.cluster < 98 ∧ t.core < 64 ∧ t.thread < 4)

def thrOf (s : State) (t : ThreadRef) : Thread := Tab.get {} s.thr (thrKey t)
def updThr (s : State) (t : ThreadRef) (f : Thread → Thread) : State := { s with thr := Tab.upd {} s.thr (thrKey t) f }

/-- Overwrite larder memory from `a`. -/
def lardWrite (s : State) (a : Nat) (bs : List Byte) : State :=
  { s with lard := { s.lard with mem := Mem.write s.lard.mem a bs } }

/-- Units replaced as a whole no longer fail (10 R262). -/
def unitsHeal (s : State) (a n : Nat) : State :=
  { s with lard := { s.lard with badUnits := s.lard.badUnits.filter fun u => !decide (a ≤ u ∧ u + 32 ≤ a + n) } }

/-- Larder bytes from `a`. -/
def lardRead (s : State) (a n : Nat) : List Byte := Mem.read s.lard.mem a n

/-- Zero the listed bytes of a memory from `a` to `a + n - 1` (all others there already read 0). -/
def memClear (m : Mem) (a n : Nat) : Mem := m.filter fun c => decide (c.1 < a ∨ a + n ≤ c.1)

/-- What core `c` (64 per cluster, 98 clusters per die) finds in its scratch and in its cluster's memory, by local offset (02, "Galley local map"). -/
def coreMem (s : State) (c : Nat) : Mem :=
  (s.scratch.filterMap fun e => if e.1 / 16384 = c then some (e.1 % 16384, e.2) else none) ++
    (s.cmem.filterMap fun e => if e.1 / 2097152 = c / 64 then some (0x100000 + e.1 % 2097152, e.2) else none)

/-- The instruction fetch of core `c` sees every store so far (08 R204). -/
def codeSync (s : State) (c : Nat) : State := { s with code := Tab.set [] s.code c (coreMem s c) }

/-- The cores of cluster `k` fetch their memories as they are. -/
def clusterSync (s : State) (k : Nat) : State := (List.range 64).foldl (fun s c => codeSync s (64 * k + c)) s

/-- Draw a number for a free value (log 7). -/
def draw (s : State) : Nat × State := (s.freeCtr, { s with freeCtr := s.freeCtr + 1 })

-- Events (14 R365, R367)

/-- Form an event: the sequence number rises whether or not it is held; at most 4,096 are held (14 R365, R367). -/
def emitX (s : State) (code block : Nat) (items : List Nat) (datum : List Byte) : State :=
  let e : Event := { code := code, seq := s.lonus.evSeq, block := block, items := items, datum := datum, axle := s.axle.value }
  { s with lonus := { s.lonus with
      evSeq := (s.lonus.evSeq + 1) % 2 ^ 64,
      events := if s.lonus.events.length < 4096 then s.lonus.events ++ [e] else s.lonus.events } }

/-- Form an event of no job block. -/
def emit (s : State) (code : Nat) (items : List Nat) : State := emitX s code 0xFFFF items []

/-- Form an event of job block `b`. -/
def emitB (s : State) (b code : Nat) (items : List Nat) : State := emitX s code b items []

-- Job blocks (02)

/-- Whether a block is loaded (any state but unloaded). -/
def isLoaded (s : State) (b : Nat) : Bool := decide ((blockOf s b).st ≠ .unloaded)

/-- The loaded blocks in ascending order. -/
def loadedBlocks (s : State) : List Nat := (s.blocks.filter fun e => decide (e.2.st ≠ .unloaded)).map Prod.fst

/-- The member map: the loaded block whose box holds an accelerator (02 R41, R42). -/
def blockOfEpa (s : State) (e : Nat) : Option Nat :=
  if isAccel e then (loadedBlocks s).find? (fun b => inBox (blockOf s b) e) else none

/-- The block charged with a source; 0xFFFF for none. -/
def chargeOf (s : State) (e : Nat) : Nat := (blockOfEpa s e).getD 0xFFFF

-- Pool windows (02 R33 to R36)

/-- The window `w` in effect (02 R36). -/
def winOf (s : State) (w : Nat) : Window := Tab.get {} s.winEff w

def winBase (w : Window) : Nat := bits w.base.toNat 0 10
def winSize (w : Window) : Nat := bits w.base.toNat 16 10
def winLarder (w : Window) : Nat := bits w.map.toNat 0 9
def winEnable (w : Window) : Bool := bit w.ctl.toNat 0 && decide (winSize w ≠ 0)
def winWrite (w : Window) : Bool := bit w.ctl.toNat 1
def winAtomic (w : Window) : Bool := bit w.ctl.toNat 2
def winOwner (w : Window) : Nat := bits w.ctl.toNat 3 7

/-- The enabled window that decodes an offset; its owner must be loaded (02 R33, R34, R52). -/
def winAt (s : State) (off : Nat) : Option (Nat × Window) :=
  (List.range 64).findSome? fun k =>
    let w := winOf s k
    if winEnable w && isLoaded s (winOwner w) && decide (winBase w * gib ≤ off ∧ off < (winBase w + winSize w) * gib)
    then some (k, w) else none

/-- The larder address of an offset inside a window (02 R36). -/
def winAddr (w : Window) (off : Nat) : Nat := winLarder w * gib + (off - winBase w * gib)

/-- Whether a span lies inside a window (02 R34). -/
def winHolds (w : Window) (off len : Nat) : Bool := decide (off + len ≤ (winBase w + winSize w) * gib)

-- Count slots (03 R68 to R70)

/-- The largest value of a count slot's bytes and packets fields (03, table "Count slot"). -/
def cslotMaxBytes : Nat := 2 ^ 40 - 1
def cslotMaxPkts : Nat := 2 ^ 23 - 1

/-- The 64-bit word of a count slot (03, table "Count slot"). -/
def cslotWord (c : CSlot) : Nat := c.bytes + c.packets * 2 ^ 40 + b2n c.ovf * 2 ^ 63

/-- The count slot that a 64-bit word spells. -/
def cslotOfWord (w : Nat) : CSlot := { bytes := bits w 0 40, packets := bits w 40 23, ovf := bit w 63 }

/-- Add placed bytes and packets to a slot: both fields go to their maximum and ovf is set where either would pass it (03 R68, R70). -/
def cslotAdd (c : CSlot) (n k : Nat) : CSlot :=
  if c.bytes + n > cslotMaxBytes ∨ c.packets + k > cslotMaxPkts then
    { bytes := cslotMaxBytes, packets := cslotMaxPkts, ovf := true }
  else { c with bytes := c.bytes + n, packets := c.packets + k }

/-- Whether slot `k` lies in block `b`'s range (03 R67). -/
def slotInBlock (s : State) (b k : Nat) : Bool :=
  let bl := blockOf s b
  decide (bl.slotBase ≤ k ∧ k < bl.slotBase + bl.slotCnt)

/-- The number of a block's members (02 R51). -/
def members (b : Block) : Nat := b.dx * b.dy * b.dz

/-- Update the Lonus port. -/
def updLonus (s : State) (f : Lonus → Lonus) : State := { s with lonus := f s.lonus }

/-- Update the module-level state. -/
def updMod (s : State) (f : Mod → Mod) : State := { s with mod := f s.mod }

/-- Update the power supervision. -/
def updPwr (s : State) (f : Power → Power) : State := { s with pwr := f s.pwr }

/-- Update the non-volatile store. -/
def updNv (s : State) (f : NonVolatile → NonVolatile) : State := { s with nv := f s.nv }

end Sys2Proof.Machine
end

