-- ==== Sys2Proof/Machine/Geometry.lean ====
section
/-! DEFINITION. Register words by address, and the port, lane and plan geometry that the widths and the plan give (04 R82 to R86,
12 R296, R297, 13 R324, R327). -/

namespace Sys2Proof.Machine

/-- The word of a writable register, `d` where nothing was written (its reset value). -/
def regAt (s : State) (addr d : Nat) : Nat :=
  match Tab.get none s.regs addr with | some w => w.toNat | none => d

/-- Store a register word. -/
def setReg (s : State) (addr w : Nat) : State := { s with regs := Tab.set none s.regs addr (some (BitVec.ofNat 32 w)) }

def hubReg (d off : Nat) : Nat := 0x30000000 + 0x100000 * d + off

-- Forwarding registers (04 R115)

def arbSeed (s : State) (d : Nat) : Nat := bits (regAt s (hubReg d 0x4000) 0x3015A) 0 10
def deflectEn (s : State) (d : Nat) : Bool := bit (regAt s (hubReg d 0x4000) 0x3015A) 16 && !steady s
def depthMode (s : State) (d : Nat) : Bool := bit (regAt s (hubReg d 0x4000) 0x3015A) 17 && !steady s
def deflectDepth (s : State) (d : Nat) : Nat := bits (regAt s (hubReg d 0x4004) 256) 0 10
def egqThresh (s : State) (d : Nat) : Nat := regAt s (hubReg d 0x4008) 0x38301004
def ingDivert (s : State) (d : Nat) : Nat := bits (regAt s (hubReg d 0x400C) 1536) 0 11
def brakeCtl (s : State) (d : Nat) : Nat := regAt s (hubReg d 0x4010) 0x8101
def mdFloor (s : State) (d : Nat) : Nat := bits (brakeCtl s d) 0 6
def aiStep (s : State) (d : Nat) : Nat := bits (brakeCtl s d) 8 4
def aiInterval (s : State) (d : Nat) : Nat := bits (brakeCtl s d) 12 8

-- End-to-end timing (03, STG_E2E_CTL)

def e2eCtl (s : State) : Nat := regAt s 0x50000010 0x0A100608
def rtoInit (s : State) : Nat := bits (e2eCtl s) 0 8
def rtoLimit (s : State) : Nat := bits (e2eCtl s) 8 4
def ackPkts (s : State) : Nat := bits (e2eCtl s) 16 5
def ackDelay (s : State) : Nat := bits (e2eCtl s) 24 8

-- Clock stretch (16 R408, R409)

/-- Set whether a die's clocks are stretched, keeping for how long they have been. -/
def setStretch (on : Bool) (s : State) (d : Nat) : State :=
  updHub s d fun h =>
    if h.stretch = on then h
    else if on then { h with stretch := true, stretchAt := s.now }
    else { h with stretch := false, stretched := h.stretched + (s.now - h.stretchAt) }

/-- The clocks follow the detectors: each die's its own, under STEADY all four while any detector is engaged (01 R15, 16 R409). -/
def stretchSettle (s : State) (d : Nat) : State :=
  if steady s then
    let on := (List.range 4).any fun d => (hubOf s d).droopOn
    (List.range 4).foldl (setStretch on) s
  else setStretch (hubOf s d).droopOn s d

-- Widths and ports (12 R296, R297)

/-- The width code of lane chiplet `k`: 0 x2, 1 x4, 2 x8. -/
def widthOf (s : State) (k : Nat) : Nat := bits (regAt s (hubReg (k / 4) 0x7000) 0x55) (2 * (k % 4)) 2

/-- Lanes of a port of a width code. -/
def lanesPer (w : Nat) : Nat := 2 * 2 ^ w

/-- Ports of a chiplet of a width code. -/
def portsPer (w : Nat) : Nat := 32 / lanesPer w

/-- The first port number of chiplet `k`. -/
def firstPort (s : State) (k : Nat) : Nat := ((List.range k).map fun j => portsPer (widthOf s j)).sum

/-- The number of ports of the module. -/
def portCount (s : State) : Nat := firstPort s 16

/-- Whether a port number exists in the configured widths. -/
def portExists (s : State) (p : Nat) : Bool := decide (p < portCount s)

/-- The chiplet of a port. -/
def chipletOf (s : State) (p : Nat) : Nat :=
  ((List.range 16).filter fun k => decide (firstPort s k ≤ p)).length - 1

/-- A port's index on its chiplet. -/
def chipIdx (s : State) (p : Nat) : Nat := p - firstPort s (chipletOf s p)

/-- The hub die of a port. -/
def dieOf (s : State) (p : Nat) : Nat := chipletOf s p / 4

/-- The width code of a port. -/
def portW (s : State) (p : Nat) : Nat := widthOf s (chipletOf s p)

/-- The logical lanes of a port. -/
def lanesOf (s : State) (p : Nat) : List Nat :=
  let n := lanesPer (portW s p)
  (List.range n).map fun m => 32 * chipletOf s p + n * chipIdx s p + m

/-- The port that a logical lane serves. -/
def portOfLane (s : State) (l : Nat) : Nat :=
  firstPort s (l / 32) + l % 32 / lanesPer (widthOf s (l / 32))

/-- The port with index `k` on hub die `d`, if the widths populate it. -/
def portAtIdx (s : State) (d k : Nat) : Option Nat :=
  let p := firstPort s (4 * d) + k
  if p < firstPort s (4 * d + 4) then some p else none

/-- The ports of hub die `d`. -/
def diePorts (s : State) (d : Nat) : List Nat :=
  (List.range (firstPort s (4 * d + 4) - firstPort s (4 * d))).map fun k => firstPort s (4 * d) + k

/-- Every port. -/
def allPorts (s : State) : List Nat := List.range (portCount s)

/-- The attachment points of a port on its die (04 R86). -/
def pointsOf (s : State) (p : Nat) : List Nat :=
  let j := chipletOf s p % 4
  let i := chipIdx s p
  match portW s p with
  | 0 => [8 * j + i / 2]
  | 1 => [8 * j + i]
  | _ => [8 * j + 2 * i, 8 * j + 2 * i + 1]

/-- A number of cells stated for x4, scaled to the port's width (04 R82). -/
def scaleCells (s : State) (p n : Nat) : Nat :=
  match portW s p with | 0 => n / 2 | 1 => n | _ => 2 * n

/-- Cells of the port's egress queue (04 R82). -/
def egSize (s : State) (p : Nat) : Nat := scaleCells s p 4096

-- Thresholds of a port in cells: 16 KiB units are 64 cells (04 R115)

def markMin (s : State) (p : Nat) : Nat := scaleCells s p (64 * bits (egqThresh s (dieOf s p)) 0 6)
def markMax (s : State) (p : Nat) : Nat := scaleCells s p (64 * bits (egqThresh s (dieOf s p)) 8 6)
def drainLow (s : State) (p : Nat) : Nat := scaleCells s p (64 * bits (egqThresh s (dieOf s p)) 16 6)
def ovfOn (s : State) (p : Nat) : Nat := scaleCells s p (64 * bits (egqThresh s (dieOf s p)) 24 6)

/-- The mark depth in force, in cells (04 R100); before the first exit from Setup, the reset value of HUB_EGQ_STAT, 16 units of 16 KiB for x4. -/
def markDepthOf (s : State) (p : Nat) : Nat := (portOf s p).markDepth.getD (scaleCells s p 1024)

/-- The rate of a port in bytes per cell time: 25 GB/s per lane over 1.25 ns (04 R88, R103). -/
def portRate (s : State) (p : Nat) : Rat := 125 / 4 * (lanesPer (portW s p) : Nat)

-- The plan (13 R324, R327)

/-- The widths that HUB_PORT_WIDTH of the four dies give, as 16 codes. -/
def widthsNow (s : State) : List Nat := (List.range 16).map (widthOf s)

/-- Whether a plan is in force (13 R327). -/
def planInForce (s : State) : Bool :=
  match s.nv.plan with
  | none => false
  | some p => decide (p.plane = s.mod.plane ∧ p.rackPos = s.mod.rackPos ∧ p.widths = widthsNow s)

/-- The plan entry of a port, in a plan in force. -/
def planEntry (s : State) (p : Nat) : Option PlanEntry :=
  if planInForce s then (s.nv.plan.bind fun pl => pl.entries[p]?) else none

/-- The planned partner EPA of a port; none where the entry is not planned. -/
def plannedEpa (s : State) (p : Nat) : Option Nat :=
  match planEntry s p with
  | some e => if e.state = 1 then some e.epa else none
  | none => none

/-- Whether a port is Up and verified (13 R332). DESIGN CHOICE: every die knows it at once; R107 does not say what other dies make of headers that
they classify within the first 10 ns (log 16). -/
def portOk (s : State) (p : Nat) : Bool :=
  portExists s p && decide ((portOf s p).stage = .up ∧ (portOf s p).check = 1)

/-- The planned ports (13 R329, plan state 1). -/
def plannedPorts (s : State) : List Nat := (allPorts s).filter fun p => (plannedEpa s p).isSome

/-- The ports whose planned partner is a member of block `b`. -/
def memberPorts (s : State) (b : Nat) : List Nat :=
  (allPorts s).filter fun p => match plannedEpa s p with
    | some e => isAccel e && inBox (blockOf s b) e && isLoaded s b
    | none => false

-- The larder's organisation (10 R239 to R241)

/-- The interleave width: larder dies that serve stacks. -/
def ldCount (s : State) : Nat := stackCount s / 2

/-- The larder die of an address (10 R241). -/
def lardDie (s : State) (a : Nat) : Nat := a / 256 % ldCount s

/-- The stack of an address (10 R241). -/
def lardStack (s : State) (a : Nat) : Nat := 2 * lardDie s a + a / 256 / ldCount s % 2

/-- The pseudo-channel of an address (10 R241). -/
def lardPc (s : State) (a : Nat) : Nat := a / 256 / ldCount s / 2 % 32

/-- The byte address within the pseudo-channel (10 R241). -/
def lardPca (s : State) (a : Nat) : Nat := a / 256 / ldCount s / 2 / 32 * 256 + a % 256

-- Tables (05 R116 to R136)

def coordAddr (v i : Nat) : Nat := 0x50004000 + 0x400 * v + 4 * i
def maskAddr (v g w : Nat) : Nat := 0x50040000 + 0x20000 * v + 0x20 * g + 4 * w
def mctlAddr (v g : Nat) : Nat := 0x50040010 + 0x20000 * v + 0x20 * g
def coordEntry (s : State) (v i : Nat) : Nat := regAt s (coordAddr v i) 0
def mcastCtl (s : State) (v g : Nat) : Nat := regAt s (mctlAddr v g) 0
def mcastHas (s : State) (v g e : Nat) : Bool := bit (regAt s (maskAddr v g (e / 32)) 0) (e % 32)
def mcastMembers (s : State) (v g : Nat) : List Nat := (List.range 128).filter (mcastHas s v g)
def mcastValid (s : State) (v g : Nat) : Bool := bit (mcastCtl s v g) 0
def mcastOwner (s : State) (v g : Nat) : Nat := bits (mcastCtl s v g) 8 7

/-- Whether an address holds a coordinate entry or a group word of version `v`. -/
def inTable (v a : Nat) : Bool :=
  decide ((coordAddr v 0 ≤ a ∧ a < coordAddr v 256) ∨ (maskAddr v 0 0 ≤ a ∧ a < maskAddr v 4096 0))

/-- Set every coordinate entry and group of version `v` to its reset value (05 R123). -/
def wipeTable (s : State) (v : Nat) : State := { s with regs := s.regs.filter fun e => !inTable v e.1 }

/-- A way of the coordinate table that is usable: valid, and its port Up and verified (05 R116). -/
def wayPort (s : State) (v e w : Nat) : Option Nat :=
  let c := coordEntry s v (2 * e + w)
  if bit c 8 && portOk s (bits c 0 8) then some (bits c 0 8) else none

/-- The egress port of an accelerator (05 R116). -/
def routeOf (s : State) (v e seq : Nat) : Option Nat :=
  match wayPort s v e 0, wayPort s v e 1 with
  | some a, some b => if seq % 2 = 0 then some a else some b
  | some a, none => some a
  | none, r => r

/-- The state of a table version (05 R118). -/
def verOf (s : State) (v : Nat) : VerState := if v = 0 then s.epoch.verA else s.epoch.verB

-- Harness registers (06 R141)

def harnReg (s : State) (h off : Nat) : Nat := regAt s (0x50010000 + 0x40 * h + off) 0
def harnOp (s : State) (h : Nat) : Nat := bits (harnReg s h 0) 0 2
def harnMode (s : State) (h : Nat) : Nat := bits (harnReg s h 0) 2 2
def harnIn (s : State) (h : Nat) : Nat := bits (harnReg s h 0) 4 4
def harnOut (s : State) (h : Nat) : Nat := bits (harnReg s h 0) 8 4
def harnRnd (s : State) (h : Nat) : Nat := bits (harnReg s h 0) 12 2
def harnFast (s : State) (h : Nat) : Bool := bit (harnReg s h 0) 14
def harnCnt (s : State) (h : Nat) : Nat := bits (harnReg s h 0) 15 1
def harnOwner (s : State) (h : Nat) : Nat := bits (harnReg s h 0) 16 7
def harnElems (s : State) (h : Nat) : Nat := bits (harnReg s h 4) 0 11
def harnN (s : State) (h : Nat) : Nat := bits (harnReg s h 4) 16 9
def harnCount (s : State) (h : Nat) : Nat := harnReg s h 8
def harnBudget (s : State) (h : Nat) : Nat := bits (harnReg s h 0xC) 0 13
def harnTimeout (s : State) (h : Nat) : Nat := bits (harnReg s h 0xC) 16 16
def harnResBase (s : State) (h : Nat) : Nat := harnReg s h 0x10 + bits (harnReg s h 0x14) 0 16 * 2 ^ 32
def harnResSlot (s : State) (h : Nat) : Nat := bits (harnReg s h 0x14) 16 14
def harnFirst (s : State) (h : Nat) : Nat := harnReg s h 0x18 + bits (harnReg s h 0x1C) 0 16 * 2 ^ 32
def harnK (s : State) (h : Nat) : Nat := bits (harnReg s h 0x20) 0 11
def harnRoot (s : State) (h : Nat) : Nat := bits (harnReg s h 0x20) 16 8

/-- The member entry of a rank (06, STG_HARN_MEMBER). -/
def harnMember (s : State) (h r : Nat) : Nat := bits (regAt s (0x50080000 + 0x200 * h + 4 * (r / 2)) 0) (16 * (r % 2)) 16

/-- The member list. -/
def harnList (s : State) (h : Nat) : List Nat := (List.range (harnN s h)).map (harnMember s h)

/-- Whether a harness is Loaded and owned by a block. -/
def harnLoadedBy (s : State) (h b : Nat) : Bool := (harnOf s h).loaded && decide (harnOwner s h = b)

-- Firmware

/-- The firmware set that runs: the set of slot current, where the boot ROM is not in its place (15 R384, R387). -/
def currentSlot (s : State) : Slot := if s.nv.curIsF1 then s.nv.f1 else s.nv.f0
def nextSlot (s : State) : Slot := if s.nv.curIsF1 then s.nv.f0 else s.nv.f1
def activeSet (s : State) : Option FwSet := if s.mod.bootRom then none else (currentSlot s).set

/-- The number of the active firmware set. -/
def setNow (s : State) : Nat := ((activeSet s).map FwSet.set).getD 0

end Sys2Proof.Machine
end

