-- ==== Sys2Proof/Machine/Command.lean ====
section
/-! DEFINITION. The execution of a Lonus command (14 R353 to R364): when it may start, the checks in their order, and its completion. -/

namespace Sys2Proof.Machine

/-- What a command answers: status, returned items, returned bulk. -/
abbrev Reply := Status × List Byte × List Byte

/-- A reply of a status alone. -/
def rep (st : Status) : Reply := (st, [], [])

/-- OK with returned items. -/
def okItems (b : List Byte) : Reply := (.ok, b, [])

/-- OK with returned bulk. -/
def okBulk (b : List Byte) : Reply := (.ok, [], b)

/-- The weight of a state in a row's set of allowed states. -/
def stMask (st : ModState) : Nat := 2 ^ stateCode st

/-- Every state except Off. -/
def anyState : Nat := 254

/-- The command tables (14, 05, 06, 08, 11, 12, 13): opcode, allowed states (1 Standby is bit 1 to 7 Hold is bit 7), privileged, allowed
while orphaned (14 R363). -/
def cmdTable : List (Nat × Nat × Bool × Bool) :=
  [(0x0101, 254, false, true), (0x0102, 254, false, true), (0x0103, 254, false, true), (0x0104, 254, false, true),
   (0x0110, 26, true, true), (0x0111, 26, true, true), (0x0201, 182, false, false), (0x0202, 254, false, true),
   (0x0210, 8, true, true), (0x0220, 254, false, true), (0x0221, 254, false, false), (0x0222, 120, false, false),
   (0x0230, 26, true, true), (0x0231, 254, false, true), (0x0240, 254, false, true), (0x0241, 254, false, true),
   (0x0301, 120, false, false), (0x0302, 112, false, false), (0x0303, 112, false, false), (0x0304, 120, false, false),
   (0x0305, 248, false, true), (0x0401, 48, false, false), (0x0402, 48, false, false), (0x0403, 32, false, false),
   (0x0404, 48, false, false), (0x0405, 240, false, false), (0x0406, 254, false, true), (0x0410, 48, false, false),
   (0x0411, 112, false, false), (0x0412, 248, false, true), (0x0420, 112, false, true), (0x0501, 120, false, true),
   (0x0502, 120, false, false), (0x0503, 254, false, true)] ++
  [(0x0601, 48, false, false), (0x0602, 112, false, false), (0x0603, 32, false, true), (0x0604, 248, false, true),
   (0x0701, 248, false, true), (0x0702, 120, false, false), (0x0703, 120, false, false), (0x0704, 120, false, false),
   (0x0705, 112, false, false), (0x0706, 112, false, false), (0x0710, 120, false, false), (0x0711, 120, false, false),
   (0x0712, 120, false, true), (0x0713, 120, false, false), (0x0714, 120, false, false), (0x0720, 120, false, false),
   (0x0730, 10, true, true), (0x0731, 120, true, true), (0x0732, 254, false, true), (0x0740, 120, false, false),
   (0x0801, 248, false, true), (0x0802, 254, false, true), (0x0803, 248, false, true), (0x0810, 112, false, false),
   (0x0811, 254, false, false), (0x0820, 24, false, false), (0x0821, 120, false, false), (0x0822, 120, false, true)] ++
  [(0x0901, 120, false, false), (0x0902, 254, false, true), (0x0903, 120, false, false), (0x0904, 120, false, false),
   (0x0905, 254, false, true), (0x0906, 254, false, true), (0x0907, 254, false, true), (0x0A01, 254, true, true),
   (0x0A02, 254, true, true), (0x0A03, 254, true, true), (0x0A04, 254, false, true), (0x0A10, 254, false, true),
   (0x0A11, 254, false, true), (0x0A12, 254, true, true), (0x0B01, 48, false, false), (0x0B02, 112, false, false),
   (0x0B03, 124, false, true), (0x0B04, 120, false, true), (0x0B05, 124, false, false), (0x0B10, 48, false, false),
   (0x0B11, 32, false, false), (0x0B12, 96, false, false), (0x0B13, 248, false, true), (0x0C01, 248, true, true),
   (0x0C02, 254, false, false), (0x0C10, 48, false, false), (0x0C11, 112, false, false), (0x0C12, 48, false, false),
   (0x0C13, 48, false, false)]

/-- The table row of an opcode. -/
def cmdRow (op : Nat) : Option (Nat × Bool × Bool) := (cmdTable.find? fun r => r.1 == op).map fun r => r.2

/-- The commands that the boot ROM serves (14 R364). -/
def bootCmds : List Nat := [0x0240, 0x0905, 0x0101, 0x0102, 0x0202, 0x0A01, 0x0A02, 0x0A04, 0x0A10, 0x0A11]

/-- Steps 1 to 5 of 14 R358, with the boot ROM's rule before them (R364). The first failure decides. -/
def precheck (s : State) (op : Nat) : Option Status :=
  match cmdRow op with
  | none => some .notFound
  | some (mask, priv, orph) =>
    if s.mod.bootRom ∧ op ∉ bootCmds then some .denied
    else if s.lonus.orphan ∧ ¬ orph then some .denied
    else if ¬ bit mask (stateCode s.mod.st) then some (if op = 0x0210 then .busyState else .badState)
    else if priv ∧ ¬ s.mgmt.opened then some .noPresence
    else if priv ∧ (s.mgmt.sealA ∨ s.mgmt.sealB) then some .sealOpen
    else none

/-- The outstanding command of a tag (14 R353). -/
def cmdOf (s : State) (tag : Nat) : Option Cmd := s.lonus.outstanding.find? fun c => c.tag == tag

/-- Whether the module executes commands: the boot ROM or a running core in control does (14 R364, 15 R381). -/
def serves (s : State) : Bool := s.mod.bootRom || ctrlRuns s

/-- Whether a command may start: commands of one class start in order, each after the previous has completed, and after its bulk has
arrived (14 R354, R358); none while no core runs (15 R381). A tag that no frame brought may start (log 12). -/
def mayStart (s : State) (tag op : Nat) : Bool :=
  serves s && match cmdOf s tag with
  | none => true
  | some c => c.op == op && c.bulkDone &&
      ((s.lonus.outstanding.find? fun d => d.op / 256 == op / 256).map Cmd.tag == some tag)

/-- Keep the response of a completed tag, the 256 most recent (14 R353). -/
def keepResponse (l : Lonus) (r : Response) : List Response :=
  let k := (l.kept.filter fun x => x.tag ≠ r.tag) ++ [r]
  k.drop (k.length - 256)

/-- Queue a response and its bulk, to be sent from offset 0 (14 R359). -/
def queueResponse (s : State) (r : Response) : State :=
  updLonus s fun l => { l with respQ := l.respQ ++ [r],
                               bulkQ := if r.bulk.isEmpty then l.bulkQ else l.bulkQ ++ [(r.tag, r.op, 0, r.bulk)] }

/-- A FW_STAGE that does not end OK leaves a slot it was writing bad (15 R385). -/
def stageAbort (s : State) : State :=
  let f := fun (x : Slot) => if x.state = .writing then { x with state := .bad } else x
  updNv s fun nv => { nv with f0 := f nv.f0, f1 := f nv.f1 }

/-- Complete an outstanding command, or one that no frame brought: its response is kept and queued while its session is open, and that of SESSION_OPEN,
which carries no session's number, always; others are discarded (14 R351 to R355, R358). -/
def completeAs (s : State) (cmd : Option Cmd) (tag op : Nat) (r : Reply) : State :=
  let sess := match cmd with | some c => c.session | none => s.lonus.session
  let s := if op = 0x0A01 ∧ r.1 ≠ .ok then stageAbort s else s
  let s := match cmd with
    | some c => updLonus s fun l => { l with outstanding := l.outstanding.erase c }
    | none => s
  let s := { s with ehrok := { s.ehrok with sinceCopy := s.ehrok.sinceCopy ++ [tag] } }
  if s.lonus.opened ∧ sess = s.lonus.session ∨ op = 0x0240 then
    let x : Response := { tag := tag, op := op, status := statusCode r.1, payload := r.2.1, bulk := r.2.2, axle := s.axle.value }
    queueResponse (updLonus s fun l => { l with kept := keepResponse l x }) x
  else s

/-- Complete the command of a tag. -/
def complete (s : State) (tag op : Nat) (r : Reply) : State := completeAs s (cmdOf s tag) tag op r

/-- Complete a command that a later row ends, where it is still outstanding (14 R355, R360). -/
def finishCmd (s : State) (tag op : Nat) (r : Reply) : State :=
  match cmdOf s tag with
  | some c => if c.op = op then complete s tag op r else s
  | none => s

/-- Keep a command outstanding that has started and completes later (14 R360). -/
def keepOutstanding (s : State) (tag op : Nat) : State :=
  match cmdOf s tag with
  | some c => updLonus s fun l => { l with outstanding := l.outstanding.map fun x => if x = c then { x with running := true } else x }
  | none => updLonus s fun l => { l with outstanding := l.outstanding ++
      [{ tag := tag, session := l.session, op := op, word := 0, payload := [], bulk := [], bulkDone := true, lastAt := s.now, running := true }] }

/-- The bulk a command executes on: what its frames brought, or the row's own data (log 12). -/
def bulkOf (s : State) (tag : Nat) (own : List Byte) : List Byte :=
  match cmdOf s tag with | some c => c.bulk | none => own

/-- The values of items read from a payload from byte `off`, each at its own alignment (14 R356), and the byte after the last. -/
def readItems (p : List Byte) : List Nat → Nat → List Nat × Nat
  | [], off => ([], off)
  | n :: ns, off =>
    let o := alignUp off (if n = 1 ∨ n = 2 ∨ n = 4 ∨ n = 8 then n else 8)
    let r := readItems p ns (o + n)
    (getLe p o n :: r.1, r.2)

/-- Whether a row's operands are the parameters that its command's frame carries (14 R356); a row without a frame has its own (log 12). -/
def asked (s : State) (tag : Nat) (args : List Item) : Bool :=
  match cmdOf s tag with
  | none => true
  | some c => decide ((readItems c.payload (args.map Prod.fst) 0).1 = args.map Prod.snd)

/-- Whether a command's payload has the length that its parameters take; REG_WRITE takes as many words as follow its count (14 R356). -/
def sized (s : State) (tag op : Nat) (args : List Item) : Bool :=
  match cmdOf s tag with
  | none => true
  | some c => op == 0x0221 || decide (c.payload.length = (readItems c.payload (args.map Prod.fst) 0).2)

/-- The state after the Lonus command `op` of a tag with its parameters: the checks of 14 R358, then `body`, which answers the reply, or none where
the command completes later. A row whose operands are not those of its frame is no execution of the command and changes nothing. -/
def runCmd (tag op : Nat) (args : List Item) (s : State) (body : State → State × Option Reply) : State :=
  if s.mod.st = .off ∨ ¬ mayStart s tag op then s
  else match precheck s op with
    | some st => complete s tag op (rep st)
    | none =>
      if !sized s tag op args then complete s tag op (rep .badParam)
      else if !asked s tag args then s
      else match body s with
        | (s1, some r) => complete s1 tag op r
        | (s1, none) => keepOutstanding s1 tag op

/-- A Lonus command as an outcome. -/
def lonusCmd (tag op : Nat) (args : List Item) (s : State) (body : State → State × Option Reply) : Host.Outcome State Fault Refusal :=
  done s (runCmd tag op args s body)

/-- A command body that changes nothing. -/
def answer (s : State) (r : Reply) : State × Option Reply := (s, some r)

/-- A command body that fails with a status. -/
def fail (s : State) (st : Status) : State × Option Reply := (s, some (rep st))

end Sys2Proof.Machine
end

