-- ==== Sys2Proof/Machine/Keccak.lean ====
section
/-! DEFINITION. SHAKE256 (09 R232, 05 R125, 11 R286): the manual names the function; its definition is FIPS 202's (log 9). -/

namespace Sys2Proof.Machine

/-- Rotate a 64-bit lane left. -/
def rotl64 (v n : Nat) : Nat := v * 2 ^ n % 2 ^ 64 + v / 2 ^ (64 - n)

/-- The 8-bit register whose low bit gives the round constants, one step on (FIPS 202, algorithm 5). -/
def rcStep (r : Nat) : Nat := if 128 ≤ r then (2 * r) ^^^ 0x171 else 2 * r

/-- The register at step 7 of each of `n` rounds from register `r` on. -/
def rcRounds : Nat → Nat → List Nat
  | 0, _ => []
  | n + 1, r => r :: rcRounds n (Nat.repeat rcStep 7 r)

/-- The round constant that begins at register `r`: its bit 2^j - 1 is the register's low bit `j` steps on. -/
def rcWord (r : Nat) : Nat := ((List.range 7).map fun j => Nat.repeat rcStep j r % 2 * 2 ^ (2 ^ j - 1)).sum

/-- The constants of the 24 rounds. -/
def keccakRc : List Nat := (rcRounds 24 1).map rcWord

/-- The walk over the lanes that fixes the rotations: after `n` more steps at lane (x, y), whose rotation is the `t`-th triangular number. -/
def rotWalk : Nat → Nat → Nat → Nat → List (Nat × Nat)
  | 0, _, _, _ => []
  | n + 1, t, x, y => (x + 5 * y, t * (t + 1) / 2 % 64) :: rotWalk n (t + 1) y ((2 * x + 3 * y) % 5)

/-- The rotation offsets, lane (x, y) at index x + 5 y; lane (0, 0) does not turn. -/
def keccakRot : List Nat :=
  let w := rotWalk 24 1 1 0
  (List.range 25).map fun i => ((w.find? fun e => e.1 == i).map Prod.snd).getD 0

/-- Lane `i` of a state. -/
def kl (a : List Nat) (i : Nat) : Nat := (a[i]?).getD 0

/-- One round of Keccak-f[1600]. -/
def keccakRound (a : List Nat) (rc : Nat) : List Nat :=
  let c := (List.range 5).map fun x => kl a x ^^^ kl a (x + 5) ^^^ kl a (x + 10) ^^^ kl a (x + 15) ^^^ kl a (x + 20)
  let d := (List.range 5).map fun x => kl c ((x + 4) % 5) ^^^ rotl64 (kl c ((x + 1) % 5)) 1
  let t := (List.range 25).map fun i => rotl64 (kl a i ^^^ kl d (i % 5)) (kl keccakRot i)
  let b := (List.range 25).map fun i => kl t ((i % 5 + 3 * (i / 5)) % 5 + 5 * (i % 5))
  let e := (List.range 25).map fun i =>
    let y := 5 * (i / 5)
    kl b i ^^^ ((2 ^ 64 - 1 - kl b ((i + 1) % 5 + y)) &&& kl b ((i + 2) % 5 + y))
  match e with
  | [] => []
  | z :: zs => (z ^^^ rc) :: zs

/-- Keccak-f[1600]. -/
def keccakF (a : List Nat) : List Nat := keccakRc.foldl keccakRound a

/-- Absorb one 136-byte block. -/
def absorb (a : List Nat) (blk : List Byte) : List Nat :=
  keccakF ((List.range 25).map fun i => if i < 17 then kl a i ^^^ getLe blk (8 * i) 8 else kl a i)

/-- The 136-byte blocks of a padded message; `n` bounds their number. -/
def blocks136 : Nat → List Byte → List (List Byte)
  | 0, _ => []
  | n + 1, bs => if bs.length ≤ 136 then [bs] else bs.take 136 :: blocks136 n (bs.drop 136)

/-- The message with the SHAKE suffix and padding. -/
def shakePad (m : List Byte) : List Byte :=
  let q := 136 - m.length % 136
  if q = 1 then m ++ [0x9F] else m ++ [0x1F] ++ List.replicate (q - 2) 0 ++ [0x80]

/-- Squeeze `n` bytes; `k` bounds the permutations. -/
def squeeze : Nat → List Nat → Nat → List Byte
  | 0, _, _ => []
  | k + 1, a, n =>
    let blk := (List.range 17).flatMap fun i => leBytes 8 (kl a i)
    if n ≤ 136 then blk.take n else blk ++ squeeze k (keccakF a) (n - 136)

/-- SHAKE256 with `n` bytes of output. -/
def shake256 (m : List Byte) (n : Nat) : List Byte :=
  let p := shakePad m
  squeeze (n / 136 + 1) ((blocks136 (p.length / 136 + 1) p).foldl absorb (List.replicate 25 0)) n

end Sys2Proof.Machine
end

