-- ==== Sys2Proof/Machine/Record.lean ====
section
/-! DEFINITION. Recording, capture and sampling of packets (11 R283 to R289, 17 R428 to R434). A hub die queues
at most 64 KiB of records and of samples (11 R288, 17 R430). -/

namespace Sys2Proof.Machine

/-- The 64 B header of a ring (11, table "Ring header"; 17 R433 for a capture ring). -/
def ringHeader (r : Ring) : List Byte :=
  let fl := fields [(0, 1, b2n r.steady), (1, 1, b2n r.egress), (2, 1, b2n r.wrap), (3, 1, b2n r.digest), (4, 1, b2n r.complete),
    (5, 1, b2n r.replayOut), (6, 1, b2n r.capture)]
  leBytes 4 r.set ++ leBytes 1 r.arithRev ++ leBytes 1 fl ++ leBytes 1 (if r.capture then 0 else r.block) ++ leBytes 1 r.plane ++
  (if r.capture then leBytes 2 r.port ++ leBytes 6 0 else leBytes 6 r.startStep ++ leBytes 2 0) ++ leBytes 8 r.startAxle ++
  leBytes 4 (min r.records 0xFFFFFFFF) ++ leBytes 4 (min r.lost 0xFFFFFFFF) ++ leBytes 4 (min r.crcSkip 0xFFFFFFFF) ++ leBytes 4 0 ++
  leBytes 8 r.first ++ leBytes 8 r.used ++ leBytes 8 0

/-- Store bytes that are no element of a cell: units that they fill whole are healed (10 R262). -/
def unitsWrite (s : State) (a : Nat) (bs : List Byte) : State := lardWrite (unitsHeal s a bs.length) a bs

/-- Write ring `k`'s header into its larder range (11 R287). -/
def ringSync (s : State) (k : Nat) : State := unitsWrite s (ringOf s k).base (ringHeader (ringOf s k))

/-- Mark a recording or capture complete (11 R289, 17 R434). -/
def ringEnd (s : State) (k : Nat) : State :=
  ringSync (updRing s k fun r => { r with st := 2, complete := true, waitStep := none }) k

/-- Where the next record of `n` bytes goes; a ring that wraps drops the oldest records in its way (11 R289; log 21). -/
def ringPlace (r : Ring) (n : Nat) : Option (Nat × List (Nat × Nat)) :=
  let cap := mib * r.mib
  let pastCap := decide (cap < r.used + n)
  let at_ := if pastCap then 64 else r.used
  if cap < 64 + n ∨ (pastCap ∧ !r.wrap ∧ !r.capture) then none
  else some (at_, r.sizes.dropWhile fun e =>
    decide (e.1 < at_ + n ∧ at_ < e.1 + e.2) || (pastCap && decide (r.used ≤ e.1)))

/-- Store a record at `at_` of a ring, after the records it keeps. -/
def ringKeep (s : State) (k : Nat) (rec : List Byte) (at_ : Nat) (kept : List (Nat × Nat)) : State :=
  ringSync (updRing (unitsWrite s ((ringOf s k).base + at_) rec) k fun r =>
    { r with records := r.records + 1, recSeq := (r.recSeq + 1) % 2 ^ 32, sizes := kept ++ [(at_, rec.length)],
             first := (((kept ++ [(at_, rec.length)]).head?).map Prod.fst).getD 64, used := at_ + rec.length, lostNow := 0 }) k

/-- Append a record to ring `k` under its next number; a ring that does not wrap ends when it is full (11 R289), and takes no more. -/
def ringAppend (k : Nat) (s : State) (rec : List Byte) : State :=
  let r := ringOf s k
  if r.st ≠ 1 then s
  else match ringPlace r rec.length with
    | some x => ringKeep s k (rec.take 8 ++ leBytes 4 r.recSeq ++ rec.drop 12) x.1 x.2
    | none => emitB (ringEnd s k) r.block evRecordFull []

/-- The place of a packet's record among those of its cycle: (hub die, port), ingress before egress (11 R284). -/
def recordKey (s : State) (port : Nat) (egress : Bool) : Nat := (dieOf s port * 256 + port) * 2 + b2n egress

/-- Place a record in a cycle's list after those of its place and of earlier ones. -/
def cycleInsert (x : Nat × List Byte) : List (Nat × List Byte) → List (Nat × List Byte)
  | [] => [x]
  | y :: ys => if x.1 < y.1 then x :: y :: ys else y :: cycleInsert x ys

/-- Write a record with place `key` in its cycle to ring `k`: the records of one cycle are written anew in their order (11 R284). Rows between
which no time passes are one cycle (DEDUCED, log 21). -/
def ringPut (s : State) (k key : Nat) (rec : List Byte) : State :=
  let r := ringOf s k
  let same := decide (r.cycAt = s.now) && !r.cyc.isEmpty
  let mark : RingMark := if same then r.mark else ⟨r.records, r.recSeq, r.first, r.used, r.sizes⟩
  let cyc := cycleInsert (key, rec) (if same then r.cyc else [])
  let s := updRing s k fun r => { r with
    cycAt := s.now, cyc := cyc, mark := mark,
    records := mark.records, recSeq := mark.recSeq, first := mark.first, used := mark.used, sizes := mark.sizes }
  (cyc.map Prod.snd).foldl (ringAppend k) s

/-- Queue a record of `n` bytes at hub die `d`: whether its 64 KiB hold it, after the larder has taken some of what was queued (11 R288; how
much is free, log 23). -/
def recordHold (s : State) (d n : Nat) : Bool × State :=
  let l := s.lard
  let left := Tab.get 0 l.recHeld d - Config.recordWritten s.now l.recDraw
  let ok := decide (left + n ≤ 65536)
  (ok, { s with lard := { l with recDraw := l.recDraw + 1, recHeld := Tab.set 0 l.recHeld d (if ok then left + n else left) } })

/-- Record ring `k` loses a record, which its next record counts (11 R288). -/
def ringLose (s : State) (k : Nat) : State := ringSync (updRing s k fun r => { r with lost := r.lost + 1, lostNow := r.lostNow + 1 }) k

/-- Write a record of `port` that its hub die queues to ring `k`, or lose it where its queue is full (11 R288). -/
def ringQueue (s : State) (k port : Nat) (egress : Bool) (rec : List Byte) : State :=
  let x := recordHold s (dieOf s port) rec.length
  if x.1 then ringPut x.2 k (recordKey s port egress) rec else ringLose x.2 k

/-- The header of a record (11, table "Record header"; 17, table "Capture record header" has the same places). -/
def recordHeader (s : State) (r : Ring) (port flags reason who trailer tail : Nat) : List Byte :=
  leBytes 8 s.axle.value ++ leBytes 4 r.recSeq ++ leBytes 1 port ++ leBytes 1 flags ++ leBytes 1 reason ++ leBytes 1 who ++
  leBytes 8 trailer ++ leBytes 4 tail ++ leBytes 2 (min r.lostNow 0xFFFF) ++ leBytes 2 0

/-- Crossbar cycles since the recording began, modulo 2^32: 1.6 per nanosecond of the clock, which under STEADY stretches on all dies together, so that
H0's counts them (01 R15, 11 R286). -/
def ringCyc (s : State) (r : Ring) : Nat := if r.steady then (xTime s 0 - r.startAt) * 8 / 5 % 2 ^ 32 else 0

/-- Advance the 1 µs window of a recording by `n` ingress bytes (11 R285). -/
def ringWindow (s : State) (r : Ring) (n : Nat) : Ring :=
  let w := s.axle.value / 1000
  if w = r.winStart then { r with winBytes := r.winBytes + n }
  else { r with winStart := w, prevBytes := if w = r.winStart + 1 then r.winBytes else 0, winBytes := n }

/-- The body of a packet's record: header, then payload or its digest (11 R286). -/
def recordBody (p : Packet) (digest : Bool) : List Byte :=
  headerBytes p.hdr ++ (if digest then (if p.payload.isEmpty then [] else shake256 p.payload 16 ++ List.replicate 16 0) else p.payload)

/-- Whether ring `k` records packets of a port now (11 R284). -/
def ringTakes (s : State) (k port : Nat) : Bool :=
  let r := ringOf s k
  decide (r.st = 1) && !r.capture && r.begun && (memberPorts s r.block).contains port

/-- Record one packet in ring `k` (11 R284 to R286). -/
def recordOne (port : Nat) (p : Packet) (egress : Bool) (reason : Option Nat) (dup : Bool) (s : State) (k : Nat) : State :=
  if ringTakes s k port && (!egress || (ringOf s k).egress) then
    let s := if egress then s else updRing s k fun r => ringWindow s r (wireBytes p)
    let r := ringOf s k
    let dig := r.digest || egress || decide (1000000 < r.prevBytes)
    let fl := fields [(0, 1, b2n dig), (1, 1, b2n egress), (2, 1, b2n reason.isSome), (3, 1, b2n dup), (4, 1, b2n r.steady)]
    ringQueue s k port egress (recordHeader s r port fl (reason.getD 0) r.block p.trailer.toNat (ringCyc s r) ++ recordBody p dig)
  else s

/-- Count a packet whose trailer failed in the recordings of its port (11 R284). -/
def recordSkip (port : Nat) (s : State) (k : Nat) : State :=
  if ringTakes s k port then ringSync (updRing s k fun r => { r with crcSkip := r.crcSkip + 1 }) k else s

/-- Whether ring `k` captures a port now (17 R431). -/
def captures (s : State) (k port : Nat) : Bool :=
  let r := ringOf s k
  decide (r.st = 1) && r.capture && decide (r.port = 0xFFFF ∨ r.port = port) && decide ((portOf s port).stage ≠ .quarantine)

/-- Capture one packet in ring `k` (17 R432). -/
def captureOne (port : Nat) (p : Packet) (egress failed : Bool) (reason : Option Nat) (s : State) (k : Nat) : State :=
  if captures s k port then
    let s := if failed then updRing s k fun r => { r with crcSkip := r.crcSkip + 1 } else s
    let r := ringOf s k
    let fl := fields [(0, 1, b2n egress), (1, 1, b2n failed), (2, 1, b2n reason.isSome), (3, 1, b2n (p.hdr.typ.toNat == tSYNC)),
      (4, 1, b2n r.steady)]
    ringQueue s k port egress (recordHeader s r port fl (reason.getD 0) (dieOf s port) p.trailer.toNat (ringCyc s r) ++ headerBytes p.hdr)
  else s

/-- Drop stream frames that cannot be sent: counted, and the next frame of the stream carries gap (14 R367). -/
def streamDrop (l : Lonus) (telem : Bool) (n : Nat) : Lonus :=
  if n = 0 then l
  else { l with stream := min 4095 (l.stream + n), gapT := l.gapT || telem, gapM := l.gapM || !telem }

/-- Form a MIRROR frame (17 R429): dropped while no session is open (14 R352); a sample that finds its die's 64 KiB queue full is lost (17 R430). -/
def mirrorOut (s : State) (port : Nat) (payload : List Byte) : State :=
  let d := dieOf s port
  let held := ((s.lonus.mirrorQ.filter fun f => decide (dieOf s f.code = d)).map fun f => f.payload.length).sum
  if 65536 < held + payload.length then updHub s d fun h => { h with lostSmp := (h.lostSmp + 1) % 2 ^ 32, smpGap := true }
  else
    let f : StreamFrame := { code := port, seq := s.lonus.strSeq, gap := s.lonus.gapM || (hubOf s d).smpGap, payload := payload, axle := s.axle.value }
    let s := updLonus s fun l => { l with strSeq := (l.strSeq + 1) % 2 ^ 64 }
    if s.lonus.opened then
      updHub (updLonus s fun l => { l with mirrorQ := l.mirrorQ ++ [f], gapM := false }) d fun h => { h with smpGap := false }
    else updLonus s fun l => streamDrop l false 1

/-- Count an ingress packet and take the sample that is due (17 R428, R429). SYNC is not counted. -/
def sampleIngress (s : State) (port : Nat) (p : Packet) (failed : Bool) (reason : Option Nat) : State :=
  let t := s.telem
  if t.smpOn && decide (t.smpPort = 0xFFFF ∨ t.smpPort = port) && decide (p.hdr.typ.toNat ≠ tSYNC) &&
      decide ((portOf s port).stage = .up) then
    let n := (portOf s port).smpCount + 1
    let s := updPort s port fun q => { q with smpCount := n }
    if n % t.smpN = 0 then
      let hdr := leBytes 8 s.axle.value ++ leBytes 4 (portOf s port).cnt.rxPkts ++
        leBytes 1 (fields [(0, 1, b2n failed), (1, 1, b2n reason.isSome)]) ++ leBytes 1 (reason.getD 0) ++
        leBytes 2 (wireBytes p) ++ leBytes 8 p.trailer.toNat ++ leBytes 8 0
      mirrorOut s port (hdr ++ (headerBytes p.hdr ++ p.payload).take t.smpTrunc)
    else s
  else s

/-- Sampling and capture of an arriving packet (17 R428, R431). -/
def watchLive (s : State) (port : Nat) (p : Packet) (failed : Bool) (reason : Option Nat) : State :=
  (List.range 16).foldl (captureOne port p false failed reason) (sampleIngress s port p failed reason)

/-- Everything that watches an arriving packet: sampling, capture, recording (17 R418: it changes nothing else). -/
def watchIngress (s : State) (port : Nat) (p : Packet) (failed : Bool) (reason : Option Nat) (dup : Bool) : State :=
  let s := watchLive s port p failed reason
  if p.hdr.typ.toNat = tSYNC then s
  else if failed then (List.range 16).foldl (recordSkip port) s
  else (List.range 16).foldl (recordOne port p false reason dup) s

/-- Everything that watches a transmitted packet. -/
def watchEgress (s : State) (port : Nat) (p : Packet) : State :=
  let s := (List.range 16).foldl (captureOne port p true false none) s
  if p.hdr.typ.toNat = tSYNC then s else (List.range 16).foldl (recordOne port p true none false) s

/-- Write a boundary record to every recording of block `b` (11 R274, R286): no hub die's, it takes no place in their queues (log 23). -/
def recordBoundary (s : State) (b : Nat) : State :=
  (List.range 16).foldl (fun s k =>
    let r := ringOf s k
    if r.st = 1 ∧ !r.capture ∧ r.begun ∧ r.block = b then
      ringPut s k (2 ^ 16) (recordHeader s r 0 (fields [(4, 1, b2n r.steady), (5, 1, 1)]) 0 b (blockOf s b).step ((blockOf s b).choice % 2 ^ 32))
    else s) s

end Sys2Proof.Machine
end

