-- ==== Sys2Proof/Machine/Fabric.lean ====
section
/-! DEFINITION. Queues and routes (04, 05): forming packets, egress queues, overflow, marks, the Brake's hold queues, multicast fan-out,
in-flight counts, discards. -/

namespace Sys2Proof.Machine

-- Forming packets

/-- The epoch bit a die stamps (05 R120, R127). -/
def stampOf (s : State) (d : Nat) : Bool := (s.epoch.stamp[d]?).getD false

/-- A header the module originates: last 1, its own EPA, the die's epoch (03 R55, 05 R120). -/
def ownHeader (s : State) (d typ tclass dst : Nat) : Header :=
  { typ := BitVec.ofNat 4 typ, tclass := BitVec.ofNat 2 tclass, epoch := stampOf s d, mcast := false, last := true, mark := false,
    resend := false, rsvd := 0, len := 0, dst := BitVec.ofNat 16 dst, src := BitVec.ofNat 16 (ownEpa s), seq := 0, ctag := 0, op := 0,
    addr := 0, step := 0, chunk := 0, aux := 0 }

/-- The packet of a header and a payload, its trailer computed (03 R59). -/
def mkPacket (h : Header) (payload : List Byte) : Packet :=
  let h := { h with len := BitVec.ofNat 16 (payload.length / 32) }
  { hdr := h, payload := payload, trailer := BitVec.ofNat 64 (trailerOf h payload) }

/-- The bytes of a packet on a link (03 R53). -/
def packetBytes (p : Packet) : List Byte := headerBytes p.hdr ++ p.payload ++ leBytes 8 p.trailer.toNat

/-- The packet with another mark (the trailer does not cover it, 03 R59). -/
def withMark (p : Packet) (m : Bool) : Packet := { p with hdr := { p.hdr with mark := m } }

/-- The packet with resend 1 and its trailer computed again (03 R62). -/
def withResend (p : Packet) : Packet := mkPacket { p.hdr with resend := true, mark := false } p.payload

/-- Set the congestion mark where the type takes one (04 R99). -/
def marked (p : Packet) (m : Bool) : Packet := if m && decide (p.hdr.typ.toNat < 8) then withMark p true else p

-- Regions and fill (10 R243 to R247)

/-- MOD_LARD_LAYOUT and MOD_LARD_LAYOUT2 (10 R269). -/
def layout1 (s : State) : Nat := regAt s 0x40000200 ((match s.fixed.grade with | .h12 => 64 | .h6 => 32) + 8 * 65536 + 16 * 16777216)
def layout2 (s : State) : Nat := regAt s 0x40000204 8
def heapGib (s : State) : Nat := bits (layout1 s) 0 9
def ringsGib (s : State) : Nat := bits (layout1 s) 16 6
def spillGib (s : State) : Nat := bits (layout1 s) 24 6
def ovfGib (s : State) : Nat := bits (layout2 s) 0 6
def poolGib (s : State) : Nat := capGib s - (heapGib s + ringsGib s + spillGib s + ovfGib s)
def heapBase (s : State) : Nat := poolGib s * gib
def ringsBase (s : State) : Nat := (poolGib s + heapGib s) * gib
def spillBase (s : State) : Nat := (poolGib s + heapGib s + ringsGib s) * gib
def ovfBase (s : State) : Nat := (poolGib s + heapGib s + ringsGib s + spillGib s) * gib

/-- The region of a larder address: 0 pool, 1 heap, 2 rings, 3 spill, 4 overflow (10 R262). -/
def regionOf (s : State) (a : Nat) : Nat :=
  if a < heapBase s then 0 else if a < ringsBase s then 1 else if a < spillBase s then 2 else if a < ovfBase s then 3 else 4

/-- Cells in use in the overflow region: packets, and a cell of list records per 8 entries of a list (10 R247; log 13). -/
def ovfCells (s : State) : Nat :=
  (s.ports.map fun p => (p.2.ovfList.map fun f => cellsOf f.pkt).sum + ceilDiv p.2.ovfList.length 8).sum

/-- Cells of a spilled item: its packet's, or 160 for a leaf state (10 R247). -/
def itemCells (i : CItem) : Nat := if i.leaf then 160 else ceilDiv (40 + i.payload.length) 256

/-- Cells of the spilled chunks, early entries and result holds of the harnesses that satisfy `p` (10 R247). -/
def spillOf (s : State) (p : Nat → Bool) : Nat :=
  ((s.coll.spills ++ s.coll.early).map fun x => if p x.key.h then (x.items.map itemCells).sum else 0).sum +
  (s.coll.holds.map fun x => if p x.h then ceilDiv x.bytes.length 256 else 0).sum

/-- Cells in use in the spill region, exact cells included (10 R247). -/
def spillCells (s : State) : Nat := spillOf s (fun _ => true) + ceilDiv s.lard.cells.length 4

/-- A fill in percent (10 R247). -/
def pctOf (used gibs : Nat) : Nat := min 100 (100 * used / (max 1 (gibs * 4194304)))
def ovfPct (s : State) : Nat := pctOf (ovfCells s) (ovfGib s)
def spillPct (s : State) : Nat := pctOf (spillCells s) (spillGib s)

/-- The die limit in sixteenths (04 R104): by overflow fill, and the power supervision's limit in force (16 R400, R401). -/
def dieLimitOf (s : State) : Nat :=
  min (if ovfPct s < 50 then 16 else if ovfPct s < 75 then 8 else if ovfPct s < 90 then 4 else 1) s.pwr.effLim

-- Egress queues

/-- Cells held or reserved in a port's egress queue (04 R83). -/
def egOcc (q : Port) : Nat := (q.egq.map EEntry.cells).sum + (q.ctlq.map EEntry.cells).sum

/-- Give a packet its place in flight (05 R121). -/
def flightOf (s : State) (p : Packet) (arr : Option Nat) (block : Nat) : Flight × State :=
  ({ pkt := p, arrPort := arr, block := block, stamp := s.now, id := s.flightId }, { s with flightId := s.flightId + 1 })

/-- What of a flight concerns port `p`: a replicated result's own copy (06 R156), with the marks met on the way. -/
def copyAt (fl : Flight) (p : Nat) : Flight :=
  match fl.fan.find? fun x => decide (x.1 = p) with
  | some x => { fl with pkt := marked x.2 fl.pkt.hdr.mark, fan := [] }
  | none => fl

/-- Append a packet to port `p`'s egress queue with `inn` cells arrived, marking it where the queue is deep (04 R84, R99). -/
def egInsert (s : State) (p : Nat) (fl0 : Flight) (inn : Nat) : State :=
  let fl := copyAt fl0 p
  let q := portOf s p
  let m := decide (markDepthOf s p ≤ egOcc q) && decide (fl.pkt.hdr.typ.toNat < 8)
  let e : EEntry := { fl := { fl with pkt := marked fl.pkt m }, cells := cellsOf fl.pkt, inn := inn }
  updPort s p fun q =>
    let q := { q with cnt := { q.cnt with marked := q.cnt.marked + b2n m }, winMax := max q.winMax (egOcc q + e.cells) }
    if fl.pkt.hdr.tclass = 3 then { q with ctlq := q.ctlq ++ [e] } else { q with egq := q.egq ++ [e] }

/-- Whether the overflow region has room for all cells of a packet (04 R83). -/
def ovfRoom (s : State) (fl : Flight) : Bool := decide (ovfCells s + cellsOf fl.pkt + 1 ≤ ovfGib s * 4194304)

/-- Append a packet to port `p`'s overflow list; the port enters overflow state (04 R94, R99). -/
def divertList (s : State) (p : Nat) (fl0 : Flight) : State :=
  let fl := copyAt fl0 p
  updPort s p fun q =>
    { q with ovf := true, winOvf := true, ovfList := q.ovfList ++ [{ fl with pkt := marked fl.pkt true }],
             cnt := { q.cnt with marked := q.cnt.marked + b2n (decide (fl.pkt.hdr.typ.toNat < 8)), diverted := q.cnt.diverted + 1 } }

/-- Whether a packet for port `p` diverts: the port is in overflow state, or the packet would take its queue above ovf_on (04 R94). -/
def diverts (s : State) (p cells : Nat) : Bool :=
  (portOf s p).ovf || decide (ovfOn s p < egOcc (portOf s p) + cells)

/-- Whether port `p`'s queue has room: the control sub-queue holds 64 cells (04 R83, R84). -/
def egRoom (s : State) (p : Nat) (fl : Flight) : Bool :=
  let q := portOf s p
  decide (egOcc q + cellsOf fl.pkt ≤ egSize s p) &&
    (decide (fl.pkt.hdr.tclass ≠ 3) || decide ((q.ctlq.map EEntry.cells).sum + cellsOf fl.pkt ≤ 64))

/-- A NACK's header for a refused header (03 R57, R75): copied fields, the echoed mark (03 R80). -/
def nackHeader (s : State) (d tgt : Nat) (h : Header) (code : Nat) : Header :=
  { ownHeader s d tNACK 3 tgt with
    mark := h.mark, seq := h.seq, ctag := h.ctag, op := h.op, step := h.step, chunk := h.chunk,
    addr := BitVec.ofNat 48 (h.dst.toNat + 0x10000 * b2n h.mcast),
    aux := BitVec.ofNat 32 (code + 0x100 * b2n (retryable code)) }

/-- Count a packet discarded on a port's egress side (04 R106). -/
def flushCount (s : State) (p : Nat) : State :=
  updPort s p fun q => { q with flushOut := q.flushOut + 1, cnt := { q.cnt with flushed := q.cnt.flushed + 1 } }

/-- Place a packet that is written directly toward port `p`'s egress queue: diverted where every packet of the port is, else queued; none
where its place has no room for all of its cells (04 R83, R94). -/
def egPlace (s : State) (p : Nat) (fl : Flight) : Option State :=
  if diverts s p (cellsOf fl.pkt) then (if ovfRoom s fl then some (divertList s p fl) else none)
  else if egRoom s p fl then some (egInsert s p fl (cellsOf fl.pkt))
  else none

/-- Write a packet the module originated directly into the egress queue of port `p` (04 R87); without room it waits (R83), and a port that is
down discards it. DESIGN CHOICE: the module's NACK, ACK and SYNC packets have no issuing block and are charged to none, 0xFFFF; 04 R97 names none (log 16). -/
def egDirect (s : State) (p : Nat) (pkt : Packet) (block : Nat) : State :=
  if (portOf s p).stage ≠ .up then (if (portOf s p).flushing then flushCount s p else s)
  else
    let (fl, s) := flightOf s pkt none block
    (egPlace s p fl).getD (updPort s p fun q => { q with egWait := q.egWait ++ [fl] })

/-- The packets that wait for room at port `p` try again, in order (04 R83). -/
def egRetry (s : State) (p : Nat) : State :=
  (portOf s p).egWait.foldl (fun s fl =>
    (egPlace (updPort s p fun q => { q with egWait := q.egWait.erase fl }) p fl).getD s) s

/-- Send a NACK out of port `p` (04 R87). -/
def nackCode (s : State) (p tgt : Nat) (h : Header) (code : Nat) : State :=
  egDirect s p (mkPacket (nackHeader s (dieOf s p) tgt h code) []) 0xFFFF

def nack (s : State) (p tgt : Nat) (h : Header) (r : Reason) : State := nackCode s p tgt h (reasonCode r)

/-- A discarded packet draws a FLUSHED NACK where it was numbered and came from a link partner (04 R106); one whose trailer fails draws its CRC
NACK alone (03 R60). -/
def flushNack (s : State) (fl : Flight) : State :=
  match fl.arrPort with
  | some p => if fl.bad || unnumbered fl.pkt.hdr.typ.toNat then s else nack s p fl.pkt.hdr.src.toNat fl.pkt.hdr .flushed
  | none => s

/-- Discard a packet on the egress side of port `p` (04 R106). -/
def flushAt (s : State) (p : Nat) (fl : Flight) : State := flushNack (flushCount s p) (copyAt fl p)

/-- Divert a packet toward port `p`'s overflow list; one whose port is down reaches its egress side there and is discarded (04 R94, R106). -/
def divertTo (s : State) (p : Nat) (fl : Flight) : State :=
  if (portOf s p).stage ≠ .up then flushAt s p fl else divertList s p fl

-- Crossing the dies

/-- The index of die `m` among the other dies of `d` (04 R85). -/
def bridgeIdx (d m : Nat) : Nat := if m < d then m else m - 1

/-- The other dies of `d`. -/
def otherDies (d : Nat) : List Nat := (List.range 4).filter fun m => decide (m ≠ d)

/-- The bridge transmit queue from `d` to `m`. -/
def bridgeQ (s : State) (d m : Nat) : List BEntry := Tab.get [] (hubOf s d).bridges m

/-- Cells held or reserved in a bridge queue (04 R83). -/
def bridgeOcc (q : List BEntry) : Nat := (q.map fun e => e.cells - e.out).sum

/-- The root die of a chunk's tree (06, "Chunks, planes and trees"). -/
def treeRoot (chunk : Nat) : Nat := if chunk % 2 = 0 then 0 else 2

/-- Cells of the bridge queue from `d` to `m`, leaf states on their way included (04 R83, 06 R149). -/
def bridgeUse (s : State) (d m : Nat) : Nat :=
  bridgeOcc (bridgeQ s d m) +
    ((s.coll.flight.filter fun f => decide (f.2.1.die = d ∧ treeRoot f.2.1.chunk = m)).map Prod.fst).sum

/-- The crossbar outputs of die `d` that lead to a destination (04 R85, R86). -/
def outputsFor (s : State) (d : Nat) : XDest → List Nat
  | .port p => pointsOf s p
  | .bridge m => (List.range 8).map fun k => 8 * bridgeIdx d m + k

/-- Where a packet for port `p` goes from die `d`. -/
def xdestOf (s : State) (d p : Nat) : XDest := if dieOf s p = d then .port p else .bridge (dieOf s p)

/-- The trunk input of a group of eight with the fewest packets; the lowest on a tie (log 16). -/
def trunkInput (s : State) (d g : Nat) : Nat :=
  let load := fun i => ((hubOf s d).xq.filter fun e => e.trunk && decide (e.input = i)).length
  (minBy (fun i => (load i : Int)) ((List.range 8).map fun k => 8 * g + k)).getD (8 * g)

/-- Put a packet at a crossbar input of die `d`, bound for some destinations, with `inn` of its cells arrived (04 R83; all, by default). -/
def xInsert (s : State) (d input : Nat) (trunk noDefl : Bool) (fl : Flight) (dests : List XDest) (ports : List Nat)
    (reserve : Option Nat := none) (inn : Option Nat := none) : State :=
  if dests.isEmpty then s
  else
    let n := cellsOf fl.pkt
    let e : XEntry := { fl := fl, input := input, trunk := trunk, cells := n, came := s.now, inn := inn.getD n,
                        left := dests.map (fun x => (x, n)), dests := ports, noDefl := noDefl, reserve := reserve }
    updHub s d fun h => { h with xq := h.xq ++ [e] }

/-- The crossbar input that a packet arriving on port `p` stands at; the two inputs of an x8 port alternate (04 R86). -/
def arrInput (s : State) (p : Nat) : Nat × State :=
  match pointsOf s p with
  | a :: b :: _ => (if (portOf s p).x8alt then b else a, updPort s p fun q => { q with x8alt := !q.x8alt })
  | a :: _ => (a, s)
  | [] => (0, s)

-- Multicast (05 R131 to R134)

/-- The members of a group that have a usable route, with their ports, and those missing with their reasons (05 R133). -/
def fanOut (s : State) (v g seq : Nat) : List (Nat × Nat) × List (Nat × Nat) :=
  let ow := blockOf s (mcastOwner s v g)
  (mcastMembers s v g).foldr (fun e (acc : List (Nat × Nat) × List (Nat × Nat)) =>
    if !inBox ow e then (acc.1, (e, reasonCode .outsideBlock) :: acc.2)
    else match routeOf s v e seq with
      | some p => ((e, p) :: acc.1, acc.2)
      | none =>
        let ways := [bits (coordEntry s v (2 * e)) 0 8, bits (coordEntry s v (2 * e + 1)) 0 8]
        let valid := [bit (coordEntry s v (2 * e)) 8, bit (coordEntry s v (2 * e + 1)) 8]
        let fl := (ways.zip valid).any fun w => w.2 && (portOf s w.1).flushing
        (acc.1, (e, reasonCode (if fl then .flushed else .noRoute)) :: acc.2)) ([], [])

/-- The port of a member's coordinate entry; both ways of one EPA lie on one die (02 R29). -/
def memberPort (s : State) (v e : Nat) : Option Nat :=
  let w := if bit (coordEntry s v (2 * e)) 8 then coordEntry s v (2 * e) else coordEntry s v (2 * e + 1)
  if bit w 8 && portExists s (bits w 0 8) then some (bits w 0 8) else none

/-- The die that classifies a member: the one of its coordinate entry's port (05 R131). A member without a port is classified on the first die. -/
def memberDie (s : State) (v d e : Nat) : Nat := ((memberPort s v e).map (dieOf s)).getD d

/-- Replicate a multicast WRITE on the die of its arrival (05 R131): local copies, one copy per other die with members, the report to await. -/
def replicate (s : State) (d input : Nat) (trunk : Bool) (fl : Flight) (report : Option Nat) (inn : Option Nat := none) : State :=
  let v := b2n fl.pkt.hdr.epoch
  let g := fl.pkt.hdr.dst.toNat % 4096
  let (ok, miss) := fanOut s v g fl.pkt.hdr.seq.toNat
  let here := (ok.filter fun e => decide (dieOf s e.2 = d)).map Prod.snd
  let mine := miss.filter fun e => decide (memberDie s v d e.1 = d)
  let far := (otherDies d).filter fun m => (mcastMembers s v g).any fun e => decide (memberDie s v d e = m)
  let s := match report with
    | some p => updHub s d fun h => { h with mcast := h.mcast ++
        [{ id := fl.id, hdr := fl.pkt.hdr, owner := mcastOwner s v g, port := p, wait := d :: far }], missing := h.missing ++ [(fl.id, mine)] }
    | none => s
  xInsert s d input trunk true fl (here.map XDest.port ++ far.map XDest.bridge) [] none inn

/-- A copy whose first cells reached die `d` over a bridge: local members only, its missing members reported (05 R131, R134). -/
def replicateFar (s : State) (d src : Nat) (fl : Flight) (inn : Nat) : State :=
  let v := b2n fl.pkt.hdr.epoch
  let g := fl.pkt.hdr.dst.toNat % 4096
  let (ok, miss) := fanOut s v g fl.pkt.hdr.seq.toNat
  let here := (ok.filter fun e => decide (dieOf s e.2 = d)).map Prod.snd
  let mine := miss.filter fun e => decide (memberDie s v src e.1 = d)
  let s := updHub s d fun h => { h with missing := h.missing ++ [(fl.id, mine)] }
  xInsert s d (trunkInput s d (bridgeIdx d src)) true true fl (here.map XDest.port) [] none (some inn)

/-- Replicate a result from its root die `d` (06 R155, 05 R131): its copies for local ports, and one copy toward each other die with members. -/
def replicateResult (s : State) (d : Nat) (fl : Flight) : State :=
  let here := (fl.fan.filter fun x => decide (dieOf s x.1 = d)).map fun x => XDest.port x.1
  let far := (otherDies d).filter fun m => fl.fan.any fun x => decide (dieOf s x.1 = m)
  xInsert s d (trunkInput s d 3) true true fl (here ++ far.map XDest.bridge) []

/-- The copies of a result by port: those for members of die `d` resolved there, the others named by their coordinate entry (05 R131). -/
def resultFan (s : State) (v d : Nat) (copies : List Packet) : List (Nat × Packet) :=
  copies.filterMap fun k =>
    let e := k.hdr.dst.toNat
    (if memberDie s v d e = d then routeOf s v e k.hdr.seq.toNat else memberPort s v e).map fun p => (p, k)

/-- A result's copy whose first cells reached die `d` over a bridge fans out to the members there, which that die resolves anew (05 R131). -/
def resultFar (s : State) (d src : Nat) (fl : Flight) (inn : Nat) : State :=
  let v := b2n fl.pkt.hdr.epoch
  let fan := resultFan s v d ((fl.fan.filter fun x => decide (dieOf s x.1 = d)).map Prod.snd)
  xInsert s d (trunkInput s d (bridgeIdx d src)) true true { fl with fan := fan } (fan.map fun x => XDest.port x.1) [] none (some inn)

-- Originating (04 R87, R103)

/-- The next sequence number of the module's pair with `key`: an EPA, or 65,536 + group (03 R62). -/
def takeSeq (s : State) (key : Nat) : Nat × State :=
  let n := Tab.get 0 s.e2e.txSeq key
  (n, { s with e2e := { s.e2e with txSeq := Tab.set 0 s.e2e.txSeq key ((n + 1) % 2 ^ 32) } })

/-- The key of a packet's pair. -/
def pairKey (h : Header) : Nat := if h.mcast then 65536 + h.dst.toNat else h.dst.toNat

/-- Queue an originated packet at the Brake of die `d` (04 R103). -/
def holdAt (s : State) (d : Nat) (x : Held) : State := updHub s d fun h => { h with held := h.held ++ [x] }

/-- Number and form a packet, and queue it at the Brake; the answer is its sequence number (03 R62, 04 R103). -/
def originate (s : State) (d block : Nat) (h : Header) (payload : List Byte) (why : Purpose) (port : Option Nat := none)
    (pace : Option Nat := none) : Nat × State :=
  let (n, s) := takeSeq s (pairKey h)
  let p := mkPacket { h with seq := BitVec.ofNat 32 n } payload
  (n, holdAt s d { pkt := p, block := block, purpose := why, port := port, pace := pace })

/-- Whether group `g` of version `v` is valid and block `b`'s (05 R117). -/
def groupOwn (s : State) (v g b : Nat) : Bool := mcastValid s v g && decide (mcastOwner s v g = b)

/-- Put a packet that left the Brake into the crossbar of its die by the local trunk; without a usable port it is discarded (04 R107), and so is
one to a group that is not its block's in the version of its epoch (05 R117), and one whose epoch selects a version that has become Writable, which is
counted (05 R118, R119). -/
def inject (s : State) (d block : Nat) (p : Packet) : State :=
  let (fl, s) := flightOf s p none block
  let i := trunkInput s d 3
  if verOf s (b2n p.hdr.epoch) = .writable then { s with epoch := { s.epoch with stale := satInc 32 s.epoch.stale } }
  else if p.hdr.mcast then
    (if groupOwn s (b2n p.hdr.epoch) (p.hdr.dst.toNat % 4096) block then replicate s d i true fl none else s)
  else match routeOf s (b2n p.hdr.epoch) p.hdr.dst.toNat p.hdr.seq.toNat with
    | some q => xInsert s d i true true fl [xdestOf s d q] [q]
    | none => s

-- In-flight counts (05 R121)

/-- Packets of epoch `v` in flight on a die's crossbar and bridges, and at its Brake. -/
def hubFlight (h : Hub) (v : Bool) : Nat :=
  (h.xq.map fun e => if e.fl.pkt.hdr.epoch = v then (e.left.filter fun x => x.2 = e.cells).length else 0).sum +
  (h.bridges.map fun b => (b.2.filter fun e => decide (e.fl.pkt.hdr.epoch = v ∧ e.out = 0)).length).sum +
  (h.held.filter fun e => e.pkt.hdr.epoch = v).length

/-- Packets of epoch `v` in flight in a port's queues and overflow list. -/
def portFlight (q : Port) (v : Bool) : Nat :=
  (q.egq.filter fun e => e.fl.pkt.hdr.epoch = v).length + (q.ctlq.filter fun e => e.fl.pkt.hdr.epoch = v).length +
  (q.ovfList.filter fun e => e.pkt.hdr.epoch = v).length + (q.egWait.filter fun e => e.pkt.hdr.epoch = v).length

/-- Packets of epoch `v` in flight, summed over the hub dies (05 R121). -/
def inFlight (s : State) (v : Bool) : Nat :=
  (s.hub.map fun h => hubFlight h.2 v).sum + (s.ports.map fun p => portFlight p.2 v).sum +
  (s.localQ.filter fun w => w.pkt.hdr.epoch = v).length

-- Discards

/-- Below 99 % fill of the overflow region the repetition of 04 R98 ends: the next reach of 99 % acts at once. -/
def ovfEase (s : State) : State :=
  { s with lard := { s.lard with lastOvfFault := if ovfPct s < 99 then none else s.lard.lastOvfFault } }

/-- Discard every queued packet whose flight satisfies `kill`, without NACK (04, "When a job block faults with packets queued"). -/
def dropFlights (s : State) (kill : Flight → Bool) : State :=
  ovfEase { s with
    hub := Tab.mapV {} s.hub fun h => { h with
      xq := h.xq.filter fun x => !kill x.fl,
      bridges := Tab.mapV [] h.bridges fun q => q.filter fun x => !kill x.fl },
    ports := Tab.mapV {} s.ports fun q => { q with
      egq := q.egq.filter fun x => !kill x.fl,
      ctlq := q.ctlq.filter fun x => !kill x.fl,
      ovfList := q.ovfList.filter fun x => !kill x,
      egWait := q.egWait.filter fun x => !kill x } }

/-- Discard a block's queued, transit, overflow and held packets; the copies and the report of flight `keep` stay (05 R134). -/
def dropBlock (s : State) (b : Nat) (keep : Option Nat) : State :=
  let s := dropFlights s fun fl => decide (fl.block = b) && decide (keep ≠ some fl.id)
  { s with hub := Tab.mapV {} s.hub (fun h => { h with held := h.held.filter fun x => decide (x.block ≠ b) }),
           e2e := { s.e2e with out := s.e2e.out.filter fun o => decide (o.block ≠ b) },
           localQ := s.localQ.filter fun w => decide (w.block ≠ b) }

/-- The overflow bytes charged to a block (04 R97, R98). -/
def ovfBytes (s : State) (b : Nat) : Nat :=
  (s.ports.map fun p => ((p.2.ovfList.filter fun f => decide (f.block = b)).map fun f => 256 * cellsOf f.pkt).sum).sum

end Sys2Proof.Machine
end

