-- ==== Sys2Proof/Machine/LineCode.lean ====
section
/-! DEFINITION. The line code (12 R298 to R305, R307; 14 R347): Reed-Solomon code, codeword header, scrambler, PAM4 levels, stuff symbols,
training frames, test patterns. -/

namespace Sys2Proof.Machine

-- GF(2^10) and RS(544,514) (12 R298)

/-- Multiply by α: x^10 = x^3 + 1. -/
def gfTwice (a : Nat) : Nat := if 512 ≤ a then (2 * a) ^^^ 0x409 else 2 * a

/-- Multiply `a` by the low `n` bits of `b`. -/
def gfMulBits : Nat → Nat → Nat → Nat
  | 0, _, _ => 0
  | n + 1, a, b => (if b % 2 = 1 then a else 0) ^^^ gfMulBits n (gfTwice a) (b / 2)

def gfMul (a b : Nat) : Nat := gfMulBits 10 a b

/-- α to the power `n`. -/
def gfExp (n : Nat) : Nat := Nat.repeat gfTwice (n % 1023) 1

/-- The inverse: a^1022, by ten squarings. -/
def gfInv (a : Nat) : Nat :=
  ((List.range 9).foldl (fun (x : Nat × Nat) _ => let q := gfMul x.2 x.2; (gfMul x.1 q, q)) (1, a)).1

/-- Product of two polynomials, lowest coefficient first. -/
def gfPoly (f g : List Nat) : List Nat :=
  (List.range (f.length + g.length - 1)).map fun k =>
    (List.range (k + 1)).foldl (fun acc i => acc ^^^ gfMul ((f[i]?).getD 0) ((g[k - i]?).getD 0)) 0

/-- The value of a polynomial, lowest coefficient first. -/
def gfEval (f : List Nat) (x : Nat) : Nat := f.foldr (fun c acc => c ^^^ gfMul acc x) 0

/-- The generator polynomial with roots α^0 to α^29, lowest coefficient first. -/
def rsGen : List Nat := (List.range 30).foldl (fun g i => gfPoly g [gfExp i, 1]) [1]

/-- One data symbol enters the encoder; its register holds the remainder, highest coefficient first. -/
def rsStep (g : List Nat) (reg : List Nat) (d : Nat) : List Nat :=
  let f := d ^^^ (reg[0]?).getD 0
  (List.range 30).map fun i => (reg[i + 1]?).getD 0 ^^^ gfMul f ((g[29 - i]?).getD 0)

/-- The 30 parity symbols of 514 data symbols, symbol 0 the highest-degree coefficient. -/
def rsParity (data : List Nat) : List Nat := data.foldl (rsStep rsGen) (List.replicate 30 0)

/-- The syndromes of a codeword. -/
def rsSyndromes (c : List Nat) : List Nat := (List.range 30).map fun j => let a := gfExp j; c.foldl (fun acc x => gfMul acc a ^^^ x) 0

/-- One step of the search for the error locator (Berlekamp-Massey): the locator, the last locator before its length changed, the length, the last
discrepancy and the steps since. -/
def locStep (syn : List Nat) (x : List Nat × List Nat × Nat × Nat × Nat) (n : Nat) : List Nat × List Nat × Nat × Nat × Nat :=
  let (c, b, l, e, m) := x
  let d := (List.range (l + 1)).foldl (fun acc i => acc ^^^ gfMul (c.getD i 0) (syn.getD (n - i) 0)) 0
  if d = 0 then (c, b, l, e, m + 1)
  else
    let f := gfMul d (gfInv e)
    let up := List.replicate m 0 ++ b
    let c' := (List.range (max c.length up.length)).map fun i => c.getD i 0 ^^^ gfMul f (up.getD i 0)
    if 2 * l ≤ n then (c', c, n + 1 - l, d, 1) else (c', b, l, e, m + 1)

/-- The error locator of a list of syndromes and the number of errors it stands for. -/
def rsLocator (syn : List Nat) : List Nat × Nat :=
  let x := (List.range 30).foldl (locStep syn) ([1], [1], 0, 1, 1)
  (x.1, x.2.2.1)

/-- Correct the symbol at position `p` (symbol 0 has the power 543) by Forney's formula. -/
def rsFix (loc omega c : List Nat) (p : Nat) : List Nat :=
  let x := gfExp (543 - p)
  let xi := gfInv x
  let odd := (List.range (loc.length / 2)).foldl (fun acc k => acc ^^^ gfMul ((loc[2 * k + 1]?).getD 0) (gfExp (2 * k * (1023 - (543 - p))))) 0
  c.set p (c.getD p 0 ^^^ gfMul x (gfMul (gfEval omega xi) (gfInv odd)))

/-- Decode a codeword (12 R305): at most 15 erroneous symbols are corrected; the answer is the codeword and how many were, none where it cannot be. -/
def rsDecode (c : List Nat) : Option (List Nat × Nat) :=
  if c.length ≠ 544 then none
  else
    let syn := rsSyndromes c
    if syn.all (· == 0) then some (c, 0)
    else
      let (loc, n) := rsLocator syn
      let hits := (List.range 544).filter fun p => gfEval loc (gfExp (1023 - (543 - p))) == 0
      if 15 < n ∨ hits.length ≠ n then none
      else
        let out := hits.foldl (rsFix loc ((gfPoly syn loc).take 30)) c
        if (rsSyndromes out).all (· == 0) then some (out, n) else none

-- Codewords (12 R298, R299)

/-- The 20-bit header of a codeword. -/
def cwHeader (kind lane count : Nat) : Nat := fields [(0, 3, kind), (3, 3, lane), (8, 12, count)]

/-- The 544 symbols of a codeword with a header and 640 stream bytes; missing bytes are 0. -/
def codeword (hdr : Nat) (bs : List Byte) : List Nat :=
  let v := ofLe (bs.take 640)
  let data := [hdr % 1024, hdr / 1024] ++ (List.range 512).map fun k => bits v (10 * k) 10
  data ++ rsParity data

/-- Header and stream bytes of a corrected codeword. -/
def cwSplit (c : List Nat) : Nat × List Byte :=
  (c.getD 0 0 + 1024 * c.getD 1 0, leBytes 640 (((c.drop 2).take 512).foldr (fun x acc => x + 1024 * acc) 0))

/-- The bits of symbols of 10 bits in wire order. -/
def symbolBits (c : List Nat) : List Bool := c.flatMap fun x => (List.range 10).map fun i => bit x i

/-- Symbols of 10 bits from bits in wire order; `n` bounds their number. -/
def bitSymbols : Nat → List Bool → List Nat
  | 0, _ => []
  | n + 1, b => if b.isEmpty then [] else (b.take 10).foldr (fun x acc => b2n x + 2 * acc) 0 :: bitSymbols n (b.drop 10)

-- The scrambler (12 R302)

/-- One bit of the 58-bit register, bit `k` of which holds s(n - 1 - k) (DESIGN CHOICE: the spec names no order of the seed's bits, log 28). -/
def scrBit (r : Nat) : Bool := bit r 38 != bit r 57
def scrNext (r : Nat) : Nat := 2 * r % 2 ^ 58 + b2n (scrBit r)

/-- The register `n` codewords after a state. -/
def scrAfter (seed n : Nat) : Nat := Nat.repeat scrNext (5440 * n) seed

/-- XOR the scrambler onto bits; scrambling and descrambling are one function. -/
def scramble : Nat → List Bool → List Bool
  | _, [] => []
  | r, b :: bs => (b != scrBit r) :: scramble (scrNext r) bs

-- PAM4 (12 R303) and stuffing (12 R304)

/-- The level of a pair, the first bit sent the more significant: 00, 01, 11, 10 give 0 to 3. -/
def pam4 (a b : Bool) : Nat := match a, b with | false, false => 0 | false, true => 1 | true, true => 2 | true, false => 3
def pam4Bits (l : Nat) : List Bool := match l with | 0 => [false, false] | 1 => [false, true] | 2 => [true, true] | _ => [true, false]

/-- The levels of bits in wire order. -/
def levels : List Bool → List Nat
  | a :: b :: r => pam4 a b :: levels r
  | _ => []

/-- The run after a symbol: its level and length. -/
def runNext (run : Nat × Nat) (x : Nat) : Nat × Nat := if run.1 = x ∧ run.2 ≠ 0 then (x, run.2 + 1) else (x, 1)

/-- The stuff symbol after 48 symbols of a level. -/
def stuffLevel (x : Nat) : Nat := if x < 2 then 3 else 0

/-- Insert stuff symbols, from a run on; the answer holds the run at the end. -/
def stuff : Nat × Nat → List Nat → List Nat × (Nat × Nat)
  | run, [] => ([], run)
  | run, x :: xs =>
    let r := runNext run x
    if r.2 = 48 then
      let y := stuff (stuffLevel x, 1) xs
      (x :: stuffLevel x :: y.1, y.2)
    else
      let y := stuff r xs
      (x :: y.1, y.2)

/-- Discard the symbol that follows any 48-symbol run; the discarded symbol starts a new run. -/
def unstuff : Nat × Nat → List Nat → List Nat × (Nat × Nat)
  | run, [] => ([], run)
  | run, x :: xs =>
    if run.2 = 48 then unstuff (x, 1) xs
    else
      let y := unstuff (runNext run x) xs
      (x :: y.1, y.2)

/-- The PAM4 levels of a codeword on a lane whose scrambler was seeded `n` codewords before; no stuff symbols yet. -/
def laneLevels (seed n : Nat) (cw : List Nat) : List Nat := levels (scramble (scrAfter seed n) (symbolBits cw))

/-- A codeword from the 2,720 levels of a lane without stuff symbols. -/
def laneCodeword (seed n : Nat) (l : List Nat) : List Nat := bitSymbols 544 (scramble (scrAfter seed n) (l.flatMap pam4Bits))

-- Rounds (12 R299, R300, R305)

/-- The codeword of lane index `m` in a round; lane `m` carries stream bytes 640 m to 640 m + 639. -/
def roundWord (kind count m : Nat) (stream : List Byte) : List Nat := codeword (cwHeader kind m count) ((stream.drop (640 * m)).take 640)

/-- What a receiver makes of a lane's codeword: corrected symbols, header and stream bytes; none where it is uncorrectable (12 R305). -/
def cwRead (c : List Nat) : Option (Nat × Nat × List Byte) :=
  match rsDecode c with
  | some (w, n) => let x := cwSplit w; some (n, x.1, x.2)
  | none => none

/-- Whether a header is one that may be sent: kind 0 to 3, rsvd 0 (12 R299). -/
def cwLegal (h : Nat) : Bool := decide (bits h 0 3 ≤ 3 ∧ bits h 6 2 = 0)

/-- The lane indices of a round that cause it to be uncorrectable (12 R305): an uncorrectable codeword, an illegal header, or a kind or count that
differs from lane index 0's. -/
def badLanes (words : List (List Nat)) : List Nat :=
  let rs := words.map cwRead
  let key := fun (h : Nat) => (bits h 0 3, bits h 8 12)
  let first := rs.findSome? fun r => r.map fun x => key x.2.1
  ((enum rs).filter fun e => match e.2 with
    | some x => !cwLegal x.2.1 || decide (some (key x.2.1) ≠ first)
    | none => true).map Prod.fst

-- Training frames and patterns (12 R307, R317)

/-- The next bit of an m-sequence with register `r` of `n` bits and taps, and the register after it. -/
def prbsStep (n : Nat) (taps : List Nat) (r : Nat) : Bool × Nat :=
  let b := taps.foldl (fun acc t => acc != bit r (t - 1)) false
  (b, 2 * r % 2 ^ n + b2n b)

/-- Length and taps of the patterns 0 PRBS7, 1 PRBS13, 2 PRBS31 (12, "PRBS generators and checkers"). -/
def prbsShape : Nat → Nat × List Nat
  | 0 => (7, [7, 6])
  | 1 => (13, [13, 12, 2, 1])
  | _ => (31, [31, 28])

/-- `k` bits of a pattern from register `r` on. -/
def prbsBits (pattern : Nat) : Nat → Nat → List Bool
  | 0, _ => []
  | k + 1, r => let x := prbsStep (prbsShape pattern).1 (prbsShape pattern).2 r; x.1 :: prbsBits pattern k x.2

/-- The marker of a training frame. -/
def marker : List Nat := List.replicate 32 3 ++ List.replicate 32 0

/-- The 2,720 levels of a training frame; the register its PRBS13 starts from is not stated (log 28). -/
def trainingLevels (ctl reg : Nat) : List Nat :=
  marker ++ levels ((List.range 128).map fun i => bit ctl i) ++ levels (prbsBits 1 5184 reg)

/-- The idle-exit burst: 64 alternating symbols, then the marker (12 R314). -/
def exitBurst : List Nat := ((List.range 32).flatMap fun _ => [0, 3]) ++ marker

/-- A training frame's control field with its CRC-16 (12 R307). -/
def controlField (fs : List (Nat × Nat × Nat)) : Nat :=
  let v := fields fs % 2 ^ 112
  v + 2 ^ 112 * crc16 v 112

end Sys2Proof.Machine
end

