-- ==== Sys2Proof/Machine/Line.lean ====
section
/-! DEFINITION. What the module puts on its lines (12 R299 to R308, R311, R314, R317, R318; 13 R330, R339; 14 R347): rounds with their packets, fill words
and IDLE rounds, training frames, hitch messages, test patterns, and the symbols that they make. The choices are in log 28. -/

namespace Sys2Proof.Machine

-- A transmitter

/-- What sets the pace of a line: its lanes, the time of a round in parts of which `perNs` make a nanosecond, and the injections at work. -/
structure LinePar where
  lanes : Nat
  round : Nat
  perNs : Nat
  inj   : List (Nat × Inject)

/-- Time that an item takes. -/
def itemTime (c : LinePar) (it : LineItem) : Nat := if it.kind = 5 then 8 else c.round * it.reps

/-- Put an item on a line: coded rounds are numbered and advance the scramblers (12 R299, R302). -/
def txPut (c : LinePar) (it : LineItem) (t : TxLine) : TxLine :=
  let n := if it.kind ≤ 3 then it.reps else 0
  { t with
    sent := t.sent ++ [{ it with count := t.count, first := t.first, at_ := t.at_, seeds := t.seeds, inj := c.inj }],
    count := (t.count + n) % 4096, first := t.first + n, at_ := t.at_ + itemTime c it,
    data := if it.kind = 0 then t.data + it.reps else if it.kind ≤ 3 then 0 else t.data }

/-- Close a DATA round that has begun: a fill word ends its packets (12 R300). -/
def txClose (c : LinePar) (t : TxLine) : TxLine :=
  if t.buf.isEmpty then t else txPut c { kind := 0, bytes := t.buf ++ List.replicate 8 255 } { t with buf := [] }

/-- Send the DATA rounds that the waiting bytes fill. -/
def txFull (c : LinePar) : Nat → TxLine → TxLine
  | 0, t => t
  | n + 1, t =>
    if t.buf.length < 640 * c.lanes then t
    else txFull c n (txPut c { kind := 0, bytes := t.buf.take (640 * c.lanes) } { t with buf := t.buf.drop (640 * c.lanes) })

/-- At a packet boundary, an IDLE round where ten DATA rounds follow the last one: a packet takes at most two more, so no 13 rounds are without one, and
no µs holds more than 25 GB/s per lane (12 R301). -/
def txPace (c : LinePar) (t : TxLine) : TxLine := if 10 ≤ t.data then txPut c { kind := 1 } (txClose c t) else t

/-- Send a packet or frame (12 R300). -/
def txSend (c : LinePar) (bs : List Byte) (t0 : TxLine) : TxLine :=
  let t := txPace c t0
  txFull c bs.length { t with buf := t.buf ++ bs }

/-- Repeat an item until time `now`, where the line is free before it. -/
def txFill (c : LinePar) (it : LineItem) (now : Nat) (t : TxLine) : TxLine :=
  let t := txClose c t
  let n := ceilDiv (c.perNs * now - t.at_) c.round
  if n = 0 then t else txPut c { it with reps := n } t

/-- A line that sends nothing until `now`. -/
def txRest (c : LinePar) (now : Nat) (t : TxLine) : TxLine := { t with buf := [], at_ := max t.at_ (c.perNs * now) }

/-- When a line is free, in ns. -/
def txFree (c : LinePar) (t : TxLine) : Nat := ceilDiv t.at_ c.perNs

-- Ports

/-- The line of a port: a round is 2,720 symbols at 112 GBd, 170/7 ns. -/
def portLine (s : State) (p : Nat) : LinePar where
  lanes := lanesPer (portW s p)
  round := 170
  perNs := 7
  inj := (enum (lanesOf s p)).filterMap fun e => (laneOf s e.2).inject.map fun j => (e.1, j)

def updTx (s : State) (p : Nat) (f : LinePar → TxLine → TxLine) : State :=
  updPort s p fun q => { q with tx := f (portLine s p) q.tx }

/-- The module's own training frame on lane index `m` (12 R307): stage 1 Detect, 2 Sound, 3 Align. -/
def ownControl (x : Lane) (t : TxLine) (stage m : Nat) : Nat :=
  let tap := fun (lo : Nat) (v : List Nat) => (enum v).map fun e => ((lo + 2 * e.1, 2, if stage = 2 then e.2 else 0) : Nat × Nat × Nat)
  controlField ([(0, 8, stage), (8, 1, b2n (decide (stage = 2) && x.ready)), (37, 58, if stage = 3 then (t.seeds[m]?).getD 0 else 0),
    (95, 12, if stage = 3 then t.count else 0), (107, 4, m)] ++ tap 13 x.ask ++ tap 25 x.tapStat)

/-- Training frames of a stage on every lane of a port. -/
def ownFrames (s : State) (p stage : Nat) : LineItem where
  kind := 4
  ctls := (enum (lanesOf s p)).map fun e => ownControl (laneOf s e.2) (portOf s p).tx stage e.1

/-- The module's link revision (13 R335). -/
def ownMajor (s : State) : Nat := ((activeSet s).map FwSet.linkMajor).getD 0
def ownMinor (s : State) : Nat := ((activeSet s).map FwSet.linkMinor).getD 0

/-- A hitch message: 56 bytes and their CRC-64 (13 R330). -/
def hitchMessage (b : List Byte) : List Byte := let m := slice b 0 56; m ++ leBytes 8 (crc64 m)

/-- The module's own identity message (13 R330, R336). -/
def ownIdentity (s : State) (p : Nat) : List Byte :=
  let q := portOf s p
  let ask := decide (q.cert = 1)
  hitchMessage (leBytes 1 1 ++ leBytes 1 (fields [(0, 1, b2n q.gotId), (1, 1, b2n ask)]) ++ leBytes 1 (ownMajor s) ++ leBytes 1 (ownMinor s) ++
    leBytes 2 (ownEpa s) ++ leBytes 2 p ++ leBytes 8 s.fixed.serial ++ leBytes 1 s.mod.rackPos ++ leBytes 1 (portW s p) ++
    leBytes 2 (if ask then q.certDwell else 0))

/-- The module's own timing message, with `t` its axle at the round's first symbol (13 R330, R339). -/
def ownTiming (q : Port) (t : Nat) : List Byte :=
  let e := q.lastT.getD (0, 0)
  hitchMessage (leBytes 1 2 ++ leBytes 7 0 ++ leBytes 8 t ++ leBytes 8 e.1 ++ leBytes 8 e.2)

/-- The axle value at a time from now on. -/
def axleAt (s : State) (t : Nat) : Nat := (s.axle.value + (t - s.now)) % 2 ^ 64

/-- What a port sends over and over in its stage (12 R308, 13 R333); none where its transmitter is idle or its lanes are not trained. A port that has left
Up goes on with IDLE rounds until its flush ends (DESIGN CHOICE, log 28). -/
def stageItem (s : State) (p : Nat) : Option LineItem :=
  let q := portOf s p
  if q.txIdle then none
  else match q.stage with
    | .detect => some (ownFrames s p 1)
    | .sound => some (ownFrames s p 2)
    | .identify => some { kind := 2, bytes := ownIdentity s p }
    | .align | .verify | .up | .quarantine => some { kind := 1 }
    | .disabled => if q.flushing then some { kind := 1 } else none
    | .listen | .backoff => none

/-- Bring a port's line up to now. -/
def lineFill (s : State) (p : Nat) : State :=
  match stageItem s p with
  | some it => updTx s p fun c t => txFill c it s.now t
  | none => updTx s p fun c t => txRest c s.now t

/-- Begin Align: free non-zero seeds, a free first round number, and 16 frames that carry them (12 R302, R308). -/
def alignStart (s : State) (p : Nat) : State :=
  let k := s.freeCtr
  let s := { s with freeCtr := k + 9 }
  let s := updTx s p fun c t => { t with
    count := Config.freeWord k % 4096, first := 0, data := 0, buf := [],
    seeds := (List.range c.lanes).map fun m => Config.freeWord (k + 1 + m) % (2 ^ 58 - 1) + 1 }
  let it := ownFrames s p 3
  updTx s p fun c t => txPut c { it with reps := 16 } t

/-- Send one of the eight timing messages of Verify (13 R339): one at its start, one for each message received (DESIGN CHOICE, log 28). -/
def sendTiming (s : State) (p : Nat) : State :=
  if (portOf s p).sentT < 8 then
    let s := lineFill s p
    updPort s p fun q => { q with
      sentT := q.sentT + 1,
      tx := txPut (portLine s p) { kind := 2, bytes := ownTiming q (axleAt s (txFree (portLine s p) q.tx)) } q.tx }
  else s

/-- Enter transmit idle (12 R314): the packet is complete, one ENTER_IDLE round ends the line. -/
def idleLine (s : State) (p : Nat) : State :=
  if (portOf s p).txIdle then s
  else updPort (updTx (lineFill s p) p fun c t => txPut c { kind := 3 } t) p fun q => { q with txIdle := true }

/-- Leave transmit idle (12 R314): the burst, then 16 IDLE rounds. -/
def wakeLine (s : State) (p : Nat) : State :=
  if (portOf s p).txIdle then
    let s := updTx (lineFill s p) p fun c t => txPut c { kind := 1, reps := 16 } (txPut c { kind := 5 } t)
    updPort s p fun q => { q with txIdle := false }
  else s

/-- The beacon of Listen (12 R311): 1 ms of stage 1 frames. -/
def beaconLine (s : State) (p : Nat) : State :=
  let it := ownFrames s p 1
  updPort (updTx (lineFill s p) p fun c t => txPut c { it with reps := 41176 } t) p fun q => { q with beaconEnd := s.now + 1000000 }

/-- A lane's generator stops: what it has sent is recorded (12 R317, R318). -/
def genStop (s : State) (l : Nat) : State :=
  match (laneOf s l).gen with
  | some g =>
    let p := portOfLane s l
    let it : LineItem := { kind := 6, reps := 112 * (s.now - (laneOf s l).genAt), at_ := 7 * (laneOf s l).genAt, ctls := [l, g],
                           inj := ((laneOf s l).injPast ++ (laneOf s l).inject.toList).map fun j => (l, j) }
    updLane (updPort s p fun q => { q with tx := { q.tx with sent := q.tx.sent ++ [it] } }) l fun x => { x with gen := none, inject := none, injPast := [] }
  | none => s

/-- A locked checker counts until now: how much is free (12 R317; log 15). -/
def prbsCount (s : State) (l : Nat) : State :=
  if (laneOf s l).lock then
    let k := s.freeCtr
    updLane { s with freeCtr := k + 3 } l fun x => { x with
      bits := satAdd 64 x.bits (Config.freeWord k), bitErr := satAdd 64 x.bitErr (Config.freeWord (k + 1)),
      symErr := satAdd 64 x.symErr (Config.freeWord (k + 2)) }
  else s

/-- Stop a lane's generator and checker; its counters stay (12 R317). -/
def prbsOff (s : State) (l : Nat) : State :=
  updLane (prbsCount (genStop s l) l) l fun x => { x with chk := none, lock := false }

-- Symbols (12 R298 to R304, R317, R318)

/-- The times at which an injection strikes, in ns. -/
def strikes (j : Inject) : List Nat := (List.range j.count).map fun k => j.at_ + 1000 * j.us * k

/-- Invert the symbols of a codeword that an injection strikes between `a` and `b` of the line (12 R318): `n` of them from a free place on. -/
def injectWord (r a b lane : Nat) (j : Inject) (c : List Nat) : List Nat :=
  match (strikes j).find? fun t => decide (j.kind = 2 ∧ a ≤ r * t ∧ r * t < b) with
  | some t => (List.range j.n).foldl (fun c i =>
      let p := (Config.injectPlace lane t + i) % 544
      c.set p (c.getD p 0 ^^^ 1023)) c
  | none => c

/-- The stream of a round of an item: what its bytes leave open is 0 in a CTRL round (13, "Identity exchange") and free in another. -/
def itemStream (lanes : Nat) (it : LineItem) (k : Nat) : List Byte :=
  it.bytes ++ (List.range (640 * lanes - it.bytes.length)).map fun i =>
    if it.kind = 2 then 0 else Config.fillByte (it.first + k) (it.bytes.length + i)

/-- The levels of round `k` of a coded item on lane index `m`, before stuffing. -/
def roundLevels (c : LinePar) (it : LineItem) (m k : Nat) : List Nat :=
  let w := roundWord it.kind ((it.count + k) % 4096) m (itemStream c.lanes it k)
  let a := it.at_ + c.round * k
  let w := (it.inj.filter fun e => decide (e.1 = m)).foldl (fun w e => injectWord c.perNs a (a + c.round) m e.2 w) w
  laneLevels ((it.seeds[m]?).getD 0) (it.first + k) w

/-- The bits of a test pattern, with what injections invert: one bit, `n` bits, or 10 `n` bits for `n` symbols (log 28). -/
def patternBits (it : LineItem) : List Bool :=
  let l := (it.ctls[0]?).getD 0
  let g := (it.ctls[1]?).getD 0
  let n := 2 * it.reps
  let b := if g = 3 then (List.range n).map Config.ssprq else prbsBits g n (Config.patternStart l it.at_)
  it.inj.foldl (fun b e =>
    let len := if e.2.kind = 0 then 1 else if e.2.kind = 1 then e.2.n else 10 * e.2.n
    (strikes e.2).foldl (fun b t => (List.range len).foldl (fun b i =>
      let k := 224 * (t - it.at_ / 7) + Config.injectPlace l t % 224 + i
      b.set k (!((b[k]?).getD false))) b) b) b

/-- The symbols that a lane sends: coded rounds are stuffed, and their runs count across them (12 R304). -/
def sentLevels (c : LinePar) (stuffed : Bool) (m : Nat) : Nat × Nat → List LineItem → List Nat
  | _, [] => []
  | run, it :: rest =>
    match it.kind with
    | 4 => (List.range it.reps).flatMap (fun k => trainingLevels ((it.ctls[m]?).getD 0) (Config.patternStart m (it.at_ + c.round * k))) ++
        sentLevels c stuffed m (0, 0) rest
    | 5 => exitBurst ++ sentLevels c stuffed m (0, 0) rest
    | 6 => levels (patternBits it) ++ sentLevels c stuffed m (0, 0) rest
    | _ =>
      let l := (List.range it.reps).flatMap (roundLevels c it m)
      let x := if stuffed then stuff run l else (l, run)
      x.1 ++ sentLevels c stuffed m x.2 rest

/-- The symbols that lane index `m` of a port has sent; a test pattern stands on its own lane alone. -/
def laneSymbols (s : State) (p m : Nat) : List Nat :=
  let l := ((lanesOf s p)[m]?).getD 0
  sentLevels (portLine s p) true m (0, 0) ((portOf s p).tx.sent.filter fun it => decide (it.kind ≠ 6 ∨ it.ctls.head? = some l))

-- The Lonus line (14 R347)

/-- The Lonus line: one lane, 2,720 symbols at 106.25 GBd, 128/5 ns. -/
def lonusLine : LinePar where
  lanes := 1
  round := 128
  perNs := 5
  inj := []

def updLTx (s : State) (f : TxLine → TxLine) : State :=
  updLonus s fun l => { l with tx := f { l.tx with seeds := [Config.lonusSeed % (2 ^ 58 - 1) + 1] } }

/-- Whether the module lights the Lonus lane: from Standby onward, with REFCLK (14 R347, 19 R469); the far end needs its codewords to come up (R348). -/
def lonusLit (s : State) : Bool := decide (s.mod.st ≠ .off) && !s.mod.refBad

/-- Bring the Lonus line up to now: IDLE codewords between frames, whether the module has declared the line up or not; a dark lane sends nothing. -/
def lonusFill (s : State) : State :=
  if lonusLit s then updLTx s fun t => txFill lonusLine { kind := 1 } s.now t else updLTx s fun t => txRest lonusLine s.now t

/-- The symbols that the Lonus line has sent. -/
def lonusSymbols (s : State) : List Nat := sentLevels lonusLine false 0 (0, 0) s.lonus.tx.sent

end Sys2Proof.Machine
end

