-- ==== Sys2Proof/Machine/Faults.lean ====
section
/-! DEFINITION. Faults and departures: job blocks leaving Active, windows that waited for them, ports going down, entry to Hold
(01 R17 to R26, 02 R36, 04 R106, 18 R449, R450). -/

namespace Sys2Proof.Machine

-- Windows that wait (02 R36)

/-- Put into effect every pending window that waits for no block. -/
def winSettle (s : State) : State :=
  { s with winEff := s.winPend.foldl (fun e w => if w.waitFor.isEmpty then Tab.set {} e w.w w.win else e) s.winEff,
           winPend := s.winPend.filter fun w => !w.waitFor.isEmpty }

/-- Block `b`'s wait ends for every pending window (02 R36). -/
def winRelease (s : State) (b : Nat) : State :=
  winSettle { s with winPend := s.winPend.map fun w => { w with waitFor := w.waitFor.filter fun x => decide (x ≠ b) } }

-- Module state follows the blocks (01, table "Module transitions")

/-- Run ends when no block is Active; Drain ends when none is Active and nothing is in flight. -/
def settle (s : State) : State :=
  if s.mod.st = .run ∧ ¬ anyActive s then updMod s fun m => { m with st := .ready }
  else if s.mod.st = .drain ∧ ¬ anyActive s ∧ inFlight s false = 0 ∧ inFlight s true = 0 then updMod s fun m => { m with st := .ready }
  else s

-- Replay (11 R293)

/-- End the running replay: the output ring is complete. -/
def endReplay (s : State) (ev : Option Nat) (items : List Nat) : State :=
  if s.replay.running then
    let b := (ringOf s s.replay.inRing).block
    let s := if (ringOf s s.replay.outRing).st = 1 then ringEnd s s.replay.outRing else s
    let s := updRing s s.replay.inRing fun r => { r with st := 2 }
    let s := { s with replay := { s.replay with running := false } }
    match ev with | some e => emitB s b e items | none => s
  else s

/-- A replay ends when its block leaves Active (11 R293). -/
def replayLeave (s : State) (b : Nat) : State :=
  if s.replay.running ∧ (ringOf s s.replay.inRing).block = b then endReplay s (some evReplayEnd) [] else s

-- What a block holds (06 R162, 08 R192, 09 R217)

/-- Stop a block's threads, discard its launches and descriptors (08 R192). -/
def clearGalley (s : State) (b : Nat) : State :=
  let own := fun i => decide ((imgOf s i).owner = b)
  { s with
    thr := s.thr.filter fun e => !(e.2.live && own e.2.image),
    img := Tab.mapV {} s.img fun i => if i.owner = b then { i with queue := [] } else i,
    eng := Tab.mapV {} s.eng fun e =>
      { e with queue := e.queue.filter fun d => decide (d.block ≠ b),
               exec := match e.exec with | some x => if x.1.block = b then none else some x | none => none },
    hub := Tab.mapV {} s.hub fun h => { h with waitPool := h.waitPool.filter fun d => decide (d.block ≠ b) } }

/-- Discard the collective state of harnesses that satisfy `p` (06 R162). -/
def clearColl (s : State) (p : Nat → Bool) : State :=
  let c := s.coll
  { s with coll := { c with
      slots := c.slots.filter fun x => !p x.key.h, spills := c.spills.filter fun x => !p x.key.h,
      early := c.early.filter fun x => !p x.key.h, flight := c.flight.filter fun x => !p x.2.1.h,
      holds := c.holds.filter fun x => !p x.h } }

/-- Drop the larder requests in progress for a block, with their parts. -/
def clearLarder (s : State) (b : Nat) : State :=
  let ids := (s.lard.reqs.filter fun r => decide (r.block = b)).map LReq.id
  { s with lard := { s.lard with
      reqs := s.lard.reqs.filter fun r => decide (r.block ≠ b),
      dies := Tab.mapV {} s.lard.dies fun d => { d with queue := d.queue.filter fun p => !ids.contains p.req } } }

/-- Block `b` goes to Faulted (01 R22 to R24, 18 R449); the flight `keep` and its copies stay (05 R134). -/
def faultBlockK (s : State) (b : Nat) (keep : Option Nat) : State :=
  match (blockOf s b).st with
  | .unloaded | .faulted => s
  | _ =>
    let s := updPwr (updBlock s b fun x => { x with st := .faulted, close := none, pause := false }) fun p => { p with burn := false, noBurn := true }
    let s := clearLarder (clearColl (clearGalley (dropBlock s b keep) b) fun h => decide (harnOwner s h = b)) b
    settle (replayLeave (winRelease s b) b)

/-- Block `b` goes to Faulted with an event of the block. -/
def faultBlock (s : State) (b code : Nat) (items : List Nat) : State :=
  match (blockOf s b).st with
  | .unloaded | .faulted => s
  | _ => emitB (faultBlockK s b none) b code items

/-- Add placed bytes and packets to a count slot; an update past a maximum faults the owning block (03 R68, R70). DESIGN CHOICE: CSLOT_OVERFLOW carries
the slot's number; R70 names no item (log 17). -/
def countPlaced (s : State) (b k n pk : Nat) : State :=
  let c := slotOf s k
  let s' := { s with cslots := Tab.set {} s.cslots k (cslotAdd c n pk) }
  if c.bytes + n > cslotMaxBytes ∨ c.packets + pk > cslotMaxPkts then faultBlock s' b evCslotOverflow [k] else s'

-- Ports (04 R106, 12 R312)

/-- A lane as training starts: no lock, preset 4, no injection (12 R306, R308, R318). Its counters stay. -/
def laneStart (x : Lane) : Lane :=
  { x with cdr := false, cw := false, idle := false, taps := [0, -4, 52, -8, 0, 0], tapStat := [0, 0, 0, 0, 0, 0], seed := 0, count := 0,
           ask := [0, 0, 0, 0, 0, 0], ready := false, inject := none, injPast := [] }

/-- Start a port's hitch at Detect (12 R308): PRBS, which needs a disabled port, stops (12 R317), and a PRBS31 run that the partner has granted is asked
for again (13 R336). -/
def startHitch (s : State) (p : Nat) : State :=
  let s := lineFill s p
  let s := (lanesOf s p).foldl (fun s l => updLane (prbsOff s l) l laneStart) s
  updPort s p fun q => { q with
    stage := .detect, since := s.now, frames := [], gotId := false, acked := false, check := 0, minor := 0, samples := [],
    lastT := none, misSent := false, paired := false, discarded := 0, txIdle := false, rxIdle := false, dropStream := false,
    sawIdle := false, syncAt := none, disabled := false, sentT := 0, cert := if q.cert = 2 then 1 else if q.cert = 3 then 0 else q.cert }

/-- The flights that stand at port `p`'s ingress (04 R106). -/
def ingressOf (s : State) (p : Nat) : List Nat :=
  ((hubOf s (dieOf s p)).xq.filter fun e => !e.trunk && decide (e.fl.arrPort = some p)).map fun e => e.fl.id

/-- Whether a discard at port `p`'s ingress cuts flight `id` off destination `x`: cells for it are still to cross there. A packet with one destination is
cut wherever it stands. -/
def cutOff (s : State) (p id : Nat) (x : XDest) : Bool :=
  (hubOf s (dieOf s p)).xq.any fun e => !e.trunk && decide (e.fl.arrPort = some p ∧ e.fl.id = id) &&
    (!e.fl.pkt.hdr.mcast || e.left.any fun y => decide (y.1 = x ∧ 0 < y.2))

/-- Discard port `p`'s ingress packets without NACK (04 R106): those at its inputs, with the copies of them whose cells had not all crossed there, and
those on its local path. Copies that have crossed whole stay. -/
def dropIngress (s : State) (p : Nat) : State :=
  let d := dieOf s p
  let dest := fun q => if dieOf s q = d then XDest.port q else .bridge (dieOf s q)
  let part := fun q (x : EEntry) => decide (x.inn < x.cells) && cutOff s p x.fl.id (dest q)
  let hubs := fun (t : State) m => updHub t m fun h => { h with
    xq := h.xq.filter fun x => if x.trunk then !(decide (x.inn < x.cells) && cutOff s p x.fl.id (.bridge m)) else decide (x.fl.arrPort ≠ some p),
    bridges := (List.range 4).foldl (fun t k =>
      Tab.upd [] t k fun q => q.filter fun x => !(decide (x.inn < x.cells) && cutOff s p x.fl.id (.bridge k))) h.bridges }
  let ports := fun (t : State) q => updPort t q fun y => { y with egq := y.egq.filter fun x => !part q x, ctlq := y.ctlq.filter fun x => !part q x }
  let t := (allPorts s).foldl ports ((List.range 4).foldl hubs s)
  { t with localQ := t.localQ.filter fun w => decide (w.port ≠ p) }

/-- The deflected flights that wait in a transit reserve for port `p` (04 R106). -/
def transitOf (s : State) (p : Nat) : List Flight :=
  (List.range 4).flatMap fun d =>
    ((hubOf s d).xq.filter fun e => e.reserve.isSome && decide (e.dests = [p])).map XEntry.fl

/-- Flush port `p`: ingress without NACK, egress, transit and overflow with FLUSHED NACKs to partners (04 R106). -/
def flushPort (s : State) (p : Nat) : State :=
  let n := (ingressOf s p).length + (s.localQ.filter fun w => decide (w.port = p)).length
  let s := dropIngress s p
  let q := portOf s p
  let tr := transitOf s p
  let out := (q.ctlq ++ q.egq).map EEntry.fl ++ q.egWait
  let s := dropFlights s fun fl => (tr.map Flight.id).contains fl.id
  let s := updPort s p fun q => { q with
    egq := [], ctlq := [], egWait := [], ovfList := [], ovf := false, flushIn := n, flushOut := out.length + tr.length,
    flushOvf := q.ovfList.length,
    cnt := { q.cnt with flushed := q.cnt.flushed + n + out.length + tr.length + q.ovfList.length } }
  (out ++ tr ++ q.ovfList).foldl flushNack (ovfEase s)

/-- A port leaves Up (12 R312): LINK_DOWN, then the flush of 04 R106. A port in another stage is unchanged. -/
def portDown (s : State) (p cause : Nat) : State :=
  if (portOf s p).stage = .up then
    let s := updPort (lineFill s p) p fun q => { q with
      stage := .disabled, failCause := cause, flushing := true, since := s.now, syncAt := none,
      txIdle := false, rxIdle := false, dropStream := false }
    flushPort (emit s evLinkDown [p, cause]) p
  else s

/-- Restart a port's hitch by command: an Up port first goes down and is flushed (12 R312, 13 R329); while its flush lasts it is no longer disabled, so
its PRBS stops and its transmitter is not idle (12 R313, R317). -/
def restartPort (s : State) (p : Nat) : State :=
  if (portOf s p).stage = .up then updPort (portDown s p 7) p fun q => { q with disabled := false }
  else if (portOf s p).flushing then
    updPort ((lanesOf s p).foldl prbsOff (lineFill s p)) p fun q => { q with disabled := false, txIdle := false }
  else startHitch s p

-- Entry to Hold (18 R450)

/-- The state of the transition in progress: its command completes with FAULTED (01 R19). -/
def abortTransition (s : State) (st : Status) : State :=
  match s.mod.trans with
  | some t => finishCmd (updMod s fun m => { m with trans := none }) t.tag 0x0201 (rep st)
  | none => s

/-- Stop the data plane: queues flushed without NACK, threads, engines, slots, larder and galley memories lost (18 R444, R450). -/
def stopDataPlane (s : State) : State :=
  let s := dropFlights s fun _ => true
  { s with
    hub := Tab.mapV {} s.hub fun h => { h with held := [], waitPool := [], mcast := [], missing := [], echoes := [], credit := [], failing := [] },
    ports := Tab.mapV {} s.ports fun q => { q with ovf := false, flushing := false, egWait := [] },
    e2e := { s.e2e with out := [] },
    thr := [], eng := Tab.mapV {} s.eng (fun e => { e with queue := [], exec := none }),
    img := Tab.mapV {} s.img (fun i => { i with queue := [] }),
    coll := {}, localQ := [], scratch := [], cmem := [], code := [], issue := [] }

/-- The larder loses its contents, exact cells and rings (18 R450). -/
def loseLarder (s : State) : State :=
  { s with lard := { s.lard with mem := [], reqs := [], cells := [], badUnits := [], rings := [], state := 0, recHeld := [],
                                 dies := Tab.mapV {} s.lard.dies fun d => { d with queue := [] } },
           rings := [], replay := { s.replay with running := false } }

/-- Every loaded block goes to Faulted with BLOCK_HOLD_FAULT, one that was Faulted already included (01 R20). -/
def holdBlocks (s : State) (cause : Nat) : State :=
  (loadedBlocks s).foldl (fun s b =>
    emitB (winRelease (updBlock s b fun x => { x with st := .faulted, close := none, pause := false }) b) b evBlockHold [cause]) s

/-- A module fault (18 R449 to R451): from Setup, Ready, Run, Drain or Rest the module enters Hold with the cause; in Hold nothing changes. -/
def enterHold (s : State) (cause : Nat) (unit : Option RepairUnit) : State :=
  match s.mod.st with
  | .off | .standby | .hold => s
  | _ =>
    let all := allPorts s
    let s := abortTransition s .faulted
    let up := all.filter fun p => decide ((portOf s p).stage = .up)
    let s := updMod s fun m => { m with cause := cause, unitValid := unit.isSome, unitKind := (unit.map RepairUnit.kind).getD 0,
                                        unit := (unit.map RepairUnit.unit).getD 0 }
    let s := up.foldl (fun s p => emit s evLinkDown [p, 8]) (all.foldl lineFill s)
    let s := { s with ports := Tab.mapV {} s.ports fun q => { q with
      failCause := if q.stage = .up then 8 else q.failCause, stage := .disabled, txIdle := true, rxIdle := false } }
    let s := all.foldl (fun s p => updPort s p fun q => { q with txIdle := true }) s
    let s := if s.replay.running then endReplay s (some evReplayEnd) [] else s
    let s := loseLarder (stopDataPlane s)
    let s := { s with held := [], telem := { s.telem with smpOn := false } }
    let s := updMod s fun m => { m with st := .hold, dpOff := decide (cause = 7 ∨ cause = 9), frozen := true }
    emit (holdBlocks s cause) evHoldEnter [cause, s.mod.unitKind, s.mod.unit]

end Sys2Proof.Machine
end

