-- ==== Sys2Proof/Machine/LarderMem.lean ====
section
/-! DEFINITION. The larder's memory (10): address decode, stores, exact cells, errors, floating-point adds, atomics. -/

namespace Sys2Proof.Machine

-- Exact cells and stores (10 R258 to R260, R262)

/-- Bytes of an element with an exact cell. -/
def cellBytes (c : Option Cell) : Nat := match c with | some x => elemBits x.fmt / 8 | none => 1

/-- Discard the exact cells of the elements that a span touches (10 R259). -/
def cellsDrop (s : State) (a n : Nat) : State :=
  { s with lard := { s.lard with cells := s.lard.cells.filter fun c => decide (c.1 + cellBytes c.2 ≤ a ∨ a + n ≤ c.1) } }

/-- Store bytes in the larder: cells discarded, whole units healed (10 R259, R262). -/
def lardStore (s : State) (a : Nat) (bs : List Byte) : State :=
  lardWrite (unitsHeal (cellsDrop s a bs.length) a bs.length) a bs

/-- The first unit of a span that holds an uncorrectable error (10 R262). -/
def badIn (s : State) (a n : Nat) : Option Nat :=
  minBy (fun u => (u : Int)) (s.lard.badUnits.filter fun u => decide (a < u + 32 ∧ u < a + n))

/-- Count an uncorrectable error on its die; the items of LARDER_UE are address, die, stack, pseudo-channel, region (10 R262, R269). -/
def ueItems (s : State) (a : Nat) : List Nat := [a, lardDie s a, lardStack s a, lardPc s a, regionOf s a]

/-- A recording or capture whose ring holds the failed unit ends with status FAULTED (10 R262, 11 R289, 17 R434). -/
def ringUe (u : Nat) (s : State) (k : Nat) : State :=
  let r := ringOf s k
  if r.st = 1 ∧ r.base ≤ u ∧ u < r.base + r.mib * mib then updRing (ringEnd s k) k fun r => { r with faulted := true } else s

/-- Count an uncorrectable error in LARD_ECC_UE and LARD_ECC_LAST of its die (10 R262, R269). -/
def ueMeter (s : State) (a : Nat) : State :=
  updLd s (lardDie s (a / 32 * 32)) fun d =>
    { d with ue := satInc 16 d.ue, lastAddr := a / 32 * 32, lastStk := lardStack s (a / 32 * 32), lastPc := lardPc s (a / 32 * 32) }

/-- An uncorrectable error of a unit: counted, and the unit fails until it is replaced whole (10 R262). -/
def ueCount (s : State) (a : Nat) : State :=
  let u := a / 32 * 32
  let s := { s with lard := { s.lard with badUnits := if s.lard.badUnits.contains u then s.lard.badUnits else s.lard.badUnits ++ [u] } }
  (List.range 16).foldl (ringUe u) (ueMeter s u)

/-- An uncorrectable error met for block `b`: LARDER_UE, and the block goes to Faulted (10 R262); `b` 0xFFFF faults none. -/
def ueFail (s : State) (a b : Nat) : State :=
  let u := a / 32 * 32
  let s := ueCount s u
  if b < 128 ∧ (blockOf s b).st ≠ .unloaded ∧ (blockOf s b).st ≠ .faulted then faultBlock s b evLarderUe (ueItems s u)
  else emitB s b evLarderUe (ueItems s u)

/-- Count a corrected error; more than 1,000 within one hour on a pseudo-channel send LARDER_CE_RATE, and the count starts anew (10 R261; log 13). -/
def ceCount (s : State) (a : Nat) : State :=
  let s := updLd s (lardDie s a) fun d => { d with ce := satInc 32 d.ce }
  let k := 32 * lardStack s a + lardPc s a
  let ts := ((Tab.get [] s.lard.ceHour k).filter fun t => decide (s.now < t + 3600000000000)) ++ [s.now]
  let many := decide (1000 < ts.length)
  let s := { s with lard := { s.lard with ceHour := Tab.set [] s.lard.ceHour k (if many then [] else ts) } }
  if many then emit s evLarderCe [lardDie s a, lardStack s a, lardPc s a] else s

/-- What ECC finds in a read of the overflow or the spill region, counted on the die of the region's start: a place in them is not given (10 R261,
R262; log 13). -/
def regionEcc (s : State) (base : Nat) : Ecc → State
  | .corrected => ceCount s base
  | .uncorrectable => ueMeter s base
  | .ok | .template => s

/-- Read a span for block `b` under an ECC outcome: its bytes, or none after the failure is handled (10 R261, R262). -/
def eccRead (s : State) (a n b : Nat) (ecc : Ecc) : Option (List Byte) × State :=
  match ecc, badIn s a n with
  | .uncorrectable, _ => (none, ueFail s a b)
  | _, some u => (none, ueFail s u b)
  | .corrected, none => (some (lardRead s a n), ceCount s a)
  | _, none => (some (lardRead s a n), s)

-- Floating-point adds (10 R252, R257, R258)

/-- Count one larder choice on a die (10 R257). -/
def lardChoice (s : State) (d : Nat) : State := updLd s d fun x => { x with choice := (x.choice + 1) % 2 ^ 64 }

/-- The sum of an element and a value in a format: INT32 wraps, floating-point rounds once (10 R252). -/
def addElem (fmt old v : Nat) : Nat :=
  if isIntFmt fmt then (old + v) % 2 ^ elemBits fmt
  else roundOut (accAdd (convert fmt old 127) (convert fmt v 127)) fmt none

/-- Add a value to the element at `a`, through its exact cell under STEADY for floating-point formats (10 R252, R258). -/
def addAt (s : State) (fmt a v : Nat) : State :=
  let n := elemBits fmt / 8
  let old := ofLe (lardRead s a n)
  if isIntFmt fmt then lardStore s a (leBytes n (addElem fmt old v))
  else if steady s then
    let start := match Tab.get none s.lard.cells a with
      | some c => if c.fmt = fmt then c.acc else convert fmt old 127
      | none => convert fmt old 127
    let acc := accAdd start (convert fmt v 127)
    let s := unitsHeal (cellsDrop s a n) a n
    let s := { s with lard := { s.lard with cells := Tab.set none s.lard.cells a (some { fmt := fmt, acc := acc }) } }
    lardWrite s a (leBytes n (roundOut acc fmt none))
  else lardWrite (unitsHeal s a n) a (leBytes n (addElem fmt old v))

/-- Exact cells on a larder die (10 R260, R269). -/
def cellsOn (s : State) (d : Nat) : Nat := (s.lard.cells.filter fun c => lardDie s c.1 = d).length

/-- Whether adds to `as` must wait for cells: the die holds 2^24, or the spill region is full (10 R260). -/
def cellsWait (s : State) (d fmt : Nat) (as : List Nat) : Bool :=
  if steady s && !isIntFmt fmt then
    let fresh := (as.filter fun a => (Tab.get none s.lard.cells a).isNone).length
    decide (0 < fresh) &&
      (decide (2 ^ 24 < cellsOn s d + fresh) ||
       decide (spillGib s * 4194304 < spillOf s (fun _ => true) + ceilDiv (s.lard.cells.length + fresh) 4))
  else false

-- Atomics (10 R255)

/-- The new value of an integer atomic of `n` bits. -/
def atomicInt (code n old v cmp : Nat) : Nat :=
  let m := 2 ^ n
  match code with
  | 0x01 => (old + v) % m
  | 0x02 => old &&& v
  | 0x03 => old ||| v
  | 0x04 => old ^^^ v
  | 0x05 => if signed n v < signed n old then v else old
  | 0x06 => if signed n old < signed n v then v else old
  | 0x07 => min old v
  | 0x08 => max old v
  | 0x09 => v
  | 0x0A => if old = cmp then v else old
  | _ => old

/-- The format of a floating-point atomic code; none for the others (10 R255). -/
def fAddFmt (op : Nat) : Option Nat :=
  if op = 0x10 then some 0 else if op = 0x11 then some 1 else if op = 0x12 then some 2 else none

/-- Whether an atomic's code is listed (10 R255). -/
def atomicKnown (op : Nat) : Bool :=
  (fAddFmt op).isSome || (decide (1 ≤ op % 256 ∧ op % 256 ≤ 0xA) && decide (op / 512 = 0))

/-- The atomic code of a galley AMO (10 R256); LR and SC have none. -/
def amoCode : AmoOp → Nat
  | .add => 1 | .and => 2 | .or => 3 | .xor => 4 | .min => 5 | .max => 6 | .minu => 7 | .maxu => 8 | .swap => 9 | .lr | .sc => 0

end Sys2Proof.Machine
end

