-- ==== Sys2Proof/Machine/RvCode.lean ====
section
/-! DEFINITION. The instructions of a galley core and their encodings (08 R185, R187): RV64GC, Zicsr, Zifencei, Zfh, V with Zvfh, Zvfbfmin and
Zvfbfwma, and Xtzgal. The encodings of the ratified extensions, which the manual names and does not print, are those extensions' (PRESUMED, log 30). -/

namespace Sys2Proof.Machine

/-- Operations of the integer registers. -/
inductive AluOp where
  | add | sub | sll | slt | sltu | xor | srl | sra | or | and
  | mul | mulh | mulhsu | mulhu | div | divu | rem | remu
  deriving DecidableEq, Repr, Inhabited

/-- Operations of OP-FP; `fmt` codes 0 single, 1 double, 2 half. -/
inductive FpOp where
  | add | sub | mul | div | sqrt
  | sgnj (k : Nat) | minmax (isMax : Bool) | cmp (k : Nat)
  | cvtF (src : Nat) | toInt (k : Nat) | ofInt (k : Nat)
  | mvX | cls | mvF
  | fma (negProd negAdd : Bool)
  deriving DecidableEq, Repr, Inhabited

/-- The Xtzgal instructions (08, table "Xtzgal encodings"). -/
inductive TzOp where
  | submit | send | wait | take | brake | axle | step | yield
  deriving DecidableEq, Repr, Inhabited

/-- How a vector access walks memory: unit-stride in a fixed count of registers, of mask bits, of elements (fault-only-first or not), strided,
indexed. -/
inductive VWalk where
  | whole (n : Nat) | mask | unit (ff : Bool) | stride (rs2 : Nat) | index (vs2 : Nat)
  deriving DecidableEq, Repr, Inhabited

/-- An instruction. -/
inductive GInstr where
  | lui (rd : Nat) (imm : Int)
  | auipc (rd : Nat) (imm : Int)
  | jal (rd : Nat) (imm : Int)
  | jalr (rd rs1 : Nat) (imm : Int)
  | branch (f3 rs1 rs2 : Nat) (imm : Int)
  | opImm (op : AluOp) (rd rs1 : Nat) (imm : Int) (word : Bool)
  | op (op : AluOp) (rd rs1 rs2 : Nat) (word : Bool)
  | load (rd rs1 : Nat) (imm : Int) (bytes : Nat) (signed : Bool)
  | store (rs2 rs1 : Nat) (imm : Int) (bytes : Nat)
  | loadF (rd rs1 : Nat) (imm : Int) (bytes : Nat)
  | storeF (rs2 rs1 : Nat) (imm : Int) (bytes : Nat)
  | amo (op : AmoOp) (rd rs1 rs2 bytes : Nat)
  | fence (predW : Bool)
  | fenceI
  | ecall
  | ebreak
  | wfi
  | csr (f3 rd rs1 addr : Nat)
  | fp (op : FpOp) (fmt rd rs1 rs2 rs3 rm : Nat)
  | tz (op : TzOp) (rd rs1 rs2 : Nat)
  | vset (rd : Nat) (avl vtype : Nat ⊕ Nat)
  | vmem (isLoad : Bool) (vd rs1 nf eew : Nat) (vm : Bool) (walk : VWalk)
  | vop (f3 f6 vd vs1 vs2 : Nat) (vm : Bool)
  deriving DecidableEq, Repr, Inhabited

/-- A sign-extended number of `n` bits gathered from (source bit, width, target bit) fields. -/
def gather (w : Nat) (fs : List (Nat × Nat × Nat)) : Nat := (fs.map fun f => bits w f.1 f.2.1 * 2 ^ f.2.2).sum

/-- The immediates of the I, S, B, U and J forms. -/
def immI (w : Nat) : Int := signed 12 (bits w 20 12)
def immS (w : Nat) : Int := signed 12 (gather w [(7, 5, 0), (25, 7, 5)])
def immB (w : Nat) : Int := signed 13 (gather w [(8, 4, 1), (25, 6, 5), (7, 1, 11), (31, 1, 12)])
def immU (w : Nat) : Int := signed 32 (bits w 12 20 * 4096)
def immJ (w : Nat) : Int := signed 21 (gather w [(21, 10, 1), (20, 1, 11), (12, 8, 12), (31, 1, 20)])

/-- The operations of OP-IMM and OP-IMM-32 by funct3 and the high bits of the immediate. -/
def decOpImm (w : Nat) (word : Bool) : Option GInstr :=
  let rd := bits w 7 5
  let rs1 := bits w 15 5
  let hi := if word then bits w 25 7 * 64 else bits w 26 6 * 128
  let sh : Int := if word then (bits w 20 5 : Nat) else (bits w 20 6 : Nat)
  let simple := fun op => some (GInstr.opImm op rd rs1 (immI w) word)
  match bits w 12 3 with
  | 0 => simple .add
  | 1 => if hi = 0 then some (.opImm .sll rd rs1 sh word) else none
  | 5 => if hi = 0 then some (.opImm .srl rd rs1 sh word) else if hi = 2048 then some (.opImm .sra rd rs1 sh word) else none
  | 2 => if word then none else simple .slt
  | 3 => if word then none else simple .sltu
  | 4 => if word then none else simple .xor
  | 6 => if word then none else simple .or
  | _ => if word then none else simple .and

/-- The operations of OP and OP-32. -/
def decOp (w : Nat) (word : Bool) : Option GInstr :=
  let go := fun op => some (GInstr.op op (bits w 7 5) (bits w 15 5) (bits w 20 5) word)
  match bits w 25 7, bits w 12 3 with
  | 0, 0 => go .add
  | 0, 1 => go .sll
  | 0, 5 => go .srl
  | 32, 0 => go .sub
  | 32, 5 => go .sra
  | 1, 0 => go .mul
  | 1, 4 => go .div
  | 1, 5 => go .divu
  | 1, 6 => go .rem
  | 1, 7 => go .remu
  | f7, f3 =>
    if word then none
    else match f7, f3 with
      | 0, 2 => go .slt
      | 0, 3 => go .sltu
      | 0, 4 => go .xor
      | 0, 6 => go .or
      | 0, 7 => go .and
      | 1, 1 => go .mulh
      | 1, 2 => go .mulhsu
      | 1, 3 => go .mulhu
      | _, _ => none

/-- The AMO operations by funct5. -/
def decAmo (w : Nat) : Option GInstr :=
  let f3 := bits w 12 3
  let go := fun op => some (GInstr.amo op (bits w 7 5) (bits w 15 5) (bits w 20 5) (if f3 = 2 then 4 else 8))
  if f3 ≠ 2 ∧ f3 ≠ 3 then none
  else match bits w 27 5 with
    | 0x02 => if bits w 20 5 = 0 then go .lr else none
    | 0x03 => go .sc
    | 0x01 => go .swap
    | 0x00 => go .add
    | 0x04 => go .xor
    | 0x0C => go .and
    | 0x08 => go .or
    | 0x10 => go .min
    | 0x14 => go .max
    | 0x18 => go .minu
    | 0x1C => go .maxu
    | _ => none

/-- SYSTEM: ECALL, EBREAK, WFI and the CSR instructions. -/
def decSystem (w : Nat) : Option GInstr :=
  let f3 := bits w 12 3
  if f3 = 0 then (if w = 0x73 then some .ecall else if w = 0x100073 then some .ebreak else if w = 0x10500073 then some .wfi else none)
  else if f3 = 4 then none
  else some (.csr f3 (bits w 7 5) (bits w 15 5) (bits w 20 12))

/-- The format code of an fmt field: single, double, half; quad is not implemented. Code 6 stands for BF16, which FCVT.S.BF16 and FCVT.BF16.S alone
name (Zfbfmin, on which Zvfbfwma rests). -/
def fpFmtOk (k : Nat) : Bool := decide (k ≤ 2)

/-- A rounding-mode field that names no reserved mode. -/
def rmOk (rm : Nat) : Bool := decide (rm ≠ 5 ∧ rm ≠ 6)

/-- OP-FP. -/
def decFp (w : Nat) : Option GInstr :=
  let fmt := bits w 25 2
  let rm := bits w 12 3
  let rs2 := bits w 20 5
  let go := fun op => some (GInstr.fp op fmt (bits w 7 5) (bits w 15 5) rs2 0 rm)
  let rnd := fun op => if rmOk rm then go op else none
  if !fpFmtOk fmt then none
  else match bits w 27 5 with
    | 0x00 => rnd .add
    | 0x01 => rnd .sub
    | 0x02 => rnd .mul
    | 0x03 => rnd .div
    | 0x0B => if rs2 = 0 then rnd .sqrt else none
    | 0x04 => if rm ≤ 2 then go (.sgnj rm) else none
    | 0x05 => if rm ≤ 1 then go (.minmax (decide (rm = 1))) else none
    | 0x14 => if rm ≤ 2 then go (.cmp rm) else none
    | 0x08 =>
      if fmt = 0 ∧ rs2 = 6 then rnd (.cvtF 6)
      else if fmt = 2 ∧ rs2 = 8 then if rmOk rm then some (.fp (.cvtF 0) 6 (bits w 7 5) (bits w 15 5) rs2 0 rm) else none
      else if fpFmtOk rs2 && decide (rs2 ≠ fmt) then rnd (.cvtF rs2) else none
    | 0x18 => if rs2 ≤ 3 then rnd (.toInt rs2) else none
    | 0x1A => if rs2 ≤ 3 then rnd (.ofInt rs2) else none
    | 0x1C => if rs2 = 0 ∧ rm = 0 then go .mvX else if rs2 = 0 ∧ rm = 1 then go .cls else none
    | 0x1E => if rs2 = 0 ∧ rm = 0 then go .mvF else none
    | _ => none

/-- The fused multiply-adds: FMADD, FMSUB, FNMSUB, FNMADD by opcode. -/
def decFma (w : Nat) (negProd negAdd : Bool) : Option GInstr :=
  if fpFmtOk (bits w 25 2) && rmOk (bits w 12 3) then
    some (.fp (.fma negProd negAdd) (bits w 25 2) (bits w 7 5) (bits w 15 5) (bits w 20 5) (bits w 27 5) (bits w 12 3))
  else none

/-- The element width in bytes that a vector access's width field names. -/
def vWidth (k : Nat) : Option Nat := if k = 0 then some 1 else if k = 5 then some 2 else if k = 6 then some 4 else if k = 7 then some 8 else none

/-- LOAD-FP and STORE-FP: scalar FLH, FLW, FLD and the stores, or a vector access. -/
def decMemFp (w : Nat) (isLoad : Bool) : Option GInstr :=
  let f3 := bits w 12 3
  let rd := bits w 7 5
  let rs1 := bits w 15 5
  let sc := fun n => some (if isLoad then GInstr.loadF rd rs1 (immI w) n else GInstr.storeF (bits w 20 5) rs1 (immS w) n)
  match f3 with
  | 1 => sc 2
  | 2 => sc 4
  | 3 => sc 8
  | _ => (vWidth f3).bind fun eew =>
    let nf := bits w 29 3 + 1
    let vm := bit w 25
    let k := bits w 20 5
    let go := fun walk => some (GInstr.vmem isLoad rd rs1 nf eew vm walk)
    if bit w 28 then none
    else match bits w 26 2 with
      | 0 =>
        if k = 0 then go (.unit false)
        else if k = 8 then (if vm && (nf == 1 || nf == 2 || nf == 4 || nf == 8) && (isLoad || eew == 1) then go (.whole nf) else none)
        else if k = 11 then (if vm && nf == 1 && eew == 1 then go .mask else none)
        else if k = 16 ∧ isLoad then go (.unit true)
        else none
      | 2 => go (.stride k)
      | _ => go (.index k)

/-- The vector configuration instructions: the AVL and vtype each come from a register (left) or an immediate (right). -/
def decVset (w : Nat) : Option GInstr :=
  let rd := bits w 7 5
  let rs1 := bits w 15 5
  if !bit w 31 then some (.vset rd (.inl rs1) (.inr (bits w 20 11)))
  else if bit w 30 then some (.vset rd (.inr rs1) (.inr (bits w 20 10)))
  else if bits w 25 6 = 0 then some (.vset rd (.inl rs1) (.inl (bits w 20 5))) else none

/-- Xtzgal (08, table "Xtzgal encodings"): a field marked 0 must be 0. -/
def decTz (w : Nat) : Option GInstr :=
  let f7 := bits w 25 7
  let rs2 := bits w 20 5
  let rs1 := bits w 15 5
  let rd := bits w 7 5
  let go := fun (ok : Bool) op => if ok then some (GInstr.tz op rd rs1 rs2) else none
  match bits w 12 3, f7 with
  | 0, 0 => go (rd == 0) .submit
  | 1, 0 => go (rd == 0) .send
  | 2, 0 => go true .wait
  | 3, 0 => go true .take
  | 4, 0 => go (rs2 == 0 && rd == 0) .brake
  | 7, 0 => go (rs2 == 0 && rs1 == 0) .axle
  | 7, 1 => go (rs2 == 0 && rs1 == 0) .step
  | 7, 2 => go (rs2 == 0 && rs1 == 0 && rd == 0) .yield
  | _, _ => none

/-- A 32-bit instruction. -/
def decWord (w : Nat) : Option GInstr :=
  let rd := bits w 7 5
  let rs1 := bits w 15 5
  let rs2 := bits w 20 5
  let f3 := bits w 12 3
  match bits w 0 7 with
  | 0x37 => some (.lui rd (immU w))
  | 0x17 => some (.auipc rd (immU w))
  | 0x6F => some (.jal rd (immJ w))
  | 0x67 => if f3 = 0 then some (.jalr rd rs1 (immI w)) else none
  | 0x63 => if f3 = 2 ∨ f3 = 3 then none else some (.branch f3 rs1 rs2 (immB w))
  | 0x03 => if f3 = 7 then none else some (.load rd rs1 (immI w) (2 ^ (f3 % 4)) (decide (f3 < 4)))
  | 0x23 => if 4 ≤ f3 then none else some (.store rs2 rs1 (immS w) (2 ^ f3))
  | 0x13 => decOpImm w false
  | 0x1B => decOpImm w true
  | 0x33 => decOp w false
  | 0x3B => decOp w true
  | 0x0F => if f3 = 0 then some (.fence (bit w 24)) else if f3 = 1 then some .fenceI else none
  | 0x73 => decSystem w
  | 0x2F => decAmo w
  | 0x07 => decMemFp w true
  | 0x27 => decMemFp w false
  | 0x43 => decFma w false false
  | 0x47 => decFma w false true
  | 0x4B => decFma w true false
  | 0x4F => decFma w true true
  | 0x53 => decFp w
  | 0x57 => if f3 = 7 then decVset w else some (.vop f3 (bits w 26 6) rd rs1 rs2 (bit w 25))
  | 0x0B => decTz w
  | _ => none

-- Compressed instructions

/-- Quadrant 0: register-based loads and stores, ADDI4SPN. -/
def decC0 (w : Nat) : Option GInstr :=
  let rd := 8 + bits w 2 3
  let rs1 := 8 + bits w 7 3
  let d : Int := (gather w [(10, 3, 3), (5, 2, 6)] : Nat)
  let k : Int := (gather w [(10, 3, 3), (6, 1, 2), (5, 1, 6)] : Nat)
  match bits w 13 3 with
  | 0 =>
    let n := gather w [(11, 2, 4), (7, 4, 6), (6, 1, 2), (5, 1, 3)]
    if n = 0 then none else some (.opImm .add rd 2 n false)
  | 1 => some (.loadF rd rs1 d 8)
  | 2 => some (.load rd rs1 k 4 true)
  | 3 => some (.load rd rs1 d 8 true)
  | 5 => some (.storeF rd rs1 d 8)
  | 6 => some (.store rd rs1 k 4)
  | 7 => some (.store rd rs1 d 8)
  | _ => none

/-- Quadrant 1: immediates, jumps, branches, two-register operations. -/
def decC1 (w : Nat) : Option GInstr :=
  let rd := bits w 7 5
  let rp := 8 + bits w 7 3
  let r2 := 8 + bits w 2 3
  let u := gather w [(2, 5, 0), (12, 1, 5)]
  let i := signed 6 u
  let b := signed 9 (gather w [(3, 2, 1), (10, 2, 3), (2, 1, 5), (5, 2, 6), (12, 1, 8)])
  match bits w 13 3 with
  | 0 => some (.opImm .add rd rd i false)
  | 1 => if rd = 0 then none else some (.opImm .add rd rd i true)
  | 2 => some (.opImm .add rd 0 i false)
  | 3 =>
    if u = 0 then none
    else if rd = 2 then some (.opImm .add 2 2 (signed 10 (gather w [(6, 1, 4), (2, 1, 5), (5, 1, 6), (3, 2, 7), (12, 1, 9)])) false)
    else some (.lui rd (i * 4096))
  | 4 =>
    match bits w 10 2 with
    | 0 => some (.opImm .srl rp rp u false)
    | 1 => some (.opImm .sra rp rp u false)
    | 2 => some (.opImm .and rp rp i false)
    | _ => match bits w 12 1, bits w 5 2 with
      | 0, 0 => some (.op .sub rp rp r2 false)
      | 0, 1 => some (.op .xor rp rp r2 false)
      | 0, 2 => some (.op .or rp rp r2 false)
      | 0, _ => some (.op .and rp rp r2 false)
      | _, 0 => some (.op .sub rp rp r2 true)
      | _, 1 => some (.op .add rp rp r2 true)
      | _, _ => none
  | 5 => some (.jal 0 (signed 12 (gather w [(3, 3, 1), (11, 1, 4), (2, 1, 5), (7, 1, 6), (6, 1, 7), (9, 2, 8), (8, 1, 10), (12, 1, 11)])))
  | 6 => some (.branch 0 rp 0 b)
  | _ => some (.branch 1 rp 0 b)

/-- Quadrant 2: shifts, stack-pointer loads and stores, register jumps and moves. -/
def decC2 (w : Nat) : Option GInstr :=
  let rd := bits w 7 5
  let r2 := bits w 2 5
  let d : Int := (gather w [(5, 2, 3), (12, 1, 5), (2, 3, 6)] : Nat)
  let k : Int := (gather w [(4, 3, 2), (12, 1, 5), (2, 2, 6)] : Nat)
  let sd : Int := (gather w [(10, 3, 3), (7, 3, 6)] : Nat)
  let sk : Int := (gather w [(9, 4, 2), (7, 2, 6)] : Nat)
  match bits w 13 3 with
  | 0 => some (.opImm .sll rd rd (gather w [(2, 5, 0), (12, 1, 5)] : Nat) false)
  | 1 => some (.loadF rd 2 d 8)
  | 2 => if rd = 0 then none else some (.load rd 2 k 4 true)
  | 3 => if rd = 0 then none else some (.load rd 2 d 8 true)
  | 4 =>
    if !bit w 12 then (if r2 ≠ 0 then some (.op .add rd 0 r2 false) else if rd = 0 then none else some (.jalr 0 rd 0))
    else if r2 ≠ 0 then some (.op .add rd rd r2 false)
    else if rd = 0 then some .ebreak
    else some (.jalr 1 rd 0)
  | 5 => some (.storeF r2 2 sd 8)
  | 6 => some (.store r2 2 sk 4)
  | _ => some (.store r2 2 sd 8)

/-- The bytes of the instruction whose first halfword is `h`. -/
def insLen (h : Nat) : Nat := if h % 4 = 3 then 4 else 2

/-- The instruction that a word begins with. -/
def decInstr (w : Nat) : Option GInstr :=
  match w % 4 with
  | 0 => decC0 (w % 65536)
  | 1 => decC1 (w % 65536)
  | 2 => decC2 (w % 65536)
  | _ => decWord w

end Sys2Proof.Machine
end

