-- ==== Sys2Proof/Machine/RvFloat.lean ====
section
/-! DEFINITION. IEEE 754 arithmetic of the galley's cores (08 R185, R186): exact results, rounded once; subnormals kept, NaN results canonical.
The ratified RISC-V extensions, which the manual names and does not print, fix what it leaves to them (PRESUMED, log 30). -/

namespace Sys2Proof.Machine

/-- A binary format: exponent and fraction bits. -/
structure FFmt where
  ex : Nat
  fr : Nat
  deriving DecidableEq, Repr, Inhabited

def fHalf : FFmt := ⟨5, 10⟩
def fBrain : FFmt := ⟨8, 7⟩
def fSingle : FFmt := ⟨8, 23⟩
def fDouble : FFmt := ⟨11, 52⟩

/-- Bits of a format. -/
def FFmt.width (f : FFmt) : Nat := f.ex + f.fr + 1

/-- The exponent of the least normal number, and the exponent of one unit of the subnormals' last place. -/
def FFmt.emin (f : FFmt) : Int := 2 - (2 ^ (f.ex - 1) : Nat)
def FFmt.quantum (f : FFmt) : Int := f.emin - f.fr

/-- A value: a finite number is (-1)^neg × m × 2^e. -/
inductive FVal where
  | nan (signaling : Bool)
  | inf (neg : Bool)
  | num (neg : Bool) (m : Nat) (e : Int)
  deriving DecidableEq, Repr, Inhabited

/-- The exception flags of fflags: invalid, division by zero, overflow, underflow, inexact. -/
def fNV : Nat := 16
def fDZ : Nat := 8
def fOF : Nat := 4
def fUF : Nat := 2
def fNX : Nat := 1

/-- The canonical NaN. -/
def FFmt.qnan (f : FFmt) : Nat := (2 ^ f.ex - 1) * 2 ^ f.fr + 2 ^ (f.fr - 1)
def FFmt.infBits (f : FFmt) (neg : Bool) : Nat := (2 ^ f.ex - 1) * 2 ^ f.fr + b2n neg * 2 ^ (f.width - 1)
def FFmt.zeroBits (f : FFmt) (neg : Bool) : Nat := b2n neg * 2 ^ (f.width - 1)

/-- The value that bits stand for. -/
def fDecode (f : FFmt) (w : Nat) : FVal :=
  let neg := bit w (f.width - 1)
  let e := bits w f.fr f.ex
  let m := bits w 0 f.fr
  if e = 2 ^ f.ex - 1 then (if m = 0 then .inf neg else .nan (!bit m (f.fr - 1)))
  else if e = 0 then .num neg m f.quantum
  else .num neg (m + 2 ^ f.fr) (f.quantum + (e - 1 : Nat))

/-- Whether a magnitude with a remainder rounds up: modes 0 to nearest even, 1 toward zero, 2 down, 3 up, 4 to nearest with ties away, 5 to odd. -/
def fUp (rm : Nat) (neg : Bool) (hi rem half : Nat) : Bool :=
  match rm with
  | 0 => decide (half < rem ∨ (rem = half ∧ hi % 2 = 1))
  | 1 => false
  | 2 => neg && decide (rem ≠ 0)
  | 3 => !neg && decide (rem ≠ 0)
  | 4 => decide (half ≤ rem ∧ rem ≠ 0)
  | _ => decide (rem ≠ 0 ∧ hi % 2 = 0)

/-- A magnitude m × 2^e in units of 2^q: the rounded count, and whether it is inexact. -/
def fQuant (rm : Nat) (neg : Bool) (m : Nat) (e q : Int) : Nat × Bool :=
  if q ≤ e then (m * 2 ^ (e - q).toNat, false)
  else
    let d := (q - e).toNat
    let hi := m / 2 ^ d
    let rem := m % 2 ^ d
    (hi + b2n (fUp rm neg hi rem (2 ^ (d - 1))), decide (rem ≠ 0))

/-- The bits of an exact number rounded once, and the flags; an underflow is tiny after rounding. -/
def fRound (f : FFmt) (rm : Nat) (neg : Bool) (m : Nat) (e : Int) : Nat × Nat :=
  if m = 0 then (f.zeroBits neg, 0)
  else
    let top : Int := e + Nat.log2 m
    let q := max f.quantum (top - f.fr)
    let (n, nx) := fQuant rm neg m e q
    let (n, q) := if n = 2 ^ (f.fr + 1) then (2 ^ f.fr, q + 1) else (n, q)
    let field := if n < 2 ^ f.fr then 0 else (q - f.quantum).toNat + 1
    let away := rm = 0 ∨ rm = 4 ∨ (rm = 2 ∧ neg) ∨ (rm = 3 ∧ ¬ neg)
    if 2 ^ f.ex - 1 ≤ field then (if away then f.infBits neg else f.infBits neg - 1, fOF + fNX)
    else
      let tiny := decide (top < f.emin) && decide ((fQuant rm neg m e (top - f.fr)).1 < 2 ^ (f.fr + 1) ∨ top + 1 < f.emin)
      (n % 2 ^ f.fr + field * 2 ^ f.fr + f.zeroBits neg, b2n nx * fNX + b2n (nx && tiny) * fUF)

/-- Whether a value is a NaN, and the flag that a signaling one raises. -/
def FVal.isNan : FVal → Bool
  | .nan _ => true
  | _ => false

def FVal.snan : FVal → Nat
  | .nan true => fNV
  | _ => 0

def FVal.neg : FVal → FVal
  | .nan s => .nan s
  | .inf n => .inf !n
  | .num n m e => .num (!n) m e

/-- The signed magnitudes of two finite numbers over their common exponent. -/
def fAlign (n1 : Bool) (m1 : Nat) (e1 : Int) (n2 : Bool) (m2 : Nat) (e2 : Int) : Int × Int × Int :=
  let e := min e1 e2
  let v := fun (n : Bool) (m : Nat) (x : Int) => (if n then -1 else 1) * ((m * 2 ^ (x - e).toNat : Nat) : Int)
  (v n1 m1 e1, v n2 m2 e2, e)

/-- The exact sum of two values, rounded: a zero sum of unlike signs is +0, or -0 when rounding down. -/
def fAdd (f : FFmt) (rm : Nat) (a b : FVal) : Nat × Nat :=
  match a, b with
  | .nan _, _ | _, .nan _ => (f.qnan, a.snan ||| b.snan)
  | .inf n, .inf k => if n = k then (f.infBits n, 0) else (f.qnan, fNV)
  | .inf n, _ | _, .inf n => (f.infBits n, 0)
  | .num n1 m1 e1, .num n2 m2 e2 =>
    let (x, y, e) := fAlign n1 m1 e1 n2 m2 e2
    let z := x + y
    if z = 0 then (f.zeroBits (if m1 = 0 ∧ n1 = n2 then n1 else decide (rm = 2)), 0)
    else fRound f rm (decide (z < 0)) z.natAbs e

/-- The exact product of two values, unrounded; none where it is invalid. -/
def fMulExact (a b : FVal) : Option FVal :=
  match a, b with
  | .nan x, .nan y => some (.nan (x || y))
  | .nan x, _ | _, .nan x => some (.nan x)
  | .inf n, .inf k => some (.inf (n != k))
  | .inf n, .num k m _ | .num n m _, .inf k => if m = 0 then none else some (.inf (n != k))
  | .num n1 m1 e1, .num n2 m2 e2 => some (.num (n1 != n2) (m1 * m2) (e1 + e2))

/-- The bits of a value in a format. -/
def fEncode (f : FFmt) (rm : Nat) : FVal → Nat × Nat
  | .nan s => (f.qnan, (FVal.nan s).snan)
  | .inf n => (f.infBits n, 0)
  | .num n m e => fRound f rm n m e

def fMul (f : FFmt) (rm : Nat) (a b : FVal) : Nat × Nat :=
  match fMulExact a b with
  | some v => fEncode f rm v
  | none => (f.qnan, fNV)

/-- a × b + c, rounded once; an invalid product is invalid even where c is a quiet NaN. -/
def fFma (f : FFmt) (rm : Nat) (a b c : FVal) : Nat × Nat :=
  match fMulExact a b with
  | none => (f.qnan, fNV)
  | some p => fAdd f rm p c

/-- a / b, rounded once: the quotient to two bits past the format, and a last bit that keeps the remainder. -/
def fDiv (f : FFmt) (rm : Nat) (a b : FVal) : Nat × Nat :=
  match a, b with
  | .nan _, _ | _, .nan _ => (f.qnan, a.snan ||| b.snan)
  | .inf _, .inf _ => (f.qnan, fNV)
  | .inf n, .num k _ _ => (f.infBits (n != k), 0)
  | .num n _ _, .inf k => (f.zeroBits (n != k), 0)
  | .num n1 m1 e1, .num n2 m2 e2 =>
    let neg := n1 != n2
    if m2 = 0 then (if m1 = 0 then (f.qnan, fNV) else (f.infBits neg, fDZ))
    else
      let k := f.fr + 3 + Nat.log2 m2
      let x := m1 * 2 ^ k
      fRound f rm neg (2 * (x / m2) + b2n (decide (x % m2 ≠ 0))) (e1 - e2 - k - 1)

/-- The integer square root, bit by bit from bit `k`. -/
def isqrtFrom : Nat → Nat → Nat → Nat
  | 0, n, r => if (r + 1) * (r + 1) ≤ n then r + 1 else r
  | k + 1, n, r =>
    let x := r + 2 ^ (k + 1)
    isqrtFrom k n (if x * x ≤ n then x else r)

def isqrt (n : Nat) : Nat := isqrtFrom (Nat.log2 n / 2 + 1) n 0

/-- The square root, rounded once. -/
def fSqrt (f : FFmt) (rm : Nat) (a : FVal) : Nat × Nat :=
  match a with
  | .nan s => (f.qnan, (FVal.nan s).snan)
  | .inf n => if n then (f.qnan, fNV) else (f.infBits false, 0)
  | .num n m e =>
    if m = 0 then (f.zeroBits n, 0)
    else if n then (f.qnan, fNV)
    else
      let k := 2 * (f.fr + 3) + (e % 2).toNat
      let x := m * 2 ^ k
      let r := isqrt x
      fRound f rm false (2 * r + b2n (decide (r * r ≠ x))) ((e - k) / 2 - 1)

/-- The order of two values that are no NaNs: -1, 0 or 1; zeros are equal. -/
def fCmp (a b : FVal) : Int :=
  match a, b with
  | .inf n, .inf k => if n = k then 0 else if n then -1 else 1
  | .inf n, _ => if n then -1 else 1
  | _, .inf k => if k then 1 else -1
  | .num n1 m1 e1, .num n2 m2 e2 =>
    let (x, y, _) := fAlign n1 m1 e1 n2 m2 e2
    if x < y then -1 else if x = y then 0 else 1
  | _, _ => 0

/-- Less than, or less or equal: signaling comparisons. Equal: a quiet one. -/
def fLt (a b : FVal) : Bool × Nat := if a.isNan || b.isNan then (false, fNV) else (decide (fCmp a b < 0), 0)
def fLe (a b : FVal) : Bool × Nat := if a.isNan || b.isNan then (false, fNV) else (decide (fCmp a b ≤ 0), 0)
def fEq (a b : FVal) : Bool × Nat := if a.isNan || b.isNan then (false, a.snan ||| b.snan) else (decide (fCmp a b = 0), 0)

/-- The lesser or the greater of two operands given by bits: -0 lies below +0; of a NaN and a number, the number. -/
def fMinMax (f : FFmt) (isMax : Bool) (x y : Nat) : Nat × Nat :=
  let a := fDecode f x
  let b := fDecode f y
  let flags := a.snan ||| b.snan
  if a.isNan then (if b.isNan then f.qnan else y, flags)
  else if b.isNan then (x, flags)
  else
    let less := if fCmp a b = 0 then bit x (f.width - 1) else decide (fCmp a b < 0)
    (if less != isMax then x else y, flags)

/-- Sign injection: 0 the sign of y, 1 its opposite, 2 the exclusive or of both. -/
def fSgnj (f : FFmt) (k x y : Nat) : Nat :=
  let sx := bit x (f.width - 1)
  let sy := bit y (f.width - 1)
  let s := match k with | 0 => sy | 1 => !sy | _ => sx != sy
  bits x 0 (f.width - 1) + b2n s * 2 ^ (f.width - 1)

/-- FCLASS: a bit for -inf, -normal, -subnormal, -0, +0, +subnormal, +normal, +inf, signaling NaN, quiet NaN. -/
def fClass (f : FFmt) (x : Nat) : Nat :=
  match fDecode f x with
  | .nan s => if s then 256 else 512
  | .inf n => if n then 1 else 128
  | .num n m _ =>
    if m = 0 then (if n then 8 else 16)
    else if m < 2 ^ f.fr then (if n then 4 else 32)
    else if n then 2 else 64

/-- A conversion to an integer of `n` bits: out-of-range values and NaN give the nearest bound (NaN the upper) and invalid. -/
def fToInt (n : Nat) (sgn : Bool) (rm : Nat) (a : FVal) : Nat × Nat :=
  let lo : Int := if sgn then -(2 ^ (n - 1) : Nat) else 0
  let hi : Int := if sgn then (2 ^ (n - 1) : Nat) - 1 else (2 ^ n : Nat) - 1
  match a with
  | .nan _ => (twos n hi, fNV)
  | .inf neg => (twos n (if neg then lo else hi), fNV)
  | .num neg m e =>
    let (k, nx) := fQuant rm neg m e 0
    let v : Int := if neg then -k else k
    if v < lo then (twos n lo, fNV) else if hi < v then (twos n hi, fNV) else (twos n v, b2n nx * fNX)

/-- A conversion from an integer. -/
def fOfInt (f : FFmt) (rm : Nat) (v : Int) : Nat × Nat := fRound f rm (decide (v < 0)) v.natAbs 0

/-- A conversion between formats. -/
def fConvert (src dst : FFmt) (rm w : Nat) : Nat × Nat := fEncode dst rm (fDecode src w)

/-- VFREC7: the reciprocal to seven bits; the fraction of 1 / (1 + (i + 1/2) / 128) to the nearest. -/
def fRec7 (f : FFmt) (rm w : Nat) : Nat × Nat :=
  let bias := 2 ^ (f.ex - 1) - 1
  match fDecode f w with
  | .nan s => (f.qnan, (FVal.nan s).snan)
  | .inf n => (f.zeroBits n, 0)
  | .num n m _ =>
    if m = 0 then (f.infBits n, fDZ)
    else
      let sh := f.fr - Nat.log2 m
      let beyond := (if rm = 1 ∨ (rm = 2 ∧ ¬ n) ∨ (rm = 3 ∧ n) then f.infBits n - 1 else f.infBits n, fOF + fNX)
      let e0 : Int := if m < 2 ^ f.fr then 1 - sh else bits w f.fr f.ex
      if e0 < -1 then beyond
      else
        let i := bits (m * 2 ^ sh) (f.fr - 7) 7
        let r := (256 * (255 - 2 * i) + (257 + 2 * i)) / (2 * (257 + 2 * i))
        let eo : Int := 2 * bias - 1 - e0
        let sig := r * 2 ^ (f.fr - 7)
        let out := if eo = 0 then (sig + 2 ^ f.fr) / 2 else if eo < 0 then (sig + 2 ^ f.fr) / 4 else sig + eo.toNat * 2 ^ f.fr
        (out + f.zeroBits n, 0)

/-- VFRSQRT7: the reciprocal square root to seven bits, from the exponent's last bit and the fraction's first six. -/
def fRsqrt7 (f : FFmt) (w : Nat) : Nat × Nat :=
  let bias := 2 ^ (f.ex - 1) - 1
  match fDecode f w with
  | .nan s => (f.qnan, (FVal.nan s).snan)
  | .inf n => if n then (f.qnan, fNV) else (f.zeroBits false, 0)
  | .num n m _ =>
    if m = 0 then (f.infBits n, fDZ)
    else if n then (f.qnan, fNV)
    else
      let sh := f.fr - Nat.log2 m
      let e0 : Int := if m < 2 ^ f.fr then 1 - sh else bits w f.fr f.ex
      let i := bits (m * 2 ^ sh) (f.fr - 6) 6
      let even := e0 % 2 = 0
      let d := (129 + 2 * i) * (if even then 2 else 1)
      let r := (isqrt (2 ^ 24 * 128 / d) + 2 ^ 3) / 2 ^ 4 - 128
      let eo := (3 * (bias : Int) - 1 - e0) / 2
      (r * 2 ^ (f.fr - 7) + eo.toNat * 2 ^ f.fr, 0)

end Sys2Proof.Machine
end

