-- ==== Sys2Proof/Machine/RvVec.lean ====
section
/-! DEFINITION. The vector instructions of the galley's cores (08 R185, R186): VLEN 512, ELEN 64. A result is computed from the registers before the
instruction; an encoding or a register choice that the ratified V extension reserves is illegal (PRESUMED, log 30). -/

namespace Sys2Proof.Machine

-- Registers and configuration

/-- The `n` bytes from byte `pos` of the vector registers, within one register. -/
def vBytes (v : Tab (BitVec 512)) (pos n : Nat) : Nat := bits (Tab.get 0 v (pos / 64)).toNat (8 * (pos % 64)) (8 * n)

/-- Write them. -/
def vPut (v : Tab (BitVec 512)) (pos n x : Nat) : Tab (BitVec 512) :=
  let o := 8 * (pos % 64)
  let w := (Tab.get 0 v (pos / 64)).toNat
  Tab.set 0 v (pos / 64) (BitVec.ofNat 512 (w - bits w o (8 * n) * 2 ^ o + x % 2 ^ (8 * n) * 2 ^ o))

/-- Element `i` of a register group, in elements of `eb` bytes. -/
def vEl (u : Thread) (reg eb i : Nat) : Nat := vBytes u.v (64 * reg + i * eb) eb

/-- Bit `i` of a mask register. -/
def vBit (u : Thread) (reg i : Nat) : Bool := bit (Tab.get 0 u.v reg).toNat i

/-- SEW in bytes, and eight times LMUL, of a vtype. -/
def vtSew (vt : Nat) : Nat := 2 ^ bits vt 3 3
def vtMul8 (vt : Nat) : Nat := let k := bits vt 0 3; if k < 4 then 8 * 2 ^ k else 2 ^ (k - 5)

/-- Whether a vtype is supported. -/
def vtOk (vt : Nat) : Bool := decide (vt / 256 = 0 ∧ bits vt 0 3 ≠ 4 ∧ bits vt 3 3 ≤ 3 ∧ vtSew vt ≤ vtMul8 vt)

/-- VLMAX of a vtype. -/
def vtMax (vt : Nat) : Nat := 8 * vtMul8 vt / vtSew vt

/-- Registers of a group of eight times LMUL `m`. -/
def vRegs (m : Nat) : Nat := max 1 (m / 8)

/-- Whether a group of eight times LMUL `m` exists and starts at a register it may start at. -/
def vGroup (reg m : Nat) : Bool := decide (1 ≤ m ∧ m ≤ 64 ∧ reg % vRegs m = 0 ∧ reg + vRegs m ≤ 32)

/-- Whether two register ranges meet. -/
def vMeet (a na b nb : Nat) : Bool := decide (a < b + nb ∧ b < a + na)

/-- Whether a destination of element width `ed` may overlap a source as it does: not at all, or with the same width, or in the source's lowest
registers, or in the destination's highest. -/
def vLap (vd ed nd vs es ns : Nat) : Bool :=
  !vMeet vd (vRegs nd) vs (vRegs ns) || decide (ed = es) ||
    (if ed < es then decide (vd = vs) else decide (8 ≤ ns ∧ vs + vRegs ns = vd + vRegs nd))

/-- Whether element `i` is active. -/
def vOn (u : Thread) (vm : Bool) (i : Nat) : Bool := vm || vBit u 0 i

/-- The flag word of an element: fflags below 32, and vxsat. -/
def fSat : Nat := 32

/-- Add flags. -/
def vFlags (u : Thread) (fl : Nat) : Thread := { u with fflags := u.fflags ||| fl % 32, vxsat := u.vxsat || bit fl 5 }

/-- The end of a vector instruction: vstart is 0. -/
def vEnd (u : Thread) : Thread := { u with vstart := 0 }

/-- Write a destination of `eb`-byte elements whose body ends at `len`: active elements of the body take `f`; inactive ones and the tail keep their
value, or, where vtype makes them agnostic, take ones where the free choice `ag` says so. -/
def vWrite (u : Thread) (ag : Nat → Bool) (vd eb m : Nat) (vm : Bool) (len : Nat) (f : Nat → Nat × Nat) : Thread :=
  let ones := 2 ^ (8 * eb) - 1
  let put := fun (u : Thread) (i x : Nat) => { u with v := vPut u.v (64 * vd + i * eb) eb x }
  vEnd ((List.range (vRegs m * 64 / eb)).foldl (fun w i =>
    if i < u.vstart then w
    else if i < len then
      if vOn u vm i then vFlags (put w i (f i).1) (f i).2 else if bit u.vtype 7 && ag i then put w i ones else w
    else if bit u.vtype 6 && ag i then put w i ones else w) u)

/-- Write the body from vstart to vl; nothing is written where it is empty. -/
def vBody (u : Thread) (ag : Nat → Bool) (vd eb m : Nat) (vm : Bool) (f : Nat → Nat × Nat) : Thread :=
  if u.vl ≤ u.vstart then vEnd u else vWrite u ag vd eb m vm u.vl f

/-- Write a mask destination; its tail is always agnostic. -/
def vMask (u : Thread) (ag : Nat → Bool) (vd : Nat) (vm : Bool) (f : Nat → Bool × Nat) : Thread :=
  if u.vl ≤ u.vstart then vEnd u
  else
    let old := fun i => vBit u vd i
    let go := fun i =>
      if i < u.vstart then (old i, 0)
      else if i < u.vl then (if vOn u vm i then f i else (old i || (bit u.vtype 7 && ag i), 0))
      else (old i || ag i, 0)
    let rs := (List.range 512).map go
    let w := (enum rs).foldl (fun n e => n + b2n e.2.1 * 2 ^ e.1) 0
    vEnd (vFlags { u with v := Tab.set 0 u.v vd (BitVec.ofNat 512 w) } (rs.foldl (fun n e => n ||| e.2) 0))

/-- Write element 0 of a destination; the rest is tail. -/
def vScalar (u : Thread) (ag : Nat → Bool) (vd eb : Nat) (x fl : Nat) : Thread :=
  if u.vl = 0 then vEnd u
  else
    let w := { u with v := vPut u.v (64 * vd) eb x }
    vEnd (vFlags ((List.range (64 / eb)).foldl (fun w i =>
      if i ≠ 0 ∧ bit u.vtype 6 ∧ ag i then { w with v := vPut w.v (64 * vd + i * eb) eb (2 ^ (8 * eb) - 1) } else w) w) fl)

/-- The active elements of the body. -/
def vActive (u : Thread) (vm : Bool) : List Nat := (List.range u.vl).filter (vOn u vm)

/-- An integer or floating-point register of a thread. -/
def rvX (u : Thread) (r : Nat) : Nat := if r = 0 then 0 else (Tab.get 0 u.x r).toNat
def rvF (u : Thread) (r : Nat) : Nat := (Tab.get 0 u.f r).toNat
def rvSetX (u : Thread) (r v : Nat) : Thread := if r = 0 then u else { u with x := Tab.set 0 u.x r (BitVec.ofNat 64 v) }

/-- Write a floating-point register, boxed in ones above `n` bits. -/
def rvSetF (u : Thread) (r n v : Nat) : Thread := { u with f := Tab.set 0 u.f r (BitVec.ofNat 64 (v + (2 ^ 64 - 2 ^ n))) }

/-- A floating-point register as a value of a format: a value that is not boxed is the canonical NaN. -/
def rvFAs (u : Thread) (fmt : FFmt) (r : Nat) : Nat :=
  let w := rvF u r
  let n := fmt.width
  if w / 2 ^ n = 2 ^ (64 - n) - 1 then w % 2 ^ n else fmt.qnan

-- Integer arithmetic

/-- Fixed-point rounding by vxrm: 0 to nearest up, 1 to nearest even, 2 down, 3 to odd. -/
def vRound (mode : Nat) (v : Int) (d : Nat) : Int :=
  let q := v / (2 ^ d : Nat)
  let rem := v % (2 ^ d : Nat)
  let half : Int := (2 ^ d : Nat) / 2
  let up := match mode with
    | 0 => decide (half ≤ rem)
    | 1 => decide (half < rem ∨ (rem = half ∧ q % 2 = 1))
    | 2 => false
    | _ => decide (q % 2 = 0 ∧ rem ≠ 0)
  if d = 0 then v else q + b2n up

/-- A result kept within bounds, and whether it saturated. -/
def vClip (n : Nat) (sgn : Bool) (v : Int) : Nat × Nat :=
  let lo : Int := if sgn then -(2 ^ (n - 1) : Nat) else 0
  let hi : Int := if sgn then (2 ^ (n - 1) : Nat) - 1 else (2 ^ n : Nat) - 1
  if v < lo then (twos n lo, fSat) else if hi < v then (twos n hi, fSat) else (twos n v, 0)

/-- Division and remainder of RISC-V: by zero all ones and the dividend; the one overflow the dividend and 0. -/
def rvDiv (n : Nat) (sgn : Bool) (a b : Nat) : Nat :=
  if b = 0 then 2 ^ n - 1 else if sgn then twos n ((signed n a).tdiv (signed n b)) else a / b

def rvRem (n : Nat) (sgn : Bool) (a b : Nat) : Nat :=
  if b = 0 then a else if sgn then twos n ((signed n a).tmod (signed n b)) else a % b

/-- The element operations of OPI that give an element: vs2's `a` and the other operand's `b`, both of `n` bits. -/
def vInt (u : Thread) (n f6 a b : Nat) : Option (Nat × Nat) :=
  let sa := signed n a
  let sb := signed n b
  let sh := b % n
  let some' := fun (v : Int) => some (twos n v, 0)
  match f6 with
  | 0x00 => some' (a + b)
  | 0x02 => some' ((a : Int) - b)
  | 0x03 => some' ((b : Int) - a)
  | 0x04 => some (min a b, 0)
  | 0x05 => some' (min sa sb)
  | 0x06 => some (max a b, 0)
  | 0x07 => some' (max sa sb)
  | 0x09 => some (a &&& b, 0)
  | 0x0A => some (a ||| b, 0)
  | 0x0B => some (a ^^^ b, 0)
  | 0x20 => some (vClip n false (a + b))
  | 0x21 => some (vClip n true (sa + sb))
  | 0x22 => some (vClip n false ((a : Int) - b))
  | 0x23 => some (vClip n true (sa - sb))
  | 0x25 => some' (a * 2 ^ sh)
  | 0x27 => some (vClip n true (vRound u.vxrm (sa * sb) (n - 1)))
  | 0x28 => some (a / 2 ^ sh, 0)
  | 0x29 => some' (sa / (2 ^ sh : Nat))
  | 0x2A => some' (vRound u.vxrm a sh)
  | 0x2B => some' (vRound u.vxrm sa sh)
  | _ => none

/-- The forms that an OPI operation has: vector, scalar, immediate. -/
def vIntForm (f6 f3 : Nat) : Bool :=
  if f6 ∈ [0x02, 0x04, 0x05, 0x06, 0x07, 0x22, 0x23, 0x27, 0x12, 0x13, 0x1A, 0x1B] then decide (f3 ≠ 3)
  else if f6 ∈ [0x03, 0x0F, 0x1E, 0x1F] then decide (f3 ≠ 0)
  else true

/-- Whether an OPI immediate is unsigned: gathers, slides, shifts and clips. -/
def vUimm (f6 : Nat) : Bool := decide (f6 ∈ [0x0C, 0x0E, 0x0F, 0x25, 0x28, 0x29, 0x2A, 0x2B, 0x2C, 0x2D, 0x2E, 0x2F])

/-- The integer comparisons of OPI. -/
def vCmp (n f6 a b : Nat) : Bool :=
  let sa := signed n a
  let sb := signed n b
  match f6 with
  | 0x18 => a == b
  | 0x19 => a != b
  | 0x1A => decide (a < b)
  | 0x1B => decide (sa < sb)
  | 0x1C => decide (a ≤ b)
  | 0x1D => decide (sa ≤ sb)
  | 0x1E => decide (b < a)
  | _ => decide (sb < sa)

/-- The single-width operations of OPM: vs2's `a`, the other operand's `b`, the destination's `d`. -/
def vMul (u : Thread) (n f6 a b d : Nat) : Option Nat :=
  let sa := signed n a
  let sb := signed n b
  let t := fun (v : Int) => some (twos n v)
  match f6 with
  | 0x08 => t (vRound u.vxrm (a + b) 1)
  | 0x09 => t (vRound u.vxrm (sa + sb) 1)
  | 0x0A => t (vRound u.vxrm ((a : Int) - b) 1)
  | 0x0B => t (vRound u.vxrm (sa - sb) 1)
  | 0x20 => some (rvDiv n false a b)
  | 0x21 => some (rvDiv n true a b)
  | 0x22 => some (rvRem n false a b)
  | 0x23 => some (rvRem n true a b)
  | 0x24 => some (a * b / 2 ^ n)
  | 0x25 => t (a * b)
  | 0x26 => t (sa * b / (2 ^ n : Nat))
  | 0x27 => t (sa * sb / (2 ^ n : Nat))
  | 0x29 => t (b * d + a)
  | 0x2B => t ((a : Int) - b * d)
  | 0x2D => t (b * a + d)
  | 0x2F => t ((d : Int) - b * a)
  | _ => none

/-- The widening operations of OPM; `a` is of `n` bits, or of 2n where the operation takes a wide vs2. -/
def vWide (n f6 a b d : Nat) : Option Nat :=
  let sa := signed n a
  let sb := signed n b
  let t := fun (v : Int) => some (twos (2 * n) v)
  match f6 with
  | 0x30 => t (a + b)
  | 0x31 => t (sa + sb)
  | 0x32 => t ((a : Int) - b)
  | 0x33 => t (sa - sb)
  | 0x34 => t (a + b)
  | 0x35 => t (a + sb)
  | 0x36 => t ((a : Int) - b)
  | 0x37 => t (a - sb)
  | 0x38 => t (a * b)
  | 0x3A => t (sa * b)
  | 0x3B => t (sa * sb)
  | 0x3C => t (a * b + d)
  | 0x3D => t (sa * sb + d)
  | 0x3E => t (sa * b + d)
  | 0x3F => t (sb * a + d)
  | _ => none

/-- The steps of the integer reductions of OPM. -/
def vRedStep (n f6 x a : Nat) : Nat :=
  match f6 with
  | 0 => (x + a) % 2 ^ n
  | 1 => x &&& a
  | 2 => x ||| a
  | 3 => x ^^^ a
  | 4 => min x a
  | 5 => twos n (min (signed n x) (signed n a))
  | 6 => max x a
  | _ => twos n (max (signed n x) (signed n a))

/-- Give a value under a condition that the encoding must meet. -/
def need {α : Type} (ok : Bool) (x : α) : Option α := if ok then some x else none

/-- What every vector instruction that depends on vtype has at hand: SEW in bytes and bits, eight times LMUL, VLMAX. -/
structure VCfg where
  eb : Nat
  n  : Nat
  m  : Nat
  mx : Nat

def vCfg (u : Thread) : VCfg := ⟨vtSew u.vtype, 8 * vtSew u.vtype, vtMul8 u.vtype, vtMax u.vtype⟩

/-- The destination and sources of a single-width instruction are groups, and a masked one does not write v0. -/
def vRegsOk (c : VCfg) (vd vs1 vs2 : Nat) (vec vm : Bool) : Bool :=
  vGroup vd c.m && vGroup vs2 c.m && (!vec || vGroup vs1 c.m) && (vm || vd != 0)

/-- A slide or gather writes no register that it reads. -/
def vApart (c : VCfg) (vd vs : Nat) : Bool := !vMeet vd (vRegs c.m) vs (vRegs c.m)

/-- OPIVV, OPIVX, OPIVI. -/
def vOpi (u : Thread) (ag : Nat → Bool) (f3 f6 vd vs1 vs2 : Nat) (vm : Bool) : Option Thread :=
  let c := vCfg u
  let vec := decide (f3 = 0)
  let imm := if vUimm f6 then vs1 else twos 64 (signed 5 vs1)
  let full := if f3 = 3 then imm else rvX u vs1
  let a := fun i => vEl u vs2 c.eb i
  let b := fun i => if vec then vEl u vs1 c.eb i else full % 2 ^ c.n
  let ok := vRegsOk c vd vs1 vs2 vec vm && vIntForm f6 f3
  let all := fun (f : Nat → Nat) => vBody u ag vd c.eb c.m true fun i => (f i, 0)
  let carry := fun i => b2n (!vm && vBit u 0 i)
  let maskOk := vGroup vs2 c.m && (!vec || vGroup vs1 c.m) && vLap vd 0 8 vs2 c.eb c.m && (!vec || vLap vd 0 8 vs1 c.eb c.m) && vIntForm f6 f3
  let wideOk := decide (c.eb ≤ 4) && vGroup vs2 (2 * c.m) && vGroup vd c.m && (!vec || vGroup vs1 c.m) && vLap vd c.eb c.m vs2 (2 * c.eb) (2 * c.m) &&
    (vm || vd != 0)
  let wide := fun i => vEl u vs2 (2 * c.eb) i
  let wsh := fun i => b i % (2 * c.n)
  if f6 = 0x0C then
    let idx := fun i => if vec then b i else full
    need (ok && vApart c vd vs2 && (!vec || vApart c vd vs1))
      (vBody u ag vd c.eb c.m vm fun i => (if idx i < c.mx then a (idx i) else 0, 0))
  else if f6 = 0x0E ∧ vec then
    let m16 := 2 * c.m / c.eb
    need (vRegsOk c vd 0 vs2 false vm && vGroup vs1 m16 && decide (c.eb ≤ 2 * c.m) && vApart c vd vs2 && !vMeet vd (vRegs c.m) vs1 (vRegs m16))
      (vBody u ag vd c.eb c.m vm fun i => let k := vEl u vs1 2 i; (if k < c.mx then a k else 0, 0))
  else if f6 = 0x0E then
    need (ok && vApart c vd vs2)
      (vBody u (fun i => ag i && (decide (full ≤ i) || decide (u.vl ≤ i))) vd c.eb c.m vm fun i =>
        (if i < full then vEl u vd c.eb i else a (i - full), 0))
  else if f6 = 0x0F then
    need ok (vBody u ag vd c.eb c.m vm fun i => (if i + full < c.mx then a (i + full) else 0, 0))
  else if f6 = 0x10 then need (ok && !vm) (all fun i => (a i + b i + carry i) % 2 ^ c.n)
  else if f6 = 0x12 then need (ok && !vm) (all fun i => twos c.n ((a i : Int) - b i - carry i))
  else if f6 = 0x11 then need maskOk (vMask u ag vd true fun i => (decide (2 ^ c.n ≤ a i + b i + carry i), 0))
  else if f6 = 0x13 then need maskOk (vMask u ag vd true fun i => (decide (a i < b i + carry i), 0))
  else if f6 = 0x17 then
    if vm then need (ok && vs2 == 0) (all b) else need ok (all fun i => if vBit u 0 i then b i else a i)
  else if 0x18 ≤ f6 ∧ f6 ≤ 0x1F then need maskOk (vMask u ag vd vm fun i => (vCmp c.n f6 (a i) (b i), 0))
  else if f6 = 0x27 ∧ f3 = 3 then
    let k := vs1 + 1
    need (vm && (k == 1 || k == 2 || k == 4 || k == 8) && vd % k == 0 && vs2 % k == 0)
      (vEnd { u with v := (List.range (64 * k / c.eb)).foldl (fun v i =>
        if i < u.vstart then v else vPut v (64 * vd + i * c.eb) c.eb (a i)) u.v })
  else if f6 = 0x2C then need wideOk (vBody u ag vd c.eb c.m vm fun i => (wide i / 2 ^ wsh i % 2 ^ c.n, 0))
  else if f6 = 0x2D then need wideOk (vBody u ag vd c.eb c.m vm fun i => (twos c.n (signed (2 * c.n) (wide i) / (2 ^ wsh i : Nat)), 0))
  else if f6 = 0x2E then need wideOk (vBody u ag vd c.eb c.m vm fun i => vClip c.n false (vRound u.vxrm (wide i) (wsh i)))
  else if f6 = 0x2F then need wideOk (vBody u ag vd c.eb c.m vm fun i => vClip c.n true (vRound u.vxrm (signed (2 * c.n) (wide i)) (wsh i)))
  else if (f6 = 0x30 ∨ f6 = 0x31) ∧ vec then
    let ext := fun (x : Nat) => if f6 = 0x30 then x else twos (2 * c.n) (signed c.n x)
    need (vGroup vs2 c.m && decide (c.eb ≤ 4) && u.vstart == 0) (vScalar u ag vd (2 * c.eb)
      ((vActive u vm).foldl (fun x i => (x + ext (a i)) % 2 ^ (2 * c.n)) (vEl u vs1 (2 * c.eb) 0)) 0)
  else if (vInt u c.n f6 0 0).isSome then need ok (vBody u ag vd c.eb c.m vm fun i => (vInt u c.n f6 (a i) (b i)).getD (0, 0))
  else none

/-- The mask-register operations of OPM. -/
def vLogic (f6 : Nat) (a b : Bool) : Bool :=
  match f6 with
  | 0x18 => a && !b
  | 0x19 => a && b
  | 0x1A => a || b
  | 0x1B => a != b
  | 0x1C => a || !b
  | 0x1D => !(a && b)
  | 0x1E => !(a || b)
  | _ => a == b

/-- The mask units VMSBF, VMSOF, VMSIF, VIOTA and VID. -/
def vMunary (u : Thread) (ag : Nat → Bool) (vd vs1 vs2 : Nat) (vm : Bool) : Option Thread :=
  let c := vCfg u
  let on := fun i => vOn u vm i && vBit u vs2 i
  let first := ((List.range u.vl).find? on).getD u.vl
  let free := u.vstart == 0 && (vm || vd != 0)
  match vs1 with
  | 1 => need (free && vd != vs2) (vMask u ag vd vm fun i => (decide (i < first), 0))
  | 2 => need (free && vd != vs2) (vMask u ag vd vm fun i => (decide (i = first), 0))
  | 3 => need (free && vd != vs2) (vMask u ag vd vm fun i => (decide (i ≤ first), 0))
  | 16 => need (free && vGroup vd c.m && !vMeet vd (vRegs c.m) vs2 1)
      (vBody u ag vd c.eb c.m vm fun i => (((List.range i).filter on).length, 0))
  | 17 => need (vs2 == 0 && vGroup vd c.m && (vm || vd != 0)) (vBody u ag vd c.eb c.m vm fun i => (i, 0))
  | _ => none

/-- OPMVV and OPMVX. -/
def vOpm (u : Thread) (ag : Nat → Bool) (f3 f6 vd vs1 vs2 : Nat) (vm : Bool) : Option Thread :=
  let c := vCfg u
  let vec := decide (f3 = 2)
  let x := rvX u vs1
  let a := fun i => vEl u vs2 c.eb i
  let b := fun i => if vec then vEl u vs1 c.eb i else x % 2 ^ c.n
  let ok := vRegsOk c vd vs1 vs2 vec vm
  let wideSrc := decide (0x34 ≤ f6 ∧ f6 ≤ 0x37)
  if f6 ≤ 7 then
    need (vec && vGroup vs2 c.m && u.vstart == 0)
      (vScalar u ag vd c.eb ((vActive u vm).foldl (fun s i => vRedStep c.n f6 s (a i)) (vEl u vs1 c.eb 0)) 0)
  else if f6 = 0x0E then
    need (!vec && ok && vApart c vd vs2) (vBody u ag vd c.eb c.m vm fun i => (if i = 0 then x % 2 ^ c.n else a (i - 1), 0))
  else if f6 = 0x0F then
    need (!vec && ok) (vBody u ag vd c.eb c.m vm fun i =>
      (if i + 1 = u.vl then x % 2 ^ c.n else if i + 1 < c.mx then a (i + 1) else 0, 0))
  else if f6 = 0x10 ∧ vec then
    if vs1 = 0 then need vm (vEnd (rvSetX u vd (twos 64 (signed c.n (vEl u vs2 c.eb 0)))))
    else
      let on := (vActive u vm).filter (vBit u vs2)
      if vs1 = 16 then need (u.vstart == 0) (rvSetX u vd on.length)
      else if vs1 = 17 then need (u.vstart == 0) (rvSetX u vd (match on.head? with | some i => i | none => 2 ^ 64 - 1))
      else none
  else if f6 = 0x10 then need (vm && vs2 == 0) (if u.vl ≤ u.vstart then vEnd u else vScalar u ag vd c.eb x 0)
  else if f6 = 0x12 ∧ vec then
    let k := 2 ^ (4 - vs1 / 2)
    let ext := fun (v : Nat) => if vs1 % 2 = 0 then v else twos c.n (signed (c.n / k) v)
    need (decide (2 ≤ vs1 ∧ vs1 ≤ 7 ∧ k ≤ c.eb ∧ k ≤ c.m) && vGroup vd c.m && vGroup vs2 (c.m / k) && vLap vd c.eb c.m vs2 (c.eb / k) (c.m / k) &&
      (vm || vd != 0)) (vBody u ag vd c.eb c.m vm fun i => (ext (vEl u vs2 (c.eb / k) i), 0))
  else if f6 = 0x14 ∧ vec then vMunary u ag vd vs1 vs2 vm
  else if f6 = 0x17 then
    let on := (List.range u.vl).filter (vBit u vs1)
    need (vec && vm && u.vstart == 0 && vGroup vd c.m && vGroup vs2 c.m && vApart c vd vs2 && !vMeet vd (vRegs c.m) vs1 1)
      (if u.vl = 0 then vEnd u else vWrite u ag vd c.eb c.m true on.length fun i => (a ((on[i]?).getD 0), 0))
  else if 0x18 ≤ f6 ∧ f6 ≤ 0x1F then
    need (vec && vm) (vMask u ag vd true fun i => (vLogic f6 (vBit u vs2 i) (vBit u vs1 i), 0))
  else if 0x30 ≤ f6 then
    let m2 := if wideSrc then 2 * c.m else c.m
    let e2 := if wideSrc then 2 * c.eb else c.eb
    need (decide (c.eb ≤ 4) && vGroup vd (2 * c.m) && vGroup vs2 m2 && (!vec || vGroup vs1 c.m) && vLap vd (2 * c.eb) (2 * c.m) vs2 e2 m2 &&
        (!vec || vLap vd (2 * c.eb) (2 * c.m) vs1 c.eb c.m) && (vm || vd != 0) && (vWide c.n f6 0 0 0).isSome && (f6 != 0x3E || !vec))
      (vBody u ag vd (2 * c.eb) (2 * c.m) vm fun i => ((vWide c.n f6 (vEl u vs2 e2 i) (b i) (vEl u vd (2 * c.eb) i)).getD 0, 0))
  else need (ok && (vMul u c.n f6 0 0 0).isSome) (vBody u ag vd c.eb c.m vm fun i => ((vMul u c.n f6 (a i) (b i) (vEl u vd c.eb i)).getD 0, 0))

-- Floating point

/-- The format of `eb`-byte elements. -/
def vFmt (eb : Nat) : Option FFmt := if eb = 2 then some fHalf else if eb = 4 then some fSingle else if eb = 8 then some fDouble else none

/-- A fused multiply-add of OPF by funct6: the multiplicands, the addend and the signs. -/
def vFma (f : FFmt) (rm f6 a b d : Nat) : Nat × Nat :=
  let v := fDecode f
  let (p, q) := if f6 < 0x2C then (v d, v a) else (v a, v d)
  let negP := f6 = 0x29 ∨ f6 = 0x2B ∨ f6 = 0x2D ∨ f6 = 0x2F
  let negQ := f6 = 0x29 ∨ f6 = 0x2A ∨ f6 = 0x2D ∨ f6 = 0x2E
  fFma f rm (if negP then (v b).neg else v b) p (if negQ then q.neg else q)

/-- The single-width operations of OPF that give an element. -/
def vFloat (f : FFmt) (rm f6 a b d : Nat) : Option (Nat × Nat) :=
  let x := fDecode f a
  let y := fDecode f b
  match f6 with
  | 0x00 => some (fAdd f rm x y)
  | 0x02 => some (fAdd f rm x y.neg)
  | 0x27 => some (fAdd f rm y x.neg)
  | 0x04 => some (fMinMax f false a b)
  | 0x06 => some (fMinMax f true a b)
  | 0x08 => some (fSgnj f 0 a b, 0)
  | 0x09 => some (fSgnj f 1 a b, 0)
  | 0x0A => some (fSgnj f 2 a b, 0)
  | 0x20 => some (fDiv f rm x y)
  | 0x21 => some (fDiv f rm y x)
  | 0x24 => some (fMul f rm x y)
  | _ => if 0x28 ≤ f6 ∧ f6 ≤ 0x2F then some (vFma f rm f6 a b d) else none

/-- The comparisons of OPF. -/
def vFcmp (f : FFmt) (f6 a b : Nat) : Option (Bool × Nat) :=
  let x := fDecode f a
  let y := fDecode f b
  match f6 with
  | 0x18 => some (fEq x y)
  | 0x19 => some (fLe x y)
  | 0x1B => some (fLt x y)
  | 0x1C => some (!(fEq x y).1, (fEq x y).2)
  | 0x1D => some (fLt y x)
  | 0x1F => some (fLe y x)
  | _ => none

/-- The widening operations of OPF: operands given as values, the sum exact before one rounding in the wide format. -/
def vFwide (g : FFmt) (rm f6 : Nat) (x y d : FVal) : Option (Nat × Nat) :=
  match f6 with
  | 0x30 | 0x34 => some (fAdd g rm x y)
  | 0x32 | 0x36 => some (fAdd g rm x y.neg)
  | 0x38 => some (fMul g rm x y)
  | 0x3B | 0x3C => some (fFma g rm x y d)
  | 0x3D => some (fFma g rm x.neg y d.neg)
  | 0x3E => some (fFma g rm x y d.neg)
  | 0x3F => some (fFma g rm x.neg y d)
  | _ => none

/-- The steps of the floating-point reductions, in element order from 0 for the unordered sum too (08 R186). -/
def vFred (f : FFmt) (rm f6 : Nat) (s : Nat × Nat) (a : Nat) : Nat × Nat :=
  let r := if f6 = 5 then fMinMax f false s.1 a else if f6 = 7 then fMinMax f true s.1 a else fAdd f rm (fDecode f s.1) (fDecode f a)
  (r.1, s.2 ||| r.2)

/-- The conversions of VFUNARY0 by vs1: widths of source and destination relative to SEW, and the element's conversion. -/
def vFcvt (eb rm vs1 : Nat) : Option (Nat × Nat × (Nat → Nat × Nat)) :=
  let k := vs1 % 8
  let toI := fun (src : FFmt) (d : Nat) (w : Nat) => fToInt (8 * d) (decide (k % 2 = 1)) (if 6 ≤ k then 1 else rm) (fDecode src w)
  let ofI := fun (dst : FFmt) (s : Nat) (w : Nat) => fOfInt dst rm (if k = 3 then signed (8 * s) w else w)
  if vs1 < 8 then
    (vFmt eb).bind fun f => if k < 2 ∨ 6 ≤ k then some (eb, eb, toI f eb) else if k < 4 then some (eb, eb, ofI f eb) else none
  else if vs1 < 16 then
    if k < 2 ∨ 6 ≤ k then (vFmt eb).map fun f => (eb, 2 * eb, toI f (2 * eb))
    else if k < 4 then (vFmt (2 * eb)).map fun g => (eb, 2 * eb, ofI g eb)
    else if k = 4 then (vFmt eb).bind fun f => (vFmt (2 * eb)).map fun g => (eb, 2 * eb, fConvert f g rm)
    else if k = 5 ∧ eb = 2 then some (2, 4, fConvert fBrain fSingle rm) else none
  else if vs1 < 24 then
    if k < 2 ∨ 6 ≤ k then (vFmt (2 * eb)).map fun f => (2 * eb, eb, toI f eb)
    else if k < 4 then (vFmt eb).map fun g => (2 * eb, eb, ofI g (2 * eb))
    else (vFmt eb).bind fun g => (vFmt (2 * eb)).map fun f => (2 * eb, eb, fConvert f g (if k = 5 then 5 else rm))
  else if vs1 = 29 ∧ eb = 2 then some (4, 2, fConvert fSingle fBrain rm) else none

/-- The operations of VFUNARY1 by vs1. -/
def vFun1 (f : FFmt) (rm vs1 a : Nat) : Option (Nat × Nat) :=
  match vs1 with
  | 0 => some (fSqrt f rm (fDecode f a))
  | 4 => some (fRsqrt7 f a)
  | 5 => some (fRec7 f rm a)
  | 16 => some (fClass f a, 0)
  | _ => none

/-- A conversion of VFUNARY0. -/
def vCvtBody (u : Thread) (ag : Nat → Bool) (vd vs1 vs2 : Nat) (vm : Bool) : Option Thread :=
  let c := vCfg u
  (vFcvt c.eb u.frm vs1).bind fun (es, ed, f) =>
    let md := c.m * ed / c.eb
    let ms := c.m * es / c.eb
    need (decide (es ≤ 8 ∧ ed ≤ 8) && vGroup vd md && vGroup vs2 ms && vLap vd ed md vs2 es ms && (vm || vd != 0))
      (vBody u ag vd ed md vm fun i => f (vEl u vs2 es i))

/-- OPFVV and OPFVF. -/
def vOpf (u : Thread) (ag : Nat → Bool) (f3 f6 vd vs1 vs2 : Nat) (vm : Bool) : Option Thread :=
  let c := vCfg u
  let vec := decide (f3 = 1)
  if 5 ≤ u.frm then none
  else if f6 = 0x12 ∧ vec then vCvtBody u ag vd vs1 vs2 vm
  else (vFmt c.eb).bind fun f =>
    let rm := u.frm
    let a := fun i => vEl u vs2 c.eb i
    let b := fun i => if vec then vEl u vs1 c.eb i else rvFAs u f vs1
    let ok := vRegsOk c vd vs1 vs2 vec vm
    let maskOk := vGroup vs2 c.m && (!vec || vGroup vs1 c.m) && vLap vd 0 8 vs2 c.eb c.m && (!vec || vLap vd 0 8 vs1 c.eb c.m)
    let vfOnly := decide (f6 ∈ [0x0E, 0x0F, 0x17, 0x1D, 0x1F, 0x21, 0x27])
    if vfOnly && vec then none
    else if f6 = 0x0E then need (ok && vApart c vd vs2) (vBody u ag vd c.eb c.m vm fun i => (if i = 0 then b 0 else a (i - 1), 0))
    else if f6 = 0x0F then
      need ok (vBody u ag vd c.eb c.m vm fun i => (if i + 1 = u.vl then b 0 else if i + 1 < c.mx then a (i + 1) else 0, 0))
    else if f6 = 0x10 ∧ vec then need (vm && vs1 == 0) (vEnd (rvSetF u vd c.n (a 0)))
    else if f6 = 0x10 then need (vm && vs2 == 0) (if u.vl ≤ u.vstart then vEnd u else vScalar u ag vd c.eb (b 0) 0)
    else if f6 = 0x13 then
      need (vec && vRegsOk c vd 0 vs2 false vm && (vFun1 f rm vs1 0).isSome) (vBody u ag vd c.eb c.m vm fun i => (vFun1 f rm vs1 (a i)).getD (0, 0))
    else if f6 = 0x17 then
      if vm then need (ok && vs2 == 0) (vBody u ag vd c.eb c.m true fun i => (b i, 0))
      else need ok (vBody u ag vd c.eb c.m true fun i => (if vBit u 0 i then b i else a i, 0))
    else if f6 ∈ [1, 3, 5, 7] then
      let r := (vActive u vm).foldl (fun s i => vFred f rm f6 s (a i)) (vEl u vs1 c.eb 0, 0)
      need (vec && vGroup vs2 c.m && u.vstart == 0) (vScalar u ag vd c.eb r.1 r.2)
    else if 0x18 ≤ f6 ∧ f6 ≤ 0x1F then
      need (maskOk && (vFcmp f f6 0 0).isSome) (vMask u ag vd vm fun i => (vFcmp f f6 (a i) (b i)).getD (false, 0))
    else if f6 = 0x31 ∨ f6 = 0x33 then
      (vFmt (2 * c.eb)).bind fun g =>
        let r := (vActive u vm).foldl (fun (s : Nat × Nat) i =>
          let z := fAdd g rm (fDecode g s.1) (fDecode f (a i))
          (z.1, s.2 ||| z.2)) (vEl u vs1 (2 * c.eb) 0, 0)
        need (vec && vGroup vs2 c.m && u.vstart == 0) (vScalar u ag vd (2 * c.eb) r.1 r.2)
    else if 0x30 ≤ f6 then
      (vFmt (2 * c.eb)).bind fun g =>
        let wideSrc := decide (f6 = 0x34 ∨ f6 = 0x36)
        let m2 := if wideSrc then 2 * c.m else c.m
        let e2 := if wideSrc then 2 * c.eb else c.eb
        let nf := if f6 = 0x3B then fBrain else f
        let x := fun i => fDecode (if wideSrc then g else nf) (vEl u vs2 e2 i)
        let y := fun i => fDecode nf (if vec then vEl u vs1 c.eb i else rvFAs u nf vs1)
        let d := fun i => fDecode g (vEl u vd (2 * c.eb) i)
        need (vGroup vd (2 * c.m) && vGroup vs2 m2 && (!vec || vGroup vs1 c.m) && vLap vd (2 * c.eb) (2 * c.m) vs2 e2 m2 &&
            (!vec || vLap vd (2 * c.eb) (2 * c.m) vs1 c.eb c.m) && (vm || vd != 0) && (f6 != 0x3B || c.eb == 2) &&
            (vFwide g rm f6 (.inf false) (.inf false) (.inf false)).isSome)
          (vBody u ag vd (2 * c.eb) (2 * c.m) vm fun i => (vFwide g rm f6 (x i) (y i) (d i)).getD (0, 0))
    else need (ok && (vFloat f rm f6 0 0 0).isSome) (vBody u ag vd c.eb c.m vm fun i => (vFloat f rm f6 (a i) (b i) (vEl u vd c.eb i)).getD (0, 0))

/-- A vector instruction of OP-V; none: illegal. `ag` chooses, element by element, what an agnostic element holds. -/
def vExec (u : Thread) (ag : Nat → Bool) (f3 f6 vd vs1 vs2 : Nat) (vm : Bool) : Option Thread :=
  if u.vill then none
  else if f3 = 0 ∨ f3 = 3 ∨ f3 = 4 then vOpi u ag f3 f6 vd vs1 vs2 vm
  else if f3 = 2 ∨ f3 = 6 then vOpm u ag f3 f6 vd vs1 vs2 vm
  else vOpf u ag f3 f6 vd vs1 vs2 vm

end Sys2Proof.Machine
end

