-- ==== Sys2Proof/Machine/Memory.lean ====
section
/-! DEFINITION. The galley's address map and the memories behind it (02 R37 to R39, 08 R203, R204), thread registers, thread faults
(08 R191, R192). -/

namespace Sys2Proof.Machine

-- Threads

/-- The key of a thread's self-brake (08 R188): its group's start and its context. -/
def paceKey (s : State) (t : ThreadRef) : Nat := (thrOf s t).run * 131072 + thrKey t

/-- The job block of a thread. -/
def blockOfThr (s : State) (t : ThreadRef) : Nat := (imgOf s (thrOf s t).image).owner

/-- An integer register; x0 reads 0. -/
def getX (s : State) (t : ThreadRef) (r : Nat) : Nat := if r = 0 then 0 else (Tab.get 0 (thrOf s t).x r).toNat

/-- Write an integer register; x0 discards. -/
def setX (s : State) (t : ThreadRef) (rd v : Nat) : State :=
  if rd = 0 then s else updThr s t fun u => { u with x := Tab.set 0 u.x rd (BitVec.ofNat 64 v) }

/-- Put a thread to sleep. -/
def sleepIn (s : State) (t : ThreadRef) (why : Sleep) : State := updThr s t fun u => { u with sleep := why, since := s.now }

/-- A thread fault (08 R192): the block goes to Faulted with GALLEY_FAULT; no other fault falls in the same cycle (log 18). -/
def threadFault (s : State) (t : ThreadRef) (cause addr : Nat) : State :=
  let u := thrOf s t
  faultBlock s (blockOfThr s t) evGalleyFault [u.image, u.entry, t.die, t.cluster, t.core, t.thread, cause, u.pc, addr, 0]

/-- Give loaded bytes to their destination; a floating-point register is boxed (08 R185). -/
def loadDest (s : State) (t : ThreadRef) (d : Dest) (data : List Byte) : State :=
  let n := 8 * data.length
  let v := ofLe data
  match d with
  | .x rd sgn => setX s t rd (if sgn then twos 64 (signed n v) else v)
  | .f rd => updThr s t fun u => rvSetF u rd n v
  | .v runs => updThr s t fun u => { u with v := (runs.foldl (fun (x : Tab (BitVec 512) × List Byte) r =>
      ((List.range r.2).foldl (fun v i => vPut v (r.1 + i) 1 ((x.2[i]?).getD 0).toNat) x.1, x.2.drop r.2)) (u.v, data)).1 }

-- The address map (02 R37, R39)

/-- Where a galley address leads: keys of the memories; a larder address with the window that a global address was decoded by. -/
inductive Place where
  | scratch (key : Nat)
  | cmem (key : Nat) (own : Bool)
  | slotMem (die slot off : Nat)
  | cslot (k off : Nat)
  | portBuf (off : Nat)
  | larder (a : Nat) (win : Option Nat)
  | remote (epa off : Nat)
  | bad
  deriving DecidableEq, Repr

/-- The cluster index of the module: 98 per die. -/
def clusterKey (die cluster : Nat) : Nat := 98 * die + cluster

/-- Keys of a core's scratch (16 KiB) and a cluster's memory (2 MiB). -/
def scratchKey (t : ThreadRef) (off : Nat) : Nat := (clusterKey t.die t.cluster * 64 + t.core) * 16384 + off
def cmemKey (die cluster off : Nat) : Nat := clusterKey die cluster * 2097152 + off

/-- The place of a local offset for a thread (02, table "Galley local map"). -/
def localPlace (s : State) (t : ThreadRef) (o : Nat) : Place :=
  if o < 0x4000 then .scratch (scratchKey t o)
  else if 0x100000 ≤ o ∧ o < 0x300000 then .cmem (cmemKey t.die t.cluster (o - 0x100000)) true
  else if 0x100000000 ≤ o ∧ o < 0x140000000 then
    let r := o - 0x100000000
    let d := r / 0x10000000
    let c := r % 0x10000000 / 0x200000
    if c < 98 then .cmem (cmemKey d c (r % 0x200000)) (decide (d = t.die ∧ c = t.cluster)) else .bad
  else if 0x200000000 ≤ o ∧ o < 0x210000000 then
    let r := o - 0x200000000
    let n := r % 0x4000000 / 0xA000
    if n < 1600 then .slotMem (r / 0x4000000) n (r % 0x4000000 % 0xA000) else .bad
  else if 0x300000000 ≤ o ∧ o < 0x300020000 then .cslot ((o - 0x300000000) / 8) (o % 8)
  else if 0x400000000 ≤ o ∧ o < 0x410000000 then
    let r := (o - 0x400000000) % 0x200000
    if r < 0x180000 then .portBuf (o - 0x400000000) else .bad
  else if 0x10000000000 ≤ o ∧ o < 0x10000000000 + capGib s * gib then .larder (o - 0x10000000000) none
  else .bad

/-- The place of a galley address (02 R37, R39): the own EPA decodes through the windows. -/
def placeOf (s : State) (t : ThreadRef) (a : Nat) : Place :=
  let hi := a / 2 ^ 48
  let lo := a % 2 ^ 48
  if hi = 0x7FFF then localPlace s t lo
  else if hi = ownEpa s then
    match winAt s lo with
    | some (k, w) => .larder (winAddr w lo) (some k)
    | none => .bad
  else if validEpa hi then .remote hi lo
  else .bad

/-- Whether window `k` gives block `b` a larder span (02 R34, R35): write_en to write, atomic_en for an AMO (DESIGN CHOICE: an AMO asks for
atomic_en alone; log 17). Kind 0 reads, 1 writes, 2 is an AMO. -/
def winMay (s : State) (b a n kind k : Nat) : Bool :=
  let w := winOf s k
  winEnable w && decide (winOwner w = b) && isLoaded s b && (decide (kind ≠ 1) || winWrite w) && (decide (kind ≠ 2) || winAtomic w) &&
    decide (winLarder w * gib ≤ a ∧ a + n ≤ (winLarder w + winSize w) * gib)

/-- Whether a block may reach a larder span (02 R38, R39, R50): by a global address through the window that decodes it; by a local address in its
heap grants and its windows. DESIGN CHOICE: the whole span lies in one grant or one window; the spec
does not say whether two that meet serve one access (log 17). -/
def lardMay (s : State) (b a n kind : Nat) : Option Nat → Bool
  | some k => winMay s b a n kind k
  | none =>
    (s.img.any fun e => decide (e.2.st ≠ 0 ∧ e.2.owner = b ∧ e.2.heapBase ≤ a ∧ a + n ≤ e.2.heapBase + e.2.heapBytes)) ||
    (List.range 64).any (winMay s b a n kind)

/-- Whether a larder span lies in the payload of the thread's own launch entry, to which its a3 leads: after the call's header (08 R198). -/
def ownPayload (s : State) (t : ThreadRef) (a n : Nat) : Bool :=
  let i := imgOf s (thrOf s t).image
  i.queue.any fun l => decide (l.id = (thrOf s t).launch) && (match l.payload with
    | some p => decide (i.queueBase + 2112 * l.id + 32 ≤ a ∧ a + n ≤ i.queueBase + 2112 * l.id + 32 + p.length)
    | none => false)

/-- Whether a thread may reach a larder span: as its block may, and its launch's payload to read (02 R38, 08 R198). -/
def thrMay (s : State) (t : ThreadRef) (a n kind : Nat) (w : Option Nat) : Bool :=
  lardMay s (blockOfThr s t) a n kind w || (decide (kind = 0) && w.isNone && ownPayload s t a n)

-- Loads and stores of plain places

/-- A reservation's key: 8 B sets of scratch and cluster memory. -/
def resvKey : Place → Option Nat
  | .scratch k => some (k / 8)
  | .cmem k _ => some (k / 8 + 2 ^ 40)
  | _ => none

/-- A store breaks the reservations of other threads on the sets it touches (RISC-V, 08 R185). -/
def breakResv (s : State) (me : Option ThreadRef) (lo hi : Nat) : State :=
  { s with thr := Tab.mapV {} s.thr fun u => match u.resv with
      | some k => if lo ≤ k ∧ k ≤ hi then { u with resv := none } else u
      | none => u }
  |> fun s' => match me with
     | some t => updThr s' t fun u => { u with resv := (thrOf s t).resv }
     | none => s'

/-- Read `n` bytes of a place that holds plain memory. -/
def plainRead (s : State) (p : Place) (n : Nat) : List Byte :=
  match p with
  | .scratch k => Mem.read s.scratch k n
  | .cmem k _ => Mem.read s.cmem k n
  | .larder a _ => lardRead s a n
  | _ => []

/-- Write bytes to a place that holds plain memory. -/
def plainWrite (s : State) (me : Option ThreadRef) (p : Place) (bs : List Byte) : State :=
  match p with
  | .scratch k => breakResv { s with scratch := Mem.write s.scratch k bs } me (k / 8) ((k + bs.length - 1) / 8)
  | .cmem k _ => breakResv { s with cmem := Mem.write s.cmem k bs } me (k / 8 + 2 ^ 40) ((k + bs.length - 1) / 8 + 2 ^ 40)
  | .larder a _ => lardStore s a bs
  | _ => s

/-- How far place `q` lies above place `p` in the same range of the map (02 R37). -/
def placeGap : Place → Place → Option Nat
  | .scratch k, .scratch l | .cmem k _, .cmem l _ | .portBuf k, .portBuf l => if k ≤ l then some (l - k) else none
  | .slotMem d n o, .slotMem d' n' o' =>
    if d = d' ∧ 40960 * n + o ≤ 40960 * n' + o' then some (40960 * n' + o' - (40960 * n + o)) else none
  | _, _ => none

/-- Whether the `n` bytes from `a` lie in one range of the map, neighbouring clusters and slots included: the last byte's place is that far above
the first's (02 R37). -/
def spanIn (s : State) (t : ThreadRef) (a n : Nat) : Bool :=
  decide (placeGap (placeOf s t a) (placeOf s t (a + (n - 1))) = some (n - 1))

/-- Whether a thread's program may name a span of `n` bytes from `a`: scratch, cluster memories, or a larder range that its block may reach. -/
def spanOk (s : State) (t : ThreadRef) (a n kind : Nat) : Bool :=
  match placeOf s t a with
  | .scratch _ | .cmem _ _ => spanIn s t a n
  | .larder l w => thrMay s t l n kind w
  | _ => false

/-- Whether a span lies in the core's scratch or its own cluster's memory. -/
def ownMem (s : State) (t : ThreadRef) (a n : Nat) : Bool :=
  match placeOf s t a, placeOf s t (a + (n - 1)) with
  | .scratch _, _ | .cmem _ true, .cmem _ true => spanIn s t a n
  | _, _ => false

-- Instruction fetch (08 R186, R204)

/-- The index of a thread's core in the module. -/
def coreKey (t : ThreadRef) : Nat := 64 * clusterKey t.die t.cluster + t.core

/-- Whether a thread may fetch a halfword at a galley address: from scratch and from its own cluster's memory, whose other address in the map of every
cluster is not for execution (02, table "Galley local map"; 08 R186). -/
def mayFetch (a : Nat) : Bool :=
  decide (a / 2 ^ 48 = 0x7FFF) && (decide (a % 2 ^ 48 + 2 ≤ 0x4000) || decide (0x100000 ≤ a % 2 ^ 48 ∧ a % 2 ^ 48 + 2 ≤ 0x300000))

/-- The halfword of code at `a`; none outside scratch and own cluster memory. -/
def fetchHalf (s : State) (t : ThreadRef) (a : Nat) : Option Nat :=
  if mayFetch a then some (ofLe (Mem.read (Tab.get [] s.code (coreKey t)) (a % 2 ^ 48) 2)) else none

/-- The instruction word at a thread's pc: one halfword, or two. -/
def fetchIns (s : State) (t : ThreadRef) : Option Nat :=
  let pc := (thrOf s t).pc
  match fetchHalf s t pc with
  | none => none
  | some h => if insLen h = 4 then (fetchHalf s t (pc + 2)).map fun k => h + 65536 * k else some h

/-- The length of the instruction at a thread's pc. -/
def pcLen (s : State) (t : ThreadRef) : Nat := insLen ((fetchIns s t).getD 3)

/-- A thread goes on after an ecall, which is an exception and does not count as retired (08 R185, R191). -/
def resume (s : State) (t : ThreadRef) : State :=
  updThr s t fun u => { u with sleep := .none, pc := (u.pc + pcLen s t) % 2 ^ 64 }

/-- A thread's instruction retires: the thread sleeps no longer and stands before the next one. -/
def retire (s : State) (t : ThreadRef) : State :=
  updThr s t fun u => { u with sleep := .none, pc := (u.pc + pcLen s t) % 2 ^ 64, instret := (u.instret + 1) % 2 ^ 64 }

/-- Free bytes for contents that the manual does not give (log 7). -/
def freeBytes (s : State) (n : Nat) : List Byte × State :=
  let (k, s) := draw s
  ((List.range n).map (Config.freeByte k), s)

/-- The bytes of a reduction slot (02, "Galley local map"): the 40 B states of a claimed slot in exact mode; other contents are not given
by the manual (log 7). A read that runs on takes the next slot's bytes. -/
def slotBytes (s : State) (d n off len : Nat) : List Byte × State :=
  let one := fun (n off len : Nat) (s : State) =>
    match s.coll.slots.find? fun x => decide (x.key.die = d ∧ x.num = n) with
    | some x =>
      if x.elems.isEmpty ∨ off + len > 40 * x.elems.length then freeBytes s len
      else (((x.elems.flatMap accBytes).drop off).take len, s)
    | none => freeBytes s len
  let (a, s) := one n off (min len (40960 - off)) s
  if len ≤ 40960 - off then (a, s)
  else
    let (b, s) := one (n + 1) 0 (len - (40960 - off)) s
    (a ++ b, s)

/-- The payload of a response is written where TZ.SEND asked, and the thread wakes (08 R195). -/
def sendDeliver (s : State) (t : ThreadRef) (payload : List Byte) : State :=
  match (thrOf s t).sleep with
  | .send _ _ a => retire (plainWrite s none (placeOf s t a) payload) t
  | _ => s

end Sys2Proof.Machine
end

