-- ==== Sys2Proof/Machine/Larder.lean ====
section
/-! DEFINITION. Larder requests (10): the checks of a request, its parts and their performance, completion, refresh. -/

namespace Sys2Proof.Machine

-- Checks of a request (10 R250 to R255)

/-- The parameter-block kinds and the formats that each kind lists (10 R250). -/
def opWordOk (op : Nat) : Bool :=
  let k := bits op 0 4
  let f := bits op 4 4
  decide (op / 256 = 0) &&
    (if k = 1 then f == 0 || f == 1 || f == 2 || f == 12
     else if k = 2 then decide (f ≤ 12)
     else if k = 3 then f == 0 || f == 12
     else decide (k ≤ 6) && f == 0)

/-- Whether `n` bytes from `off` are zero. -/
def zeroAt (p : List Byte) (off n : Nat) : Bool := decide (getLe p off n = 0)

/-- The PAGE_GATHER parameters: list, page_shift, token, first, count (10 R253). -/
structure PageParams where
  list  : Nat
  shift : Nat
  token : Nat
  first : Nat
  count : Nat

def pageParams (p : List Byte) : PageParams := ⟨getLe p 0 6, getLe p 8 1, getLe p 10 2, getLe p 12 4, getLe p 16 4⟩

/-- Tokens per page. -/
def tpp (q : PageParams) : Nat := 2 ^ q.shift / max 1 q.token

/-- Whether a WRITE's operation word and payload satisfy R250 and R253. -/
def writeOpOk (h : Header) (p : List Byte) : Bool :=
  let op := h.op.toNat
  let k := bits op 0 4
  let f := bits op 4 4
  let e := bits h.chunk.toNat 0 13
  let length := getLe p 8 4
  let lenOk := decide (length % 32 = 0 ∧ 32 ≤ length ∧ length ≤ 2 ^ 30)
  opWordOk op &&
    (if k = 1 ∨ k = 2 then
       decide (1 ≤ e) && (!isMx f || decide (e % 32 = 0)) && decide (chunkBytes f e = 32 * h.len.toNat)
     else if k = 4 then
       decide (h.len = 1) && decide (getLe p 0 6 % 32 = 0) && lenOk && zeroAt p 6 2 && zeroAt p 12 20
     else if k = 5 then decide (h.len = 1) && lenOk && zeroAt p 12 20
     else if k = 6 then
       let q := pageParams p
       decide (h.len = 1) && decide (q.list % 8 = 0) && decide (12 ≤ q.shift ∧ q.shift ≤ 21) &&
         decide (1 ≤ q.token ∧ q.token % 32 = 0 ∧ 2 ^ q.shift % (max 1 q.token) = 0) && decide (1 ≤ q.count ∧ q.count ≤ 1048576) &&
         zeroAt p 6 2 && zeroAt p 9 1 && zeroAt p 20 12
     else true)

/-- Whether an ATOMIC's code and payload satisfy R255. -/
def atomicOpOk (h : Header) (p : List Byte) : Bool :=
  let op := h.op.toNat
  atomicKnown op && (if op % 256 = 0xA then zeroAt p 16 16 else zeroAt p 8 24)

/-- The pairs of a SCATTER_ADD: index and value. -/
def scatterPairs (p : List Byte) : List (Nat × Nat) := (List.range (p.length / 8)).map fun i => (getLe p (8 * i) 4, getLe p (8 * i + 4) 4)

/-- The target spans of a request, as fabric offset and length (10 R251 step 4). -/
def targetSpans (h : Header) (p : List Byte) : List (Nat × Nat) :=
  let a := h.addr.toNat
  let t := h.typ.toNat
  let k := bits h.op.toNat 0 4
  let f := bits h.op.toNat 4 4
  let e := bits h.chunk.toNat 0 13
  if t = 1 then [(a, 32 * h.chunk.toNat)]
  else if t = 3 then [(a, atomicBytes h.op.toNat)]
  else match k with
    | 0 => [(a, 32 * h.len.toNat)]
    | 1 => [(a, e * (elemBits f / 8))]
    | 2 => [(a, 40 * e)]
    | 3 => (scatterPairs p).map fun q => (a + 4 * q.1, 4)
    | 6 => [(a, (pageParams p).count * (pageParams p).token)]
    | _ => [(a, getLe p 8 4)]

/-- What a failed larder check answers: a reason, or a crossing into a block. -/
inductive LardRefuse where
  | reason (r : Reason)
  | cross (owner : Nat)
  deriving DecidableEq, Repr

/-- Whether a span lies wholly in one enabled window of block `b`, or what refuses it (10 R251 steps 5 and 6). -/
def spanOwned (s : State) (off n b : Nat) : Option LardRefuse :=
  match winAt s off with
  | none => some (.reason .badAddr)
  | some (_, w) =>
    if !winHolds w off n then some (.reason .badAddr) else if winOwner w = b then none else some (.cross (winOwner w))

/-- The checks of 10 R251 for a request of block `b` to the module's own EPA; none: accepted. DESIGN CHOICE: an ATOMIC asks for atomic_en alone, though
it writes the window too (02 R34; log 17). -/
def lardCheck (s : State) (h : Header) (p : List Byte) (b : Nat) : Option LardRefuse :=
  let t := h.typ.toNat
  let k := bits h.op.toNat 0 4
  match winAt s h.addr.toNat with
  | none => some (.reason .badAddr)
  | some (_, w) =>
    if (t = 0 ∧ ¬ writeOpOk h p) ∨ (t = 3 ∧ ¬ atomicOpOk h p) then some (.reason .badOp)
    else if (t = 0 ∧ ¬ winWrite w) ∨ ((t = 3 ∨ (t = 0 ∧ 1 ≤ k ∧ k ≤ 3)) ∧ ¬ winAtomic w) then some (.reason .badAddr)
    else if !((targetSpans h p).all fun x => winHolds w x.1 x.2) then some (.reason .badAddr)
    else if t = 0 ∧ k = 4 then spanOwned s (getLe p 0 6) (getLe p 8 4) b
    else if t = 0 ∧ k = 6 then
      let q := pageParams p
      let lo := q.first / tpp q
      let hi := (q.first + q.count - 1) / tpp q
      spanOwned s (q.list + 8 * lo) (8 * (hi - lo + 1)) b
    else none

-- Requests and parts (10 R248, R249)

/-- The parts of a span by 256 B lines: larder address and length of each. -/
def linesOf (a n : Nat) : List (Nat × Nat) :=
  if n = 0 then []
  else (List.range ((a + n - 1) / 256 - a / 256 + 1)).map fun i =>
    let lo := max a (256 * (a / 256 + i))
    let hi := min (a + n) (256 * (a / 256 + i + 1))
    (lo, hi - lo)

/-- The line parts of a span whose first byte is byte `off` of the request's data. -/
def spanParts (id a n off : Nat) : List LPart := (linesOf a n).map fun x => { req := id, addr := x.1, off := off + (x.1 - a), len := x.2 }

/-- The parts of one accumulator state at `a`; of a state on two lines each part names the other's die (log 13). -/
def stateParts (s : State) (id a : Nat) : List LPart :=
  match spanParts id a 40 0 with
  | [p, q] => [{ p with also := some (lardDie s q.addr) }, { q with also := some (lardDie s p.addr) }]
  | ps => ps

/-- The line parts of the spans of a thread's access, whose data lie one after the other from byte `off` (08 R203). -/
def runParts (id : Nat) : List (Nat × Nat) → Nat → List LPart
  | [], _ => []
  | x :: xs, off => spanParts id x.1 x.2 off ++ runParts id xs (off + x.2)

/-- The token that a PAGE_GATHER stands at. -/
def tokenOf (r : LReq) : Nat := (pageParams r.data).first + r.idx

/-- The parts of a request's present phase: lines of its span, one per pair for SCATTER_ADD; COPY reads its source before it writes, PAGE_GATHER reads
a list entry and its token and writes it, token by token, VADD_EXACT adds element by element (10 R248, R252; log 13). -/
def partsOf (s : State) (r : LReq) : List LPart :=
  match r.kind with
  | .copy src => if r.phase = 0 then spanParts r.id src r.len 0 else spanParts r.id r.addr r.len 0
  | .pageGather =>
    let q := pageParams r.data
    if r.phase = 0 then [{ req := r.id, addr := r.base + 8 * (tokenOf r / tpp q - q.first / tpp q), off := 0, len := 8 }]
    else if r.phase = 1 then spanParts r.id r.src q.token 0
    else spanParts r.id (r.addr + r.idx * q.token) q.token 0
  | .vaddExact _ => stateParts s r.id (r.addr + 40 * r.idx)
  | .gLoad _ | .gStore => runParts r.id r.spans 0
  | .scatterAdd _ => (enum (scatterPairs r.data)).map fun e => { req := r.id, addr := r.addr + 4 * e.2.1, off := 8 * e.1, len := 4 }
  | _ => spanParts r.id r.addr r.len 0

/-- Queue the parts of a request's present phase on their dies, in address order (10 R248). -/
def queueParts (s : State) (r : LReq) : State :=
  let parts := partsOf s r
  let s := { s with lard := { s.lard with reqs := s.lard.reqs ++ [{ r with left := parts.length }] } }
  parts.foldl (fun s p => updLd s (lardDie s p.addr) fun d => { d with queue := d.queue ++ [p] }) s

/-- Enter a request. -/
def lardEnter (s : State) (r : LReq) : State :=
  queueParts { s with lard := { s.lard with nextId := s.lard.nextId + 1 } } { r with id := s.lard.nextId }

/-- The larder address of a fabric offset under the windows in effect. -/
def larderOf (s : State) (off : Nat) : Nat := match winAt s off with | some (_, w) => winAddr w off | none => 0

/-- What a fabric request does. -/
def reqKind (s : State) (h : Header) (p : List Byte) : LKind :=
  let f := bits h.op.toNat 4 4
  if h.typ.toNat = 1 then .read
  else if h.typ.toNat = 3 then .atomic (h.op.toNat % 256) (bit h.op.toNat 8)
  else match bits h.op.toNat 0 4 with
    | 0 => .write
    | 1 => .vadd f
    | 2 => .vaddExact f
    | 3 => .scatterAdd f
    | 4 => .copy (larderOf s (getLe p 0 6))
    | 5 => .fill
    | _ => .pageGather

/-- Decode a request of block `b` from port `port` as it arrives: the larder addresses of its target, of COPY's source, and of the page list, which no
later window change moves (02 R36; the list, DEDUCED, log 13). -/
def lardDecode (s : State) (port b : Nat) (p : Packet) : Option LReq :=
  (winAt s p.hdr.addr.toNat).map fun (k, w) =>
    let kind := reqKind s p.hdr p.payload
    let q := pageParams p.payload
    { id := 0, kind := kind, pkt := p, port := port, thread := none, block := b, win := k, addr := winAddr w p.hdr.addr.toNat,
      len := ((targetSpans p.hdr p.payload).map Prod.snd).headD 0, data := p.payload, left := 0,
      base := if kind = .pageGather then larderOf s (q.list + 8 * (q.first / tpp q)) else 0 }

-- Completion (10 R249, R255, 03 R68)

/-- A response to a fabric request: its fields follow 03 R57; step is the block's S (11, "The step counter"; log 17). -/
def respHeader (s : State) (d b typ : Nat) (h : Header) : Header :=
  { ownHeader s d typ 2 h.src.toNat with
    ctag := h.ctag, addr := h.addr, op := if typ = tATOMICRSP then h.op else 0,
    chunk := if typ = tREADRSP then h.chunk else 0, aux := h.seq, step := BitVec.ofNat 16 (blockOf s b).step }

/-- Send the response of a request. -/
def respond (s : State) (r : LReq) (typ : Nat) (payload : List Byte) : State :=
  let d := dieOf s r.port
  (originate s d r.block (respHeader s d r.block typ r.pkt.hdr) payload .response (port := some r.port)).2

/-- Count the payload of a response to a thread's own request into the slot of its ctag (03 R68). -/
def countRsp (s : State) (r : LReq) (n : Nat) : State :=
  match ctagSlot r.pkt.hdr.ctag.toNat with
  | some k => countPlaced s r.block k n 1
  | none => s

/-- A request whose parts have all returned (10 R249). -/
def reqDone (s : State) (r : LReq) : State :=
  match r.kind with
  | .read => match r.thread with
    | some t => countRsp (sendDeliver s t r.data) r r.data.length
    | none => respond s r tREADRSP r.data
  | .atomic _ _ => match r.thread with
    | some t => countRsp (sendDeliver s t (slice r.data 0 32)) r 32
    | none => respond s r tATOMICRSP (slice r.data 0 32)
  | .gLoad dest => match r.thread with
    | some t => retire (loadDest s t dest r.data) t
    | none => s
  | .gAmo _ rd => match r.thread with
    | some t => retire (loadDest s t (.x rd true) r.data) t
    | none => s
  | .gStore => match r.thread with
    | some t => updThr s t fun u => { u with posted := u.posted - 1 }
    | none => s
  | _ => match ctagSlot r.pkt.hdr.ctag.toNat with
    | some k => countPlaced s r.block k (32 * r.pkt.hdr.len.toNat) 1
    | none => s

/-- A request that failed: dropped with its parts; a fabric request is answered with NACK JOBFAULT (10 R262). -/
def reqFail (s : State) (r : LReq) : State :=
  let s := { s with lard := { s.lard with
    reqs := s.lard.reqs.filter fun x => decide (x.id ≠ r.id),
    dies := Tab.mapV {} s.lard.dies fun d => { d with queue := d.queue.filter fun p => decide (p.req ≠ r.id) } } }
  if r.thread.isNone ∧ r.kind ≠ .gStore then nack s r.port r.pkt.hdr.src.toNat r.pkt.hdr .jobFault else s

/-- The owner block's fault of an operation: LARDER_OP_FAULT with kind, fabric offset and index (10 R254); the request is
answered as a packet to a Faulted block (01 R24; DEDUCED, log 17). -/
def opFault (s : State) (r : LReq) (kind off i : Nat) : State := reqFail (faultBlock s r.block evLarderOp [kind, off, i]) r

/-- A page entry that PAGE_GATHER may use: the page's larder address (10 R254). -/
def pageAt (s : State) (b shift e : Nat) : Option Nat :=
  if e = 0 ∨ e % 2 ^ shift ≠ 0 then none
  else match winAt s e with
    | some (_, w) => if winOwner w = b ∧ winHolds w e (2 ^ shift) then some (winAddr w e) else none
    | none => none

/-- What follows the last part of a phase: the next phase, token or element, or none where the request is complete; a page entry that fails its check
is the answer on the right, by its index (10 R252, R254). A page's entry is read once for the tokens that it serves in a row (log 13). -/
def nextPhase (s : State) (r : LReq) : Sum (Option LReq) Nat :=
  match r.kind with
  | .copy _ => .inl (if r.phase = 0 then some { r with phase := 1 } else none)
  | .vaddExact _ => .inl (if r.idx + 1 < bits r.pkt.hdr.chunk.toNat 0 13 then some { r with idx := r.idx + 1 } else none)
  | .pageGather =>
    let q := pageParams r.data
    let j := tokenOf r / tpp q
    if r.phase = 0 then
      match pageAt s r.block q.shift (ofLe r.buf) with
      | some base => .inl (some { r with phase := 1, page := base, src := base + tokenOf r % tpp q * q.token, buf := [] })
      | none => .inr j
    else if r.phase = 1 then .inl (some { r with phase := 2 })
    else if q.count ≤ r.idx + 1 then .inl none
    else
      let r := { r with idx := r.idx + 1, buf := [] }
      .inl (some (if tokenOf r / tpp q = j then { r with phase := 1, src := r.page + tokenOf r % tpp q * q.token } else { r with phase := 0 }))
  | _ => .inl none

/-- Put returned bytes at their place in a request's data. -/
def putData (data : List Byte) (off : Nat) (bs : List Byte) : List Byte :=
  slice data 0 off ++ bs ++ data.drop (off + bs.length)

/-- One part of a request has completed, `f` applied to the request; with its last part the request goes to its next phase or completes. -/
def partDone (s : State) (id : Nat) (f : LReq → LReq) : State :=
  match s.lard.reqs.find? fun r => decide (r.id = id) with
  | none => s
  | some r =>
    let r := { f r with left := r.left - 1 }
    let rest := { s with lard := { s.lard with reqs := s.lard.reqs.filter fun x => decide (x.id ≠ id) } }
    if r.left = 0 then
      match nextPhase s r with
      | .inl (some r') => queueParts rest r'
      | .inl none => reqDone rest r
      | .inr j => opFault s r 6 (pageParams r.data).list j
    else { s with lard := { s.lard with reqs := s.lard.reqs.map fun x => if x.id = id then r else x } }

-- Execution of one part

/-- Whether a part reads what it touches (10 R262: an operation that reads a failed unit fails): all but whole stores, FILL and the writing phases. -/
def partReads (r : LReq) (p : LPart) : Bool :=
  match r.kind with
  | .write | .fill => false
  | .gStore => !decide (p.addr % 32 = 0 ∧ p.len % 32 = 0)
  | .copy _ => decide (r.phase = 0)
  | .pageGather => decide (r.phase < 2)
  | _ => true

/-- The span that a part reads: its own, or the whole of a state that lies on two dies. -/
def partSpan (r : LReq) (p : LPart) : Nat × Nat := if p.also.isSome then (r.addr + 40 * r.idx, 40) else (p.addr, p.len)

/-- The failed unit that a part meets. -/
def partFails (s : State) (r : LReq) (p : LPart) (ecc : Ecc) : Option Nat :=
  if partReads r p then
    match badIn s (partSpan r p).1 (partSpan r p).2 with
    | some u => some u
    | none => if ecc = .uncorrectable then some p.addr else none
  else none

/-- The elements that a floating-point add part touches. -/
def partElems (r : LReq) (p : LPart) : Option (Nat × List Nat) :=
  match r.kind with
  | .vadd f => some (f, (List.range (p.len / (max 1 (elemBits f / 8)))).map fun i => p.addr + i * (elemBits f / 8))
  | .scatterAdd f => some (f, [p.addr])
  | .atomic c _ => (fAddFmt c).map fun f => (f, [p.addr])
  | _ => none

/-- Count the larder choice of an add outside STEADY, on its die and in the window owner's block: one per line part, pair or FADD
(10 R257, 11 R282). -/
def partChoice (s : State) (ld b fmt : Nat) : State :=
  if isIntFmt fmt || steady s then s else updBlock (lardChoice s ld) b fun x => { x with choice := satInc 32 x.choice }

/-- VADD_EXACT's present element: its state's sum, checked under 07 R180; a state that breaks 07 R165, or a residue that differs (log 13), faults the
owner block with the element's index (10 R252, R254). -/
def exactPart (s : State) (f : Nat) (r : LReq) (c : LadleCheck) : State :=
  let a := r.addr + 40 * r.idx
  let h := r.pkt.hdr
  let v := ((decodeChunk f (bits h.chunk.toNat 0 13) r.data)[r.idx]?).getD .negZero
  let bad := opFault s r 2 h.addr.toNat r.idx
  match accOf (ofLe (lardRead s a 40)) with
  | some old => if residueMiss c r.idx old v then bad else partDone (lardStore s a (accBytes (ladleSum c r.idx old v))) r.id id
  | none => bad

/-- Perform one part (10 R252, R255, R256). -/
def partRun (s : State) (ld : Nat) (r : LReq) (p : LPart) (c : LadleCheck) : State :=
  let a := p.addr
  let got := fun (s : State) => partDone s r.id fun x => { x with buf := putData x.buf p.off (lardRead s a p.len) }
  let put := fun (bs : List Byte) => partDone (lardStore s a bs) r.id id
  match r.kind with
  | .read | .gLoad _ => partDone s r.id fun x => { x with data := putData x.data p.off (lardRead s a p.len) }
  | .write | .gStore => put (slice r.data p.off p.len)
  | .vadd f =>
    let n := elemBits f / 8
    let s := (List.range (p.len / max 1 n)).foldl (fun s i => addAt s f (a + i * n) (getLe r.data (p.off + i * n) n)) s
    partDone (partChoice s ld r.block f) r.id id
  | .scatterAdd f => partDone (partChoice (addAt s f a (getLe r.data (p.off + 4) 4)) ld r.block f) r.id id
  | .vaddExact f => exactPart s f r c
  | .copy _ => if r.phase = 0 then got s else put (slice r.buf p.off p.len)
  | .fill => put ((List.range p.len).map fun i => (r.data[(p.off + i) % 8]?).getD 0)
  | .pageGather => if r.phase < 2 then got s else put (slice r.buf p.off p.len)
  | .atomic code wide =>
    let n := p.len
    let old := ofLe (lardRead s a n)
    let v := getLe r.data 0 n
    let s := match fAddFmt code with
      | some f => partChoice (addAt s f a v) ld r.block f
      | none => lardStore s a (leBytes n (atomicInt code (if wide then 64 else 32) old v (getLe r.data 8 n)))
    partDone s r.id fun x => { x with data := leBytes n old }
  | .gAmo op _ =>
    let n := p.len
    let old := ofLe (lardRead s a n)
    let s := lardStore s a (leBytes n (atomicInt (amoCode op) (8 * n) old (getLe r.data 0 n) 0))
    partDone s r.id fun x => { x with data := leBytes n old }

/-- Whether a part at the front of die `ld`'s queue waits: for exact cells (10 R260), or for the other part of its state to reach the front of the
other die's queue (log 13). -/
def partWaits (s : State) (ld : Nat) (r : LReq) (p : LPart) : Bool :=
  (match partElems r p with | some (f, as) => cellsWait s ld f as | none => false) ||
  (match p.also with
    | some d => decide ((((ldOf s d).queue.head?).map LPart.req) ≠ some r.id)
    | none => false)

/-- Take a part, with the other part of its state, off its die's queue. -/
def partPop (s : State) (ld : Nat) (p : LPart) : State :=
  let drop := fun (s : State) (d : Nat) => updLd s d fun d => { d with queue := d.queue.tail }
  match p.also with
  | some d => partDone (drop (drop s ld) d) p.req id
  | none => drop s ld

/-- LARDER_REQUEST_PART (10 R248): die `ld` performs the part at the front of its request queue; a part that must wait stays there. -/
def lardPart (s : State) (ld : Nat) (ecc : Ecc) (c : LadleCheck) : State :=
  match (ldOf s ld).queue with
  | [] => s
  | p :: _ =>
    match s.lard.reqs.find? fun r => decide (r.id = p.req) with
    | none => updLd s ld fun d => { d with queue := d.queue.tail }
    | some r =>
      if partWaits s ld r p then s
      else
        let pop := partPop s ld p
        match partFails s r p ecc with
        | some u => reqFail (ueFail pop u r.block) r
        | none => partRun (if ecc = .corrected ∧ partReads r p then ceCount pop p.addr else pop) ld r p c

def execLarderRequestPart (ld : Nat) (ecc : Ecc) (s : State) (check : LadleCheck := .ok) : Host.Outcome State Fault Refusal :=
  onUnit (decide (ld < ldCount s)) s fun s => if dpRuns s then lardPart s ld ecc check else s

/-- Whether a port's local path holds a request whose part waits for exact cells (10 R260). -/
def cellsHold (s : State) (port : Nat) : Bool :=
  s.lard.dies.any fun d => match d.2.queue.head? with
    | some p => s.lard.reqs.any fun r => decide (r.id = p.req ∧ r.port = port) && r.thread.isNone &&
        (match partElems r p with | some (f, as) => cellsWait s d.1 f as | none => false)
    | none => false

/-- REFRESH_SLOT (10 R264, R265): each waiting access counts one stall; in every 512th slot of the pseudo-channel a unit is scrubbed, and one that
has failed, now or before, gives LARDER_UE. -/
def refreshSlot (s : State) (stack pc waiting scrubAddr : Nat) (ecc : Ecc) : State :=
  let s := updLd s (stack / 2) fun d => { d with stalls := satAdd 32 d.stalls waiting }
  let k := 32 * stack + pc
  let n := (Tab.get 0 s.lard.slots k + 1) % 512
  let s := { s with lard := { s.lard with slots := Tab.set 0 s.lard.slots k n } }
  let u := scrubAddr / 32 * 32
  if n = 0 ∧ lardStack s scrubAddr = stack ∧ lardPc s scrubAddr = pc then
    if ecc = .uncorrectable ∨ s.lard.badUnits.contains u then emit (ueCount s u) evLarderUe (ueItems s u)
    else if ecc = .corrected then ceCount s scrubAddr else s
  else s

def execRefreshSlot (stack pc waiting scrubAddr : Nat) (ecc : Ecc) (s : State) : Host.Outcome State Fault Refusal :=
  onUnit (decide (stack < stackCount s ∧ pc < 32)) s fun s =>
    if dpPowered s then refreshSlot s stack pc waiting scrubAddr ecc else s

end Sys2Proof.Machine
end

