-- ==== Sys2Proof/Machine/Launch.lean ====
section
/-! DEFINITION. Launch queues and step closes (08 R196, R197, R201, 11 R272). -/

namespace Sys2Proof.Machine

/-- The lowest free entry of an image's launch queue. -/
def freeEntry (i : Image) : Nat :=
  ((List.range (i.queue.length + 1)).find? fun k => !(i.queue.any fun l => decide (l.id = k))).getD 0

/-- Larder address of an entry of a launch queue (10 R246: 2,112 B each). -/
def entryAddr (i : Image) (k : Nat) : Nat := i.queueBase + 2112 * k

/-- Queue a launch in an image's queue (08 R196, R197); none where the queue is full. -/
def queueLaunch (s : State) (img : Nat) (l : Launch) : Option State :=
  let i := imgOf s img
  if i.depth ≤ i.queue.length then none
  else some (updImg s img fun i => { i with queue := i.queue ++ [{ l with id := freeEntry i }] })

/-- Queue a GALLEY_CALL: its header and payload go into the queue entry (08 R196). -/
def queueCall (s : State) (img entry : Nat) (p : Packet) : Option State :=
  let i := imgOf s img
  let l : Launch := { id := 0, entry := entry, a0 := p.hdr.addr.toNat, a1 := p.hdr.chunk.toNat, a2 := p.hdr.src.toNat,
                      payload := some p.payload, key := p.hdr.src.toNat + p.hdr.seq.toNat }
  (queueLaunch s img l).map fun s => lardStore s (entryAddr i (freeEntry i)) (headerBytes p.hdr ++ p.payload)

-- STG_GAL_BIND (08 R197, R207)

def bindWord (s : State) (h : Nat) : Nat := regAt s (0x50034000 + 4 * h) 0

/-- The bound launch of harness `h` with a trigger (08 R197): a full queue faults the owner block with GALLEY_QUEUE_FULL. DESIGN CHOICE: a harness
that takes another owner block after its bind was written launches no image of the first (08 R207; log 18). -/
def boundLaunch (s : State) (h trigger step chunk : Nat) : State :=
  let w := bindWord s h
  if bit w 0 && decide (bits w 1 1 = trigger ∧ (imgOf s (bits w 16 10)).owner = harnOwner s h) then
    let l : Launch := { id := 0, entry := bits w 8 6, a0 := step, a1 := chunk, a2 := h, key := step + chunk }
    (queueLaunch s (bits w 16 10) l).getD (faultBlock s (harnOwner s h) evGalleyFull [])
  else s

-- Step closes (11 R272)

/-- A close request for `v`: a pending value rises to the higher of the two. -/
def closeReq (s : State) (b v : Nat) : State :=
  updBlock s b fun x => { x with close := some (match x.close with | some u => max u v | none => v) }

def stepSrc (s : State) (b : Nat) : Nat := regAt s (0x50006008 + 0x10 * b) 0

/-- Harness `h` has formed step `v`: a close request where its owner block's source is this harness (11 R272). -/
def harnClose (s : State) (h v : Nat) : State :=
  let b := harnOwner s h
  if bit (stepSrc s b) 0 && decide (bits (stepSrc s b) 16 10 = h) && isLoaded s b then closeReq s b v else s

end Sys2Proof.Machine
end

