-- ==== Sys2Proof/Machine/Collective.lean ====
section
/-! DEFINITION. In-network collectives (06, 07): contributions, slots, spill, leaf states, results, timers. -/

namespace Sys2Proof.Machine

-- Chunks, members and trees (06 R146 to R148)

/-- Chunks of a step of harness `h`. -/
def chunksOf (s : State) (h : Nat) : Nat := ceilDiv (harnCount s h) (max 1 (harnElems s h))

/-- Elements of chunk `c`. -/
def elemsOf (s : State) (h c : Nat) : Nat := min (harnElems s h) (harnCount s h - c * harnElems s h)

/-- Accelerator members as (rank, EPA), in list order. -/
def accelMembers (s : State) (h : Nat) : List (Nat × Nat) := (enum (harnList s h)).filter fun e => isAccel e.2

/-- Ranks of the galley members. -/
def galleyRanks (s : State) (h : Nat) : List Nat := ((enum (harnList s h)).filter fun e => decide (e.2 = ownEpa s)).map Prod.fst

/-- The planned ports of an accelerator. -/
def portsOfEpa (s : State) (e : Nat) : List Nat := (allPorts s).filter fun p => decide (plannedEpa s p = some e)

/-- The die of an accelerator's first planned port. -/
def dieOfEpa (s : State) (e : Nat) : Option Nat := ((portsOfEpa s e).head?).map (dieOf s)

/-- The leaves of a chunk's tree, in leaf order (06, "Chunks, planes and trees"). -/
def leavesOf (chunk : Nat) : List Nat := if chunk % 2 = 0 then [1, 2, 3] else [3, 0, 1]

/-- A die's expected accelerator members, fixed at load (06 R143, R148). -/
def expectOn (s : State) (h d : Nat) : Nat := ((harnOf s h).expect[d]?).getD 0

/-- The expected count of a chunk on a die (06 R148). -/
def expected (s : State) (k : CKey) : Nat :=
  if k.die ≠ treeRoot k.chunk then expectOn s k.h k.die
  else expectOn s k.h k.die + (galleyRanks s k.h).length + ((leavesOf k.chunk).filter fun d => decide (0 < expectOn s k.h d)).length

/-- Whether contributions carry a sum-check (06 R158). -/
def sumChecked (s : State) (h : Nat) : Bool := decide (harnOp s h = 0 ∧ 16 < harnN s h)

-- Slots (06 R150)

def slotAt (s : State) (k : CKey) : Option RSlot := s.coll.slots.find? fun x => decide (x.key = k)

/-- Slots that a harness holds on a die. -/
def slotsUsed (s : State) (d h : Nat) : Nat := (s.coll.slots.filter fun x => decide (x.key.die = d ∧ x.key.h = h)).length

/-- Spilled chunks of a harness on a die, in order of first arrival. -/
def spillList (s : State) (d h : Nat) : List CSpill := s.coll.spills.filter fun x => decide (x.key.die = d ∧ x.key.h = h)

/-- The lowest slot number not claimed on a die. -/
def freeSlot (s : State) (d : Nat) : Nat :=
  let used := (s.coll.slots.filter fun x => decide (x.key.die = d)).map RSlot.num
  ((List.range (used.length + 1)).find? fun n => !used.contains n).getD 0

/-- Claim a slot: every element in the negative-zero state (07 R166), timer from `t`. -/
def claim (s : State) (k : CKey) (t : Nat) : State :=
  let n := if harnOp s k.h = 0 ∧ ¬ harnFast s k.h then elemsOf s k.h k.chunk else 0
  let x : RSlot := { key := k, num := freeSlot s k.die, elems := List.replicate n .negZero, startAt := t }
  { s with coll := { s.coll with slots := s.coll.slots ++ [x] } }

def updSlot (s : State) (k : CKey) (f : RSlot → RSlot) : State :=
  { s with coll := { s.coll with slots := s.coll.slots.map fun x => if x.key = k then f x else x } }

/-- Release a slot. -/
def freeSlotAt (s : State) (k : CKey) : State :=
  { s with coll := { s.coll with slots := s.coll.slots.filter fun x => decide (x.key ≠ k) } }

/-- Count fast-mode pairings: the die's Ladle choices and the owner block's (07 R178, 11 R282). -/
def ladleChoice (s : State) (d h n : Nat) : State :=
  updBlock (updHub s d fun x => { x with ladle := (x.ladle + n) % 2 ^ 64 }) (harnOwner s h) fun x => { x with choice := satAdd 32 x.choice n }

/-- The states that an exact add leaves in a slot (07 R169, R170). -/
def ladleElems (c : LadleCheck) (olds news : List Acc) : List Acc := (enum (olds.zip news)).map fun e => ladleSum c e.1 e.2.1 e.2.2

/-- Add the items' data to a slot (07 R169, R177, R182; 06 R140 for SELECT). -/
def ladleAdd (s : State) (x : RSlot) (c : LadleCheck) (i : CItem) : State :=
  let k := x.key
  if harnOp s k.h = 1 then updSlot s k fun x => { x with cands := x.cands ++ i.cands }
  else if harnFast s k.h then
    let (p, n) := fastEnter x.pend i.fast
    ladleChoice (updSlot s k fun x => { x with pend := p }) k.die k.h n
  else
    let kk := if sumChecked s k.h then checkAdd x.k i.check x.elems i.elems else 0
    updSlot s k fun x => { x with elems := ladleElems c x.elems i.elems, k := kk }

/-- Whether the Ladle's own check of an add fails (06 R158): in exact mode of 16 or fewer members the residues of an element differ (07 R180); in fast
mode a node addition is made and its duplicate adder differs (07 R179). -/
def residueFails (s : State) (x : RSlot) (c : LadleCheck) (i : CItem) : Bool :=
  let h := x.key.h
  if harnOp s h ≠ 0 then false
  else if harnFast s h then
    (match c with | .upset _ d => decide (d ≠ 0) | _ => false) && decide (0 < (fastEnter x.pend i.fast).2)
  else decide (harnN s h ≤ 16) && (enum (x.elems.zip i.elems)).any fun e => residueMiss c e.1 e.2.1 e.2.2

/-- Add one item to its slot (06 R150): a second item of a rank faults the block, and so do the checks of the add, whose node additions in fast mode
have been made and count (07 R178, R179). -/
def slotAdd (s : State) (k : CKey) (c : LadleCheck) (i : CItem) : State :=
  match slotAt s k with
  | none => s
  | some x =>
    let b := harnOwner s k.h
    if x.seen.contains i.rank then faultBlock s b evCollDuplicate []
    else if c = .memory then faultBlock s b evCollEcc [k.die, x.num]
    else if residueFails s x c i then faultBlock (if harnFast s k.h then ladleAdd s x c i else s) b evCollResidue []
    else updSlot (ladleAdd s x c i) k fun x => { x with seen := x.seen ++ [i.rank], count := x.count + 1 }

-- Results (06 R155, R156)

/-- The receiving members: (rank, EPA) (06 R155). -/
def receiving (s : State) (h c : Nat) : List (Nat × Nat) :=
  let acc := accelMembers s h
  match harnMode s h with
  | 0 => acc
  | 1 => acc.filter fun e => decide (e.1 = harnRoot s h)
  | _ => ((acc[c / max 1 (chunksOf s h / max 1 acc.length)]?).map fun e => [e]).getD []

/-- The addr of a chunk's result (06 R156). -/
def resultAddr (s : State) (h c : Nat) : Nat :=
  let p := if harnOp s h = 1 then 8 * harnK s h else chunkBytes (harnOut s h) (harnElems s h)
  let per := max 1 (chunksOf s h / max 1 (accelMembers s h).length)
  (harnResBase s h + (if harnMode s h = 2 then c % per else c) * p) % 2 ^ 48

/-- The parts of a result of at most 2,048 B each; `n` bounds their number. -/
def partsOfResult : Nat → List Byte → List (List Byte)
  | 0, _ => []
  | n + 1, l => if l.isEmpty then [] else l.take 2048 :: partsOfResult n (l.drop 2048)

/-- The header of a COLL_RESULT copy (06 R156); step is the block's S (11, "The step counter"; log 17). -/
def resultHeader (s : State) (d h c e j : Nat) : Header :=
  { ownHeader s d tRESULT 1 e with
    ctag := BitVec.ofNat 16 (harnResSlot s h + 0x8000 * harnCnt s h), op := BitVec.ofNat 16 h,
    addr := BitVec.ofNat 48 (resultAddr s h c + 2048 * j), chunk := BitVec.ofNat 32 c,
    step := BitVec.ofNat 16 (blockOf s (harnOwner s h)).step }

/-- Why a member cannot be sent its copy now (05 R133). -/
def memberMissing (s : State) (v e : Nat) : Option Nat :=
  match routeOf s v e 0 with
  | some _ => none
  | none =>
    let w := [coordEntry s v (2 * e), coordEntry s v (2 * e + 1)]
    some (reasonCode (if w.any fun c => bit c 8 && (portOf s (bits c 0 8)).flushing then .flushed else .noRoute))

/-- The members that get their copy of a chunk's result, and the first that cannot (06 R155, R160). -/
def resultTo (s : State) (h c : Nat) : List (Nat × Nat) × Option (Nat × Nat) :=
  let v := b2n (stampOf s (treeRoot c))
  let them := receiving s h c
  (them.filter fun e => (memberMissing s v e.2).isNone, them.find? fun e => (memberMissing s v e.2).isSome)

/-- The parts of a result with their numbers. -/
def resultParts (bytes : List Byte) : List (Nat × List Byte) := enum (partsOfResult (bytes.length / 2048 + 1) bytes)

/-- Write the result of root slot `x` to the result hold, with the receivers that must acknowledge it (06 R150, R151). -/
def holdResult (s : State) (x : RSlot) (bytes : List Byte) : State :=
  let k := x.key
  let gal := if harnMode s k.h = 0 then (galleyRanks s k.h).map fun r => (65536 + r, 0) else []
  let waits := ((resultTo s k.h k.chunk).1.flatMap fun e => (resultParts bytes).map fun p => (e.2, p.1)) ++ gal
  let hold : RHold := { die := k.die, slot := x.num, h := k.h, step := k.step, chunk := k.chunk, bytes := bytes, waiting := waits }
  if waits.isEmpty then s else { s with coll := { s.coll with holds := s.coll.holds ++ [hold] } }

/-- Send the result of a chunk (06 R155, R156); a member with no usable way faults the block with COLL_SHORTFALL after the other
copies were made (R160). -/
def sendResults (s : State) (h step c : Nat) (bytes : List Byte) : State :=
  let d := treeRoot c
  let b := harnOwner s h
  let (ok, bad) := resultTo s h c
  let charge := if bad.isSome then 0xFFFF else b
  let s := ok.foldl (fun s e => (resultParts bytes).foldl (fun s p =>
    (originate s d charge (resultHeader s d h c e.2 p.1) p.2 (.result h step c p.1)).2) s) s
  match bad with
  | some e => faultBlock s b evCollShortfall [e.1, (memberMissing s (b2n (stampOf s d)) e.2).getD 0]
  | none => s

/-- A receiver has acknowledged part `j` of a result: its hold is freed with the last (06 R151). -/
def holdAcked (s : State) (h step c r j : Nat) : State :=
  let f := fun (x : RHold) => if x.h = h ∧ x.step = step ∧ x.chunk = c then
    { x with waiting := x.waiting.filter fun w => decide (w ≠ (r, j)) } else x
  { s with coll := { s.coll with holds := (s.coll.holds.map f).filter fun x => !x.waiting.isEmpty } }

/-- base_step advances while every chunk of it has its result formed, each counted once (06 R147); `n` bounds the steps. -/
def advance : Nat → State → Nat → State
  | 0, s, _ => s
  | n + 1, s, h =>
    let x := harnOf s h
    if x.loaded ∧ (x.formed.filter fun f => decide (f.1 = x.base)).length = chunksOf s h ∧ 0 < chunksOf s h then
      let v := x.base
      let s := updHarn s h fun x => { x with base := (v + 1) % 2 ^ 48, formed := x.formed.filter fun f => decide (f.1 ≠ v) }
      advance n (boundLaunch (harnClose s h v) h 1 v 0xFFFFFFFF) h
    else s

/-- Note that a chunk's result is formed (06 R147, R150). -/
def noteFormed (s : State) (k : CKey) : State :=
  advance 5 (updHarn s k.h fun y =>
    if y.loaded && !y.formed.contains (k.step, k.chunk) then { y with formed := y.formed ++ [(k.step, k.chunk)] } else y) k.h

/-- The candidates of a SELECT slot in ranked order, the first k, as records (06 R156). -/
def selectBytes (s : State) (h : Nat) (cands : List (Nat × Nat × Nat)) : List Byte :=
  let best := (sortBy (candLe (harnIn s h)) cands).take (harnK s h)
  let body := best.flatMap fun c => leBytes 4 c.2.1 ++ leBytes 4 c.2.2
  body ++ List.replicate (alignUp body.length 32 - body.length) 0

/-- The rounded result of a root slot (06 R150, 07 R172 to R178). -/
def resultBytes (s : State) (x : RSlot) : List Byte :=
  let h := x.key.h
  if harnOp s h = 1 then selectBytes s h x.cands
  else if harnFast s h then
    let v := ((fastFinish x.pend).1.getD []).flatMap fun w => leBytes 4 (fp32Canon w).toNat
    v ++ List.replicate (alignUp v.length 32 - v.length) 0
  else
    let idx := fun j => (s.mod.plane * harnCount s h + x.key.chunk * harnElems s h + j) % 2 ^ 36
    encodeChunk (harnOut s h) x.elems fun j =>
      if harnRnd s h = 1 then some (rand32 (blockOf s (harnOwner s h)).seed x.key.step h (idx j)) else none

/-- Run `f` on each item with its check, in order. -/
def eachItem (f : State → LadleCheck → CItem → List LadleCheck → State × List LadleCheck) :
    List CItem → State → List LadleCheck → State × List LadleCheck
  | [], s, cs => (s, cs)
  | i :: is, s, cs => let (s, cs) := f s (cs.headD .ok) i cs.tail; eachItem f is s cs

/-- The finishing adds of a fast slot that has its count: they count 1 each (07 R178), and a duplicate adder that differs, or an error in the slot memory
read for them, faults the block (06 R160, 07 R179). -/
def finishAdds (s : State) (x : RSlot) (c : LadleCheck) : State :=
  let n := (fastFinish x.pend).2
  let s := ladleChoice s x.key.die x.key.h n
  if n = 0 then s
  else match c with
    | .ok => s
    | .memory => faultBlock s (harnOwner s x.key.h) evCollEcc [x.key.die, x.num]
    | .upset _ d => if d = 0 then s else faultBlock s (harnOwner s x.key.h) evCollResidue []

/-- Whether the finish of a slot makes adds, which take one of the row's checks. -/
def finishing (s : State) (x : RSlot) : Bool := harnFast s x.key.h && decide (0 < (fastFinish x.pend).2)

/-- Finish a slot whose count is complete (06 R150). A leaf's finishing adds are made and its state is ready to send (07 R177, R178). A root's result is
checked, rounded once and written to the hold, and the group bound to it is queued (08 R197); its slot's release lets the first spilled chunk claim, its
items added in arrival order, which may finish in turn; then the result is sent. `cs` holds what befalls the adds of the row; `n` bounds the nesting. -/
def finish : Nat → State → CKey → List LadleCheck → State × List LadleCheck
  | 0, s, _, cs => (s, cs)
  | n + 1, s, k, cs =>
    match slotAt s k with
    | none => (s, cs)
    | some x =>
      let b := harnOwner s k.h
      if x.count ≠ expected s k ∨ x.ready then (s, cs)
      else
        let adds := finishing s x
        let s := if adds then finishAdds s x (cs.headD .ok) else s
        let cs := if adds then cs.tail else cs
        if adds && decide ((blockOf s b).st = .faulted) then (s, cs)
        else if k.die ≠ treeRoot k.chunk then (updSlot s k fun x => { x with ready := true }, cs)
        else if sumChecked s k.h && !harnFast s k.h && decide (x.k ≠ sumCheck x.elems) then (faultBlock s b evCollSumcheck [], cs)
        else
          let bytes := resultBytes s x
          let s := freeSlotAt (boundLaunch (holdResult s x bytes) k.h 0 k.step k.chunk) k
          let (s, cs) := match spillList s k.die k.h with
            | [] => (s, cs)
            | y :: _ =>
              let s := { s with coll := { s.coll with spills := s.coll.spills.filter fun z => decide (z.key ≠ y.key) } }
              eachItem (fun s c i cs => finish n (slotAdd s y.key c i) y.key cs) y.items (claim s y.key y.startAt) cs
          if (blockOf s b).st = .faulted then (s, cs) else (noteFormed (sendResults s k.h k.step k.chunk bytes) k, cs)

/-- Add an item to the slot of its chunk and finish the slot where that completes it. -/
def addItem (s : State) (k : CKey) (c : LadleCheck) (i : CItem) (cs : List LadleCheck) : State × List LadleCheck :=
  finish (s.coll.spills.length + 1) (slotAdd s k c i) k cs

-- Arrivals (06 R147, R150)

/-- An arrival at a die (06 R150): into its slot, a new slot, or the spill list. -/
def arriveOne (s : State) (k : CKey) (cs : List LadleCheck) (i : CItem) : State × List LadleCheck :=
  match slotAt s k with
  | some _ => addItem s k (cs.headD .ok) i cs.tail
  | none =>
    let l := spillList s k.die k.h
    if l.isEmpty ∧ slotsUsed s k.die k.h < harnBudget s k.h / 4 then addItem (claim s k (xTime s k.die)) k (cs.headD .ok) i cs.tail
    else if l.any fun x => decide (x.key = k) then
      ({ s with coll := { s.coll with spills := s.coll.spills.map fun x => if x.key = k then { x with items := x.items ++ [i] } else x } }, cs)
    else
      let s := updHarn s k.h fun y => { y with spill := satInc 32 y.spill }
      ({ s with coll := { s.coll with spills := s.coll.spills ++ [{ key := k, items := [i], startAt := xTime s k.die }] } }, cs)

/-- Spilled chunks of a harness claim freed slots of a die, each item added in arrival order (06 R150); `n` bounds the claims. -/
def claimSpilled : Nat → State → Nat → Nat → List LadleCheck → State × List LadleCheck
  | 0, s, _, _, cs => (s, cs)
  | n + 1, s, d, h, cs =>
    match spillList s d h with
    | [] => (s, cs)
    | x :: _ =>
      if slotsUsed s d h < harnBudget s h / 4 then
        let s := { s with coll := { s.coll with spills := s.coll.spills.filter fun y => decide (y.key ≠ x.key) } }
        let (s, cs) := eachItem (fun s c i cs => addItem s x.key c i cs) x.items (claim s x.key x.startAt) cs
        claimSpilled n s d h cs
      else (s, cs)

/-- Whether a step is in the active window of a harness (06 R147). -/
def inWindow (s : State) (h step : Nat) : Bool := decide ((step + 2 ^ 48 - (harnOf s h).base) % 2 ^ 48 < 2)

/-- Early entries whose step has come into the active window are admitted in arrival order (06 R147); `n` bounds them. -/
def admitEarly : Nat → State → Nat → List LadleCheck → State
  | 0, s, _, _ => s
  | n + 1, s, h, cs =>
    match s.coll.early.find? fun x => decide (x.key.h = h) && inWindow s h x.key.step with
    | none => s
    | some x =>
      let s := { s with coll := { s.coll with early := s.coll.early.erase x } }
      let (s, cs) := eachItem (fun s c i cs => arriveOne s x.key (c :: cs) i) x.items s cs
      admitEarly n s h cs

/-- What follows an arrival or a release: spilled chunks claim, early entries are admitted (06 R147, R150). -/
def collFollow (s : State) (d h : Nat) (cs : List LadleCheck) : State :=
  let (s, cs) := claimSpilled (s.coll.spills.length + 1) s d h cs
  admitEarly (s.coll.early.length + 1) s h cs

/-- An arrival with all that follows from it. -/
def arrive (s : State) (k : CKey) (cs : List LadleCheck) (i : CItem) : State :=
  let (s, cs) := arriveOne s k cs i
  collFollow s k.die k.h cs

/-- Whether an item would need the spill region (06 R147, R150). -/
def needsSpill (s : State) (k : CKey) : Bool :=
  !inWindow s k.h k.step ||
    ((slotAt s k).isNone && !((spillList s k.die k.h).isEmpty && decide (slotsUsed s k.die k.h < harnBudget s k.h / 4)))

/-- Whether the spill region has room for an item (06 R153). -/
def spillRoom (s : State) (i : CItem) : Bool := decide (spillCells s + itemCells i ≤ spillGib s * 4194304)

/-- Enter an item of the accepting window: early entries are held, the others arrive (06 R147). -/
def enterItem (s : State) (k : CKey) (cs : List LadleCheck) (i : CItem) : State :=
  if inWindow s k.h k.step then arrive s k cs i
  else { s with coll := { s.coll with early := s.coll.early ++ [{ key := k, items := [i], startAt := s.now }] } }

/-- The item that a contribution's payload gives (06 R139, R140; 07 R167, R177). -/
def itemOf (s : State) (h c rank check : Nat) (payload : List Byte) : CItem :=
  let e := elemsOf s h c
  let f := harnIn s h
  { rank := rank, payload := payload, check := if sumChecked s h then check % sumP else 0,
    elems := if harnOp s h = 0 ∧ ¬ harnFast s h then decodeChunk f e payload else [],
    cands := if harnOp s h = 1 then (List.range e).map fun i =>
      (rank, getLe payload (8 * i) (if f = 1 ∨ f = 2 then 2 else 4) + (if f = 1 ∨ f = 2 then 65536 * getLe payload (8 * i + 2) 2 else 0),
       getLe payload (8 * i + 4) 4) else [],
    fast := if harnOp s h = 0 ∧ harnFast s h then (List.range e).map fun i => BitVec.ofNat 32 (getLe payload (4 * i) 4) else [] }

/-- Payload bytes of a contribution's chunk (06 R139, R140). -/
def contribBytes (s : State) (h c : Nat) : Nat :=
  if harnOp s h = 1 then 8 * elemsOf s h c else chunkBytes (harnIn s h) (elemsOf s h c)

-- COLL_CONTRIB (06 R146)

/-- What becomes of a contribution. -/
inductive Taken where
  | refused (r : Reason)
  | fault (code : Nat)
  | key (k : CKey) (i : CItem)
  deriving DecidableEq, Repr

/-- Steps 1 to 5 of 06 R146 for a contribution that arrived on a die; 07 R179 for a fast harness's sum-check. -/
def contribCheck (s : State) (d : Nat) (p : Packet) : Taken :=
  let h := bits p.hdr.op.toNat 0 10
  let base := (harnOf s h).base
  let w := (p.hdr.step.toNat + 65536 - base % 65536) % 65536
  let c := p.hdr.chunk.toNat
  if !(harnOf s h).loaded then .refused .noHarness
  else if 4 ≤ w then .refused .stepWin
  else if chunksOf s h ≤ c ∨ 32 * p.hdr.len.toNat ≠ contribBytes s h c ∨ bit p.hdr.op.toNat 10 ≠ sumChecked s h then .refused .badHdr
  else if harnFast s h ∧ steady s then .refused .badOp
  else match (accelMembers s h).find? fun e => decide (e.2 = p.hdr.src.toNat) with
    | none => .fault evCollNotMember
    | some e =>
      if harnFast s h ∧ sumChecked s h ∧ sumCheck (decodeChunk 0 (elemsOf s h c) p.payload) ≠ p.hdr.aux.toNat then .fault evCollSumcheck
      else .key { die := d, h := h, step := (base + w) % 2 ^ 48, chunk := c } (itemOf s h c e.1 p.hdr.aux.toNat p.payload)

-- Leaf states (06 R149)

/-- Cells of a leaf's state on its bridge: 40 B an element, 4 B in fast mode, 8 B a SELECT candidate (06 R149, 07 R177; log 17). -/
def leafCells (s : State) (x : RSlot) : Nat :=
  let n := elemsOf s x.key.h x.key.chunk
  ceilDiv (if harnOp s x.key.h = 1 then 8 * x.cands.length else if harnFast s x.key.h then 4 * n else 40 * n) 256

/-- The item that a leaf slot's state forms. -/
def leafItem (x : RSlot) : CItem :=
  { rank := 256 + x.key.die, leaf := true, check := x.k, elems := x.elems, cands := x.cands,
    fast := (fastFinish x.pend).1.getD [] }

/-- LEAF_STATE_SEND (06 R149, R151): a ready leaf state enters the bridge queue when all its cells fit; its slot is released. An uncorrectable error in
the slot's memory faults the block with COLL_ECC (R160). -/
def leafSend (s : State) (k : CKey) (ecc : Ecc) (cs : List LadleCheck) : State :=
  match slotAt s k with
  | some x =>
    let r := treeRoot k.chunk
    if x.ready ∧ bridgeUse s k.die r + leafCells s x ≤ 512 then
      if ecc = .uncorrectable then faultBlock s (harnOwner s k.h) evCollEcc [k.die, x.num]
      else
        let s := { s with coll := { s.coll with flight := s.coll.flight ++ [(leafCells s x, k, leafItem x)] } }
        collFollow (freeSlotAt s k) k.die k.h cs
    else s
  | none => s

def execLeafStateSend (die harness step chunk : Nat) (s : State) (ecc : Ecc := .ok) (checks : List LadleCheck := []) : Host.Outcome State Fault Refusal :=
  onUnit (decide (die < 4 ∧ harness < 1024)) s fun s =>
    if dpRuns s then leafSend s { die := die, h := harness, step := step, chunk := chunk } ecc checks else s

/-- LEAF_STATE_ARRIVAL (06 R149, R150): the state sent by die `k.die` is admitted at the root; with no room to spill it waits. -/
def leafArrive (s : State) (k : CKey) (cs : List LadleCheck) : State :=
  match s.coll.flight.find? fun f => decide (f.2.1 = k) with
  | some f =>
    let r : CKey := { k with die := treeRoot k.chunk }
    if needsSpill s r && !spillRoom s f.2.2 then s
    else enterItem { s with coll := { s.coll with flight := s.coll.flight.erase f } } r cs f.2.2
  | none => s

def execLeafStateArrival (die harness step chunk : Nat) (checks : List LadleCheck) (s : State) : Host.Outcome State Fault Refusal :=
  onUnit (decide (die < 4 ∧ harness < 1024)) s fun s =>
    if dpRuns s then leafArrive s { die := die, h := harness, step := step, chunk := chunk } checks else s

-- Timers and exhaustion (06 R154, R160, R161)

/-- The ranks whose arrival a die still awaits for a chunk, as a bitmap. -/
def ranksMissing (s : State) (k : CKey) (seen : List Nat) : Nat :=
  let own := ((accelMembers s k.h).filter fun e => decide (dieOfEpa s e.2 = some k.die)).map Prod.fst
  let all := if k.die = treeRoot k.chunk then own ++ galleyRanks s k.h else own
  ((all.filter fun r => !seen.contains r).map fun r => 2 ^ r).sum

/-- COLL_TIMEOUT (06 R160, R161): the timer of a chunk on a die, which runs in the die's crossbar clock, has expired. -/
def collTimeout (s : State) (k : CKey) : State :=
  let go := fun (t : Nat) (seen : List Nat) =>
    let left := t + 1000 * harnTimeout s k.h - xTime s k.die
    let s := elapse s (if (hubOf s k.die).stretch then 2 * left else left)
    let b := harnOwner s k.h
    match (blockOf s b).st with
    | .unloaded | .faulted => s
    | _ => emitX (faultBlockK s b none) evCollTimeout b [k.step, k.chunk, k.die] (leBytes 32 (ranksMissing s k seen))
  match slotAt s k, s.coll.spills.find? fun x => decide (x.key = k) with
  | some x, _ => go x.startAt x.seen
  | none, some x => go x.startAt (x.items.map CItem.rank)
  | none, none => s

def execCollTimeout (die harness step chunk : Nat) (s : State) : Host.Outcome State Fault Refusal :=
  onUnit (decide (die < 4 ∧ harness < 1024)) s fun s => collTimeout s { die := die, h := harness, step := step, chunk := chunk }

/-- Cells of the contributions that wait on a port's local path (06 R154). -/
def waitCells (s : State) (p : Nat) : Nat :=
  ((s.localQ.filter fun w => decide (w.port = p ∧ w.pkt.hdr.typ.toNat = tCONTRIB)).map fun w => cellsOf w.pkt).sum

/-- Spill cells charged to a block, exact cells of its windows included (10 R247). -/
def spillCharge (s : State) (b : Nat) : Nat :=
  let inWin := fun a => (List.range 64).any fun k =>
    let w := winOf s k
    winEnable w && decide (winOwner w = b ∧ winLarder w * gib ≤ a ∧ a < (winLarder w + winSize w) * gib)
  4 * spillOf s (fun h => decide (harnOwner s h = b)) + (s.lard.cells.filter fun c => inWin c.1).length

/-- Whether the spill region is full: no room for a contribution of 9 cells (log 17). -/
def spillFull (s : State) : Bool := decide (spillGib s * 4194304 < spillCells s + 9)

/-- SPILL_EXHAUSTED (06 R154): the block charged with the most spill bytes is faulted, the lower ID on a tie, again after 10 µs. -/
def spillExhaust (s : State) (p : Nat) : State :=
  if spillFull s && decide (scaleCells s p (ingDivert s (dieOf s p)) < waitCells s p) then
    match minBy (fun b => -(spillCharge s b : Int)) (loadedBlocks s) with
    | some b =>
      let s := match s.coll.lastSpillFault with | some t => waitUntil s (t + 10000) | none => s
      let s := faultBlock s b evSpillExhausted []
      { s with coll := { s.coll with lastSpillFault := some s.now } }
    | none => s
  else s

def execSpillExhausted (port : Nat) (s : State) : Host.Outcome State Fault Refusal :=
  onUnit (portExists s port) s fun s => spillExhaust s port

end Sys2Proof.Machine
end

