-- ==== Sys2Proof/Machine/Crossbar.lean ====
section
/-! DEFINITION. One cell time of a crossbar (04 R88 to R96, R111): diversion, deflection, matching, cell moves, bridges, buckets, reseeding. -/

namespace Sys2Proof.Machine

-- Before the matching

/-- The trailing part of an entry that has sent no cell of a destination. -/
def waiting (e : XEntry) (x : XDest × Nat) : Bool := decide (x.2 = e.cells)

/-- The overflow state of a port as die `d` knows it: its own ports at once, others as last exchanged (04 R94). -/
def ovfSeen (s : State) (d p : Nat) : Bool :=
  if dieOf s p = d then (portOf s p).ovf else (hubOf s d).ovfView.contains p

/-- A unicast packet that waits at an input with no cell sent: its port. Copies of a multicast packet or a result divert at the egress tap of
their port, and a deflected packet nowhere (04 R92, R94). -/
def waitsFor (e : XEntry) : Option Nat :=
  match e.left, e.dests with
  | [x], [p] => if waiting e x && e.reserve.isNone then some p else none
  | _, _ => none

/-- Divert or flush the packets that stand at inputs of die `d` (04 R94, R106): a port that is not Up discards, a port in overflow
state takes them into its list while the region has room (R83). -/
def divertWaiting (s : State) (d : Nat) : State :=
  (hubOf s d).xq.foldl (fun s e =>
    match waitsFor e with
    | none => s
    | some p =>
      let drop := fun s => updHub s d fun h => { h with xq := h.xq.filter fun x => decide (x.fl.id ≠ e.fl.id) }
      if dieOf s p = d ∧ (portOf s p).stage ≠ .up then flushAt (drop s) p e.fl
      else if (ovfSeen s d p ∨ (dieOf s p = d ∧ ovfOn s p < egOcc (portOf s p) + e.cells)) ∧ ovfRoom s e.fl then divertTo (drop s) p e.fl
      else s) s

/-- Cells of port `p`'s packets in its ingress buffer, those that wait on its local path included (06 R154). -/
def ingOcc (s : State) (p : Nat) : Nat :=
  (((hubOf s (dieOf s p)).xq.filter fun e => !e.trunk && decide (e.fl.arrPort = some p)).map fun e => maxNat (e.left.map Prod.snd)).sum +
  ((s.localQ.filter fun w => decide (w.port = p)).map fun w => cellsOf w.pkt).sum

/-- Divert the longest-waiting packets of an ingress buffer above its threshold (04 R95); `n` bounds their number. -/
def divertIngress : Nat → State → Nat → State
  | 0, s, _ => s
  | n + 1, s, p =>
    if ingOcc s p > scaleCells s p (ingDivert s (dieOf s p)) then
      match (hubOf s (dieOf s p)).xq.find? fun e => !e.trunk && decide (e.fl.arrPort = some p) && (waitsFor e).isSome && ovfRoom s e.fl with
      | some e =>
        match waitsFor e with
        | some q =>
          let s := updHub s (dieOf s p) fun h => { h with xq := h.xq.filter fun x => decide (x.fl.id ≠ e.fl.id) }
          divertIngress n (divertTo s q e.fl) p
        | none => s
      | none => s
    else s

/-- One round of diversion on die `d`: the packets that wait for ports in overflow state, then those of ingress buffers above their threshold. -/
def divertRound (s : State) (d : Nat) : State :=
  (diePorts s d).foldl (fun s p => divertIngress (hubOf s d).xq.length s p) (divertWaiting s d)

/-- Diversion on die `d` (04 R94, R95): a port that enters overflow state takes every packet that waits for it in the same cell time, so the
rounds repeat until one diverts nothing; `n` bounds them. -/
def divertAll : Nat → State → Nat → State
  | 0, s, _ => s
  | n + 1, s, d =>
    let t := divertRound s d
    if (hubOf t d).xq.length = (hubOf s d).xq.length then t else divertAll n t d

/-- Diversion until nothing more diverts. -/
def divertDie (s : State) (d : Nat) : State := divertAll ((hubOf s d).xq.length + 1) s d

/-- Whether the direct bridge from `d` to `m` is busy for a packet (04 R90). -/
def bridgeBusy (s : State) (d m cells : Nat) : Bool :=
  decide (deflectDepth s d ≤ bridgeUse s d m) || decide (512 < bridgeUse s d m + cells)

/-- Whether the transit reserve of `k` for packets from `d` is empty (04 R91). -/
def reserveFree (s : State) (d k : Nat) : Bool :=
  !((hubOf s k).xq.any fun e => decide (e.reserve = some d)) && !((bridgeQ s d k).any fun b => b.final.isSome)

/-- The die a packet bound from `d` to `m` deflects through, among those not taken in this cell time (04 R91). -/
def deflectVia (s : State) (d m cells : Nat) (taken : List Nat) : Option Nat :=
  let cands := (otherDies d).filter fun k => decide (k ≠ m) && !taken.contains k &&
    decide (2 * bridgeUse s d k < deflectDepth s d) && decide (bridgeUse s d k + cells ≤ 512) && reserveFree s d k
  minBy (fun k => ((bridgeUse s d k : Nat) : Int)) cands

/-- The entry's deflection of this cell time: only a waiting packet that arrived on a port of `d`, bound for a busy bridge (04 R91, R93). -/
def tryDeflect (s : State) (d : Nat) (e : XEntry) (taken : List Nat) : Option (Nat × Nat) :=
  if e.trunk || e.noDefl || !deflectEn s d then none
  else match e.left with
    | [(.bridge m, n)] =>
      if n = e.cells ∧ e.final.isNone ∧ bridgeBusy s d m e.cells then (deflectVia s d m e.cells taken).map fun k => (k, m) else none
    | _ => none

/-- Give the waiting packets of die `d` their deflections of this cell time; a reserve goes to the first packet that asks for it in the order in
which the packets came to the inputs, and to no other in that cell time (DESIGN CHOICE, log 16: 04 R91 leaves the order open). -/
def deflectAll (s : State) (d : Nat) : State :=
  let step := fun (acc : List XEntry × List Nat) e =>
    match tryDeflect s d e acc.2 with
    | some (k, m) => (acc.1 ++ [{ e with left := [(.bridge k, e.cells)], final := some m }], k :: acc.2)
    | none => (acc.1 ++ [e], acc.2)
  let xs := ((hubOf s d).xq.foldl step ([], [])).1
  updHub s d fun h => { h with xq := xs }

/-- Take back the deflections of packets whose header was not granted (04 R91). -/
def undeflect (s : State) (d : Nat) : State :=
  updHub s d fun h => { h with xq := h.xq.map fun e =>
    match e.final, e.left with
    | some m, [(_, n)] => if n = e.cells then { e with left := [(.bridge m, n)], final := none } else e
    | _, _ => e }

-- Matching (04 R88, 05 R132)

/-- A head cell offered to an output. -/
structure XReq where
  id    : Nat
  inp   : Nat
  out   : Nat
  dest  : XDest
  trunk : Bool
  stamp : Nat
  ctl   : Bool
  port  : Nat
  multi : Bool
  ready : Bool
  deriving DecidableEq, Repr, Inhabited

/-- Whether a cell may go: a header needs room for its packet (04 R83, R88). A copy at a port diverts or flushes when it is granted; a packet that
diverts or flushes at its input does not cross (04 R94). -/
def cellEligible (s : State) (d : Nat) (e : XEntry) (x : XDest × Nat) : Bool :=
  if x.2 < e.cells then true
  else match x.1 with
    | .port p =>
      if (waitsFor e).isSome then (portOf s p).stage == .up && !diverts s p e.cells && egRoom s p e.fl
      else (portOf s p).stage != .up || (if diverts s p e.cells then ovfRoom s e.fl else egRoom s p e.fl)
    | .bridge m => decide (bridgeUse s d m + e.cells ≤ 512)

/-- The cells of an entry that have arrived and not gone to a destination (04 R83: cells cross as soon as they arrive). -/
def cellsHere (e : XEntry) (x : XDest × Nat) : Nat := e.inn - (e.cells - x.2)

/-- The head cells of an entry, by output, eligible or not: a multicast cell goes to every output not yet served before the next (05 R132). -/
def entryReqs (s : State) (d : Nat) (e : XEntry) : List XReq :=
  let top := maxNat (e.left.map Prod.snd)
  (e.left.filter fun x => decide (0 < x.2 ∧ 0 < cellsHere e x)).flatMap fun x =>
    (outputsFor s d x.1).map fun o =>
      { id := e.fl.id, inp := e.input, out := o, dest := x.1, trunk := e.trunk, stamp := e.came,
        ctl := decide (e.fl.pkt.hdr.tclass = 3), port := e.fl.arrPort.getD 0, multi := decide (1 < e.left.length),
        ready := decide (x.2 = top) && cellEligible s d e x }

/-- The request that input `i` makes to output `o` (04 R86, R88): per side the first packet (at an x2 point the port not served last), then the
earlier header of the two sides, the port side on a tie; a head cell that is not eligible makes none. DESIGN CHOICE: R86 does not say whether the ports
of a point alternate over the input or in each output's queue; each output's queue alternates, by one marker of the input (log 16). -/
def headReq (h : Hub) (rs : List XReq) (i o : Nat) : Option XReq :=
  let mine := rs.filter fun r => decide (r.inp = i ∧ r.out = o)
  let ps := mine.filter fun r => !r.trunk
  let port := match ps.find? fun r => decide (r.port + 1 ≠ Tab.get 0 h.alt i) with | some r => some r | none => ps.head?
  let head := match port, mine.find? XReq.trunk with
    | some a, some b => if b.stamp < a.stamp then some b else some a
    | some a, none => some a
    | none, b => b
  head.filter XReq.ready

/-- The cells that input `i` holds for output `o` (04 R88: the depth of its queue). DESIGN CHOICE: port side and trunk side add up, and a packet for a
bridge or an x8 port counts in each output of its group; R88 does not say (log 16). -/
def voqDepth (s : State) (d i o : Nat) : Nat :=
  (((hubOf s d).xq.filter fun e => decide (e.input = i)).map fun e =>
    ((e.left.filter fun x => (outputsFor s d x.1).contains o).map (cellsHere e)).sum).sum

/-- The state of a matching: accepted requests and the pointers. -/
structure XMatch where
  acc    : List XReq := []
  gPtr   : List Nat
  aPtr   : List Nat
  choice : Nat := 0
  deriving DecidableEq, Repr, Inhabited

/-- The grant of output `o` (04 R88, R89): tclass 3 first, then round-robin or the deepest queue; with 1 where depth deviates. Of several deepest
queues that are not the round-robin pick's, the lowest input's is taken (DESIGN CHOICE, log 16: R88 gives no rule). -/
def grantOf (h : Hub) (depth : Option (Nat → Nat → Nat)) (rs : List XReq) (m : XMatch) (o : Nat) : Option (XReq × Nat) :=
  let cands := (List.range 32).filterMap fun i => headReq h rs i o
  let cands := if cands.any XReq.ctl then cands.filter XReq.ctl else cands
  match firstFrom 32 ((m.gPtr[o]?).getD 0) fun i => cands.any fun r => decide (r.inp = i) with
  | none => none
  | some rr =>
    let pick := match depth with
      | none => rr
      | some dep =>
        let best := maxNat (cands.map fun r => dep r.inp o)
        if dep rr o < best then (((cands.filter fun r => decide (dep r.inp o = best)).map XReq.inp).head?).getD rr else rr
    (cands.find? fun r => decide (r.inp = pick)).map fun r => (r, b2n (decide (pick ≠ rr)))

/-- What input `i` accepts of its grants: the first at or after its pointer; a multicast cell accepts every grant, once per bridge (05 R132). -/
def acceptOf (m : XMatch) (grants : List XReq) (i : Nat) : List XReq :=
  let mine := grants.filter fun r => decide (r.inp = i)
  match firstFrom 32 ((m.aPtr[i]?).getD 0) fun o => mine.any fun r => decide (r.out = o) with
  | none => []
  | some o =>
    match mine.find? fun r => decide (r.out = o) with
    | none => []
    | some r =>
      if r.multi then
        (mine.filter fun x => decide (x.id = r.id)).foldl
          (fun acc x => if acc.any fun y => decide (y.dest = x.dest) then acc else acc ++ [x]) []
      else [r]

/-- One iteration (04 R88): the pointers move only in the first. -/
def iterate (h : Hub) (depth : Option (Nat → Nat → Nat)) (all : List XReq) (first : Bool) (m : XMatch) : XMatch :=
  let rs := all.filter fun r => !(m.acc.any fun a => decide (a.inp = r.inp ∨ a.out = r.out))
  let gs := (List.range 32).filterMap (grantOf h depth rs m)
  let accs := (List.range 32).flatMap (acceptOf m (gs.map Prod.fst))
  let low := fun i => ((accs.filter fun r => decide (r.inp = i)).map XReq.out).head?
  { acc := m.acc ++ accs, choice := m.choice + (gs.map Prod.snd).sum,
    gPtr := if first then (enum m.gPtr).map fun g =>
        match accs.find? fun r => decide (r.out = g.1) with | some r => (r.inp + 1) % 32 | none => g.2 else m.gPtr,
    aPtr := if first then (enum m.aPtr).map fun a => match low a.1 with | some o => (o + 1) % 32 | none => a.2 else m.aPtr }

-- Moving cells

/-- One accepted cell enters port `p`'s egress queue, its overflow list (a copy at the egress tap), or is flushed. -/
def cellToPort (s : State) (e : XEntry) (p n : Nat) : State :=
  if n = e.cells then
    if (portOf s p).stage ≠ .up then flushAt s p e.fl
    else if diverts s p e.cells then divertTo s p e.fl
    else egInsert s p e.fl 1
  else updPort s p fun q =>
    let f := fun (x : EEntry) => if x.fl.id = e.fl.id ∧ x.inn < x.cells then { x with inn := x.inn + 1 } else x
    { q with egq := q.egq.map f, ctlq := q.ctlq.map f }

/-- Whether the first cell of a copy finds no place in the port's queue: the copy is then complete at once. -/
def copyEnds (s : State) (e : XEntry) (p n : Nat) : Bool :=
  decide (n = e.cells) && (decide ((portOf s p).stage ≠ .up) || diverts s p e.cells)

/-- One accepted cell enters the transmit queue of a bridge; a header marks its packet where the queue is deep (04 R99). -/
def cellToBridge (s : State) (d m : Nat) (e : XEntry) (n : Nat) : State :=
  let q := bridgeQ s d m
  let q :=
    if n = e.cells then
      let mk := decide (deflectDepth s d ≤ bridgeUse s d m) && e.final.isNone
      q ++ [{ fl := { e.fl with pkt := marked e.fl.pkt mk }, cells := e.cells, inn := 1, out := 0, dests := e.dests, final := e.final }]
    else q.map fun b => if b.fl.id = e.fl.id then { b with inn := b.inn + 1 } else b
  updHub s d fun h => { h with bridges := Tab.set [] h.bridges m q,
                               choice := h.choice + b2n (decide (n = e.cells) && e.final.isSome) }

/-- Move the cell of an accepted request. DESIGN CHOICE: where headers accepted in one cell time have room one by one but not together, the later pairs
stay matched and their pointers move, but their cells wait; R88 does not say (log 16). -/
def moveCell (d : Nat) (s : State) (r : XReq) : State :=
  match (hubOf s d).xq.find? fun e => decide (e.fl.id = r.id) with
  | none => s
  | some e =>
    match e.left.find? fun x => decide (x.1 = r.dest) with
    | none => s
    | some (x, n) =>
      if !cellEligible s d e (x, n) then s
      else
        let last := match x with | .port p => copyEnds s e p n | .bridge _ => false
        let s := match x with
          | .port p => cellToPort s e p n
          | .bridge m => cellToBridge s d m e n
        updHub s d fun h => { h with
          alt := if r.trunk then h.alt else Tab.set 0 h.alt r.inp (r.port + 1),
          xq := h.xq.map fun y => if y.fl.id = e.fl.id then
            { y with left := y.left.map fun z => if z.1 = x then (z.1, if last then 0 else z.2 - 1) else z } else y }

/-- The first `k` cells of a packet enter the far die: the port's input for a direct packet, the transit reserve for a deflected
one, the fan-out of its group or result for a copy (04 R92, 05 R131, 06 R155). -/
def bridgeArrive (s : State) (d m : Nat) (b : BEntry) (k : Nat) : State :=
  if b.fl.pkt.hdr.mcast then replicateFar s m d b.fl k
  else if !b.fl.fan.isEmpty then resultFar s m d b.fl k
  else
    let i := trunkInput s m (bridgeIdx m d)
    match b.final with
    | some f => xInsert s m i true true b.fl [.bridge f] b.dests (some d) (some k)
    | none => xInsert s m i true true b.fl (b.dests.map XDest.port) b.dests none (some k)

/-- `k` cells of a packet cross from `d` to `m` (04 R83): its first bring its header, later ones join those that have arrived. -/
def bridgeCells (s : State) (d m : Nat) (x : BEntry × Nat) : State :=
  if x.2 = 0 then s
  else if x.1.out = 0 then bridgeArrive s d m x.1 x.2
  else updHub s m fun h => { h with xq := h.xq.map fun e =>
    if e.fl.id = x.1.fl.id ∧ e.trunk then { e with inn := min e.cells (e.inn + x.2) } else e }

/-- Take up to `n` cells off a bridge queue, in order; the answer is the rest, each packet with the cells taken of it, and their number. -/
def bridgeTake : List BEntry → Nat → List BEntry × List (BEntry × Nat) × Nat
  | [], _ => ([], [], 0)
  | b :: bs, n =>
    let k := min n (b.inn - b.out)
    if b.out + k = b.cells then
      let (r, dn, c) := bridgeTake bs (n - k)
      (r, (b, k) :: dn, c + k)
    else ({ b with out := b.out + k } :: bs, [(b, k)], k)

/-- One cell time of the bridge from `d` to `m`: 0.8 TB/s is 1,000 B per cell time (01 R10). -/
def bridgeRun (d : Nat) (s : State) (m : Nat) : State :=
  let q := bridgeQ s d m
  if q.isEmpty then updHub s d fun h => { h with credit := Tab.set 0 h.credit m 0 }
  else
    let c := Tab.get 0 (hubOf s d).credit m + 1000
    let (r, dn, k) := bridgeTake q (c / 256)
    let s := updHub s d fun h => { h with
      bridges := Tab.set [] h.bridges m r, credit := Tab.set 0 h.credit m (if k < c / 256 then 0 else c - 256 * k) }
    dn.foldl (fun s x => bridgeCells s d m x) s

/-- Refill the Brake's buckets for one cell time (04 R104): R[d] per destination, the die limit of 4,000 B. -/
def refill (s : State) (d : Nat) : State :=
  let h := hubOf s d
  let rate := fun e => (1 - Tab.get 0 h.rateCut e) *
    (match (allPorts s).find? fun p => decide (plannedEpa s p = some e) with | some p => portRate s p | none => 125)
  let tk := (h.tokens.map fun t => (t.1, t.2 - rate t.1)).filter fun t => decide (0 < t.2)
  updHub s d fun h => { h with tokens := tk, dieTok := min 4176 (h.dieTok + 250 * (dieLimitOf s : Nat)) }

/-- The pointers at an idle point under STEADY (04 R88). -/
def seedPtr (seed j : Nat) : Nat := (bits seed 0 5 + (2 * bits seed 5 5 + 1) * j) % 32

/-- Whether an input holds a cell of an entry (04 R89). -/
def holdsCell (e : XEntry) : Bool := e.left.any fun x => decide (0 < x.2 ∧ 0 < cellsHere e x)

/-- Reseed at an idle point: no cell is held at any input (04 R89, R111). -/
def reseed (s : State) (d : Nat) : State :=
  if steady s && !(hubOf s d).xq.any holdsCell then
    updHub s d fun h => { h with gPtr := (List.range 32).map fun j => seedPtr (arbSeed s d) j,
                                 aPtr := (List.range 32).map fun j => seedPtr (arbSeed s d) (32 + j) }
  else s

/-- The head cells of port `p`'s ingress buffer: for each destination, the flight of the first cell that waits and the cells still to cross
(04 R86, 05 R132). -/
def headCells (xq : List XEntry) (p : Nat) : List (XDest × Nat × Nat) :=
  (xq.filter fun e => !e.trunk && decide (e.fl.arrPort = some p)).foldl (fun acc e =>
    acc ++ ((e.left.filter fun x => decide (0 < x.2 ∧ x.2 = maxNat (e.left.map Prod.snd) ∧ 0 < cellsHere e x)).filter fun x =>
      !acc.any fun y => decide (y.1 = x.1)).map fun x => (x.1, e.fl.id, x.2)) []

/-- Count the ports whose ingress buffer held a head cell that did not cross (17 R420). -/
def countStalls (s : State) (d : Nat) (before : List XEntry) : State :=
  let xq := (hubOf s d).xq
  (diePorts s d).foldl (fun s p =>
    if (headCells before p).any fun c => xq.any fun e => decide (e.fl.id = c.2.1) && e.left.contains (c.1, c.2.2) then
      updPort s p fun q => { q with cnt := { q.cnt with stall := (q.cnt.stall + 1) % 2 ^ 64 } } else s) s

/-- The next cells of the packets whose trailer fails arrive on die `d`; with its last cell a packet is discarded at every hop (04 R83, R84). -/
def failCells (s : State) (d : Nat) : State :=
  let f := (hubOf s d).failing.map fun x => (x.1, x.2 - 1)
  let gone := (f.filter fun x => decide (x.2 = 0)).map Prod.fst
  let s := updHub s d fun h => { h with
    failing := f.filter fun x => decide (0 < x.2),
    xq := h.xq.map fun e => if !e.trunk && f.any (fun x => decide (x.1 = e.fl.id)) then { e with inn := min e.cells (e.inn + 1) } else e }
  if gone.isEmpty then s else dropFlights s fun fl => gone.contains fl.id

/-- One cell time of die `d`'s crossbar (04 R88). DESIGN CHOICE: headers that reach one port's queue in one cell time, by the two outputs of an x8 port,
stand in the order of the matching; R84 gives none (log 16). -/
def cellTime (s : State) (d : Nat) : State :=
  let s := (diePorts s d).foldl egRetry (failCells s d)
  let s := deflectAll (divertDie s d) d
  let h := hubOf s d
  let rs := h.xq.flatMap (entryReqs s d)
  let m0 : XMatch := { gPtr := h.gPtr, aPtr := h.aPtr }
  let dep := if depthMode s d then some (voqDepth s d) else none
  let m := iterate h dep rs false (iterate h dep rs false (iterate h dep rs true m0))
  let s := m.acc.foldl (moveCell d) s
  let s := undeflect (countStalls s d h.xq) d
  let s := updHub s d fun g => { g with
    gPtr := m.gPtr, aPtr := m.aPtr, choice := (g.choice + m.choice) % 2 ^ 64,
    xq := g.xq.filter fun e => e.left.any fun x => decide (0 < x.2) }
  let s := divertDie s d
  reseed (refill ((otherDies d).foldl (bridgeRun d) s) d) d

/-- CROSSBAR_CELL_TIME (04 R88): one cell time while the data plane runs. -/
def execCrossbarCellTime (die : Nat) (s : State) : Host.Outcome State Fault Refusal :=
  onUnit (decide (die < 4)) s fun s => if dpRuns s then cellTime s die else s

end Sys2Proof.Machine
end

