-- ==== Sys2Proof/Machine/Flow.lean ====
section
/-! DEFINITION. Queues over time (04, 05, 03 R79, 17 R421): transmission, the Brake, the queue-state exchange with its step boundaries, overflow,
mark depths, histograms, re-send timers, coalesced ACKs, flushes. -/

namespace Sys2Proof.Machine

-- Transmission (04 R84, R110)

/-- Whether a replay holds a port's transmitter (11 R292). -/
def replayMutes (s : State) (p : Nat) : Bool :=
  s.replay.running && (memberPorts s (ringOf s s.replay.inRing).block).contains p

/-- The line of a port takes a packet: it is brought up to now, or waited for; a SYNC begins a DATA round, after the IDLE round that may be due
(12 R300, R301, 13 R340). -/
def lineReady (s : State) (p : Nat) (sync : Bool) : State :=
  let s := if (portOf s p).tx.at_ < (portLine s p).perNs * s.now then lineFill s p else s
  let s := updTx s p fun c t => if sync then txPace c (txClose c (txPace c t)) else txPace c t
  waitUntil s (txFree (portLine s p) (portOf s p).tx)

/-- A SYNC as it is sent: it carries the axle value at its round's first symbol (03 R57, 13 R340). -/
def stamped (s : State) (pkt : Packet) : Packet :=
  if pkt.hdr.typ.toNat = tSYNC then
    mkPacket { pkt.hdr with addr := BitVec.ofNat 48 s.axle.value, step := BitVec.ofNat 16 (s.axle.value / 2 ^ 48) } []
  else pkt

/-- A packet leaves port `p`: counted, recorded, on the line unless a replay holds the port; SYNC always goes (11 R292, 17 R420). -/
def transmit (s0 : State) (p : Nat) (pkt0 : Packet) : State :=
  let s := lineReady s0 p (decide (pkt0.hdr.typ.toNat = tSYNC))
  let pkt := stamped s pkt0
  let s := updPort s p fun q => { q with cnt := { q.cnt with
                                                            txPkts := (q.cnt.txPkts + 1) % 2 ^ 64,
                                                            txCells := (q.cnt.txCells + cellsOf pkt) % 2 ^ 64 } }
  let s := watchEgress s p pkt
  if replayMutes s p && decide (pkt.hdr.typ.toNat ≠ tSYNC) then s
  else { updTx s p fun c t => txSend c (packetBytes pkt) t with wire := s.wire ++ [(p, pkt)] }

/-- The next packet of port `p`: the control sub-queue first, and only a packet whose last cell has arrived (04 R84). -/
def nextOut (q : Port) : Option EEntry :=
  match q.ctlq.find? fun e => decide (e.inn = e.cells) with
  | some e => some e
  | none => q.egq.find? fun e => decide (e.inn = e.cells)

/-- PACKET_TRANSMIT (04 R84): an Up port whose transmitter is not idle sends its next packet; where none follows, a fill word ends its round. -/
def sendNext (s : State) (p : Nat) : State :=
  match nextOut (portOf s p) with
  | some e =>
    let s := egRetry s p
    if (portOf s p).stage = .up ∧ ¬ (portOf s p).txIdle then
      let s := updPort s p fun q => { q with
                                            egq := q.egq.filter fun x => decide (x.fl.id ≠ e.fl.id),
                                            ctlq := q.ctlq.filter fun x => decide (x.fl.id ≠ e.fl.id) }
      let s := transmit s p e.fl.pkt
      settle (if (nextOut (portOf s p)).isNone then updTx s p txClose else s)
    else s
  | none => s

def execPacketTransmit (port : Nat) (s : State) : Host.Outcome State Fault Refusal :=
  onUnit (portExists s port) s fun s => sendNext s port

-- The Brake (04 R103, R104)

/-- A marked echo from `e` on die `d`'s Brake: halve, at most once per 4 µs (04 R103). -/
def echoAt (s : State) (d e : Nat) : State :=
  let h := hubOf s d
  match Tab.get none h.lastDec e with
  | some t => if s.now < t + 4000 then updHub s d fun h => { h with lastMark := Tab.set 0 h.lastMark e s.now }
              else decrease s d e
  | none => decrease s d e
where
  decrease (s : State) (d e : Nat) : State :=
    updHub s d fun h =>
      let r := max ((1 - Tab.get 0 h.rateCut e) / 2) ((mdFloor s d : Rat) / 64)
      { h with rateCut := Tab.set 0 h.rateCut e (1 - r), lastDec := Tab.set none h.lastDec e (some s.now),
               lastMark := Tab.set 0 h.lastMark e s.now }

/-- An echo applies at once on its die and waits for the exchange toward the others (04 R103). -/
def echo (s : State) (d e : Nat) : State :=
  echoAt (updHub s d fun h => { h with echoes := h.echoes ++ [e] }) d e

/-- BRAKE_INCREASE (04 R103): after ai_interval without a marked echo and without a rise. -/
def brakeRise (s : State) (d e : Nat) : State :=
  let h := hubOf s d
  let s := waitUntil s (max (Tab.get 0 h.lastMark e) (Tab.get 0 h.lastInc e) + 1000 * aiInterval s d)
  updHub s d fun h =>
    { h with rateCut := Tab.set 0 h.rateCut e (max 0 (Tab.get 0 h.rateCut e - (aiStep s d : Rat) / 16)),
             lastInc := Tab.set 0 h.lastInc e s.now }

def execBrakeIncrease (die epa : Nat) (s : State) : Host.Outcome State Fault Refusal :=
  onUnit (decide (die < 4) && isAccel epa) s fun s => brakeRise s die epa

/-- The packets of a pair that the module has not seen acknowledged (03 R62). -/
def pairOut (s : State) (key : Nat) : Nat := (s.e2e.out.filter fun o => decide (pairKey o.pkt.hdr = key)).length

/-- Whether a held packet may leave: both buckets hold its bytes, its thread's self-brake allows it, the pair has fewer than 4,096
packets unacknowledged, and a PUT's packets leave in order (03 R62, 04 R104, 08 R188, 09 R234). DESIGN CHOICE: a multicast packet has no one destination and
needs the die's bucket alone; R104 does not name it (log 16). -/
def mayLeave (s : State) (d : Nat) (x : Held) : Bool :=
  let h := hubOf s d
  let n : Rat := (wireBytes x.pkt : Nat)
  let dst := x.pkt.hdr.dst.toNat
  (x.pkt.hdr.mcast || decide (n ≤ 4176 - Tab.get 0 h.tokens dst)) && decide (n ≤ h.dieTok) &&
    (match x.pace with | some k => decide ((Tab.get {} h.pace k).next ≤ s.now) | none => true) &&
    (match x.purpose with
      | .put _ _ => x.resend || decide ((h.held.find? fun y => decide (y.purpose = x.purpose) && !y.resend) = some x)
      | _ => true) &&
    (x.resend || decide (pairOut s (pairKey x.pkt.hdr) < 4096))

/-- Who must acknowledge a packet: the classified members of a group, or its destination (03 R72, 05 R133). -/
def receivers (s : State) (p : Packet) : List Nat :=
  if p.hdr.mcast then (fanOut s (b2n p.hdr.epoch) (p.hdr.dst.toNat % 4096) p.hdr.seq.toNat).1.map Prod.fst else [p.hdr.dst.toNat]

/-- Whether an unacknowledged packet is the one of a pair and number. -/
def isOut (key seq : Nat) (o : OutPkt) : Bool := decide (pairKey o.pkt.hdr = key ∧ o.pkt.hdr.seq.toNat = seq)

/-- Start or restart the re-send timer as a packet leaves its unit (03 R79). -/
def armTimer (s : State) (d : Nat) (x : Held) : State :=
  let key := pairKey x.pkt.hdr
  let seq := x.pkt.hdr.seq.toNat
  if x.dupRsp then s
  else if s.e2e.out.any (isOut key seq) then
    { s with e2e := { s.e2e with out := s.e2e.out.map fun o => if isOut key seq o then { o with expires := some (s.now + o.rto) } else o } }
  else
    let o : OutPkt := { pkt := x.pkt, die := d, block := x.block, purpose := x.purpose, port := x.port,
                        expires := some (s.now + 1000 * rtoInit s), rto := 1000 * rtoInit s, limit := rtoLimit s,
                        waiting := receivers s x.pkt }
    { s with e2e := { s.e2e with out := s.e2e.out ++ [o] } }

/-- A held packet leaves its hold queue: its destination's bucket and its self-brake are charged, its timer starts (03 R79, 04 R104). -/
def leaveUnit (s : State) (d : Nat) (x : Held) : State :=
  let n : Rat := (wireBytes x.pkt : Nat)
  let dst := x.pkt.hdr.dst.toNat
  let s := updHub s d fun h => { h with
    held := h.held.erase x,
    tokens := if x.pkt.hdr.mcast then h.tokens else Tab.set 0 h.tokens dst (Tab.get 0 h.tokens dst + n),
    pace := match x.pace with
      | some k => Tab.upd {} h.pace k fun u => { u with next := s.now + wireBytes x.pkt * 64 / (100 * u.rate) }
      | none => h.pace }
  armTimer s d x

/-- Charge a packet's bytes to the die's bucket (04 R104). -/
def chargeDie (s : State) (d : Nat) (p : Packet) : State := updHub s d fun h => { h with dieTok := h.dieTok - (wireBytes p : Nat) }

/-- The copies of one result part that leave their unit together (06 R155: one replicated packet): first sends that may leave now (log 16). -/
def resultGroup (s : State) (d : Nat) (x : Held) : List Held :=
  match x.purpose with
  | .result _ _ _ _ => if x.resend then [x] else
      (hubOf s d).held.filter fun y => decide (y.purpose = x.purpose) && !y.resend && mayLeave s d y
  | _ => [x]

/-- The copies of a result part leave and are replicated (05 R131, 06 R155); a copy without a usable port is discarded (04 R107). -/
def releaseResult (s : State) (d : Nat) (x : Held) : State :=
  let g := resultGroup s d x
  let s := g.foldl (fun s y => leaveUnit s d y) (chargeDie s d x.pkt)
  let v := b2n x.pkt.hdr.epoch
  let (fl, s) := flightOf s x.pkt none x.block
  if verOf s v = .writable then { s with epoch := { s.epoch with stale := satAdd 32 s.epoch.stale g.length } }
  else
    replicateResult s d { fl with fan := resultFan s v d (g.map Held.pkt) }

/-- A held packet leaves its unit (04 R104): buckets charged, timer started, into the egress queue of its port or the crossbar. A group member
that is missing faults the block; no SHORTFALL is sent, the module is the source (05 R134, 09 R235). DESIGN CHOICE: a group that a flip of the tables made
invalid or another block's after the PUT was accepted counts as all of its members missing; R117 gives a PUT no effect there (log 16). -/
def releasePacket (s : State) (d : Nat) (x : Held) : State :=
  let s := leaveUnit (chargeDie s d x.pkt) d x
  match x.port with
  | some p => egDirect s p x.pkt x.block
  | none =>
    let v := b2n x.pkt.hdr.epoch
    let g := x.pkt.hdr.dst.toNat % 4096
    let id := s.flightId
    let s' := inject s d x.block x.pkt
    if x.pkt.hdr.mcast && decide (verOf s v ≠ .writable) && (!groupOwn s v g x.block || !(fanOut s v g x.pkt.hdr.seq.toNat).2.isEmpty) then
      match (blockOf s x.block).st with
      | .unloaded | .faulted => s'
      | _ => emitB (faultBlockK s' x.block (some id)) x.block evMcastShortfall []
    else s'

/-- Release a held packet, or the copies of a result with it (04 R104, 06 R155). A result is read from its hold as it leaves: an uncorrectable
error there faults the block with COLL_ECC (06 R160, 10 R262), a corrected one is counted (10 R261). -/
def releaseHeld (s : State) (d : Nat) (x : Held) (ecc : Ecc) : State :=
  match x.purpose with
  | .result h step c _ =>
    let s := regionEcc s (spillBase s) ecc
    if ecc = .uncorrectable then
      match s.coll.holds.find? fun y => decide (y.h = h ∧ y.step = step ∧ y.chunk = c) with
      | some y => faultBlock s (harnOwner s h) evCollEcc [y.die, y.slot]
      | none => s
    else releaseResult s d x
  | _ => releasePacket s d x

/-- BRAKE_RELEASE (04 R104): the first held packet of a die that may leave. -/
def execBrakeRelease (die : Nat) (s : State) (ecc : Ecc := .ok) : Host.Outcome State Fault Refusal :=
  onUnit (decide (die < 4)) s fun s =>
    match (hubOf s die).held.find? (mayLeave s die) with
    | some x => if dpRuns s then releaseHeld s die x ecc else s
    | none => s

-- Re-sends (03 R79)

/-- A packet needs its timer no longer: it is out no more, and a re-send of it that waits at the Brake is not sent (03 R78, R79). -/
def outDone (s : State) (o : OutPkt) : State :=
  let key := pairKey o.pkt.hdr
  let seq := o.pkt.hdr.seq.toNat
  let s := { s with e2e := { s.e2e with out := s.e2e.out.filter fun x => !isOut key seq x } }
  updHub s o.die fun h => { h with held := h.held.filter fun x =>
    !((x.resend || x.dupRsp) && decide (pairKey x.pkt.hdr = key ∧ x.pkt.hdr.seq.toNat = seq)) }

/-- A re-send of an unacknowledged packet, or RESEND_LIMIT where the limit is reached (03 R79). -/
def resend (s : State) (o : OutPkt) : State :=
  if o.limit ≤ o.tries then
    let s := { s with e2e := { s.e2e with out := s.e2e.out.filter fun x => !isOut (pairKey o.pkt.hdr) o.pkt.hdr.seq.toNat x } }
    faultBlock s o.block evResendLimit []
  else
    let f := fun (x : OutPkt) => if isOut (pairKey o.pkt.hdr) o.pkt.hdr.seq.toNat x then
      { x with tries := x.tries + 1, rto := min (2 * x.rto) 128000, expires := none } else x
    let s := { s with e2e := { s.e2e with out := s.e2e.out.map f } }
    let s := updHub s o.die fun h => { h with resends := (h.resends + 1) % 2 ^ 32 }
    holdAt s o.die { pkt := withResend o.pkt, block := o.block, purpose := o.purpose, port := o.port, resend := true }

/-- RESEND_TIMEOUT (03 R79): the timer of a packet of the pair with `dst` expires. -/
def execResendTimeout (dst : Nat) (group : Bool) (seq : Nat) (s : State) : Host.Outcome State Fault Refusal :=
  done s (match s.e2e.out.find? (isOut (if group then 65536 + dst else dst) seq) with
    | some o => (match o.expires with | some t => resend (waitUntil s t) o | none => s)
    | none => s)

-- Coalesced ACKs (03 R72, R73)

/-- The ACK for the pair (src, own EPA): base, selective map, the echoed mark (03 R72, R80). DESIGN CHOICE: its step field is 0; R54 does not say whose
step counter a packet of no block carries (log 17). -/
def ackPacket (s : State) (d src : Nat) (mark : Bool) : Packet :=
  let r := recvOf s src
  mkPacket { ownHeader s d tACK 3 src with
    mark := mark, seq := BitVec.ofNat 32 r.base, addr := BitVec.ofNat 48 (ownEpa s), chunk := BitVec.ofNat 32 (r.map.toNat / 2) } []

/-- Whether the ACK for a receive state covers number `n`: before its base, or among the 32 numbers after it that its map reports (03 R72). -/
def ackCovers (r : Recv) (n : Nat) : Bool :=
  let k := (n + 2 ^ 32 - r.base) % 2 ^ 32
  decide (2 ^ 31 ≤ k) || (decide (1 ≤ k ∧ k ≤ 32) && r.map.getLsbD k)

/-- Send the ACK of a source and end its coalescing period (03 R73); it is marked where it covers a packet that arrived marked (03 R80). -/
def ackNow (s : State) (src : Nat) : State :=
  let r := recvOf s src
  let m := r.marks.any (ackCovers r)
  let s := egDirect s r.port (withMark (ackPacket s (dieOf s r.port) src m) m) 0xFFFF
  updRecv s src fun r => { r with fresh := 0, marks := r.marks.filter fun n => !ackCovers r n }

/-- ACK_DELAY_EXPIRY (03 R73): ack_delay has passed since the first unacknowledged packet of the pair. -/
def execAckDelayExpiry (src : Nat) (s : State) : Host.Outcome State Fault Refusal :=
  done s (if 0 < (recvOf s src).fresh then ackNow (waitUntil s ((recvOf s src).since + 100 * (recvOf s src).delay)) src else s)

-- Overflow (04 R96, R98)

/-- An overflow entry that holds an uncorrectable error, which is counted, is discarded without NACK, and the block charged with it is faulted (10 R262); the entries'
place in the region is not given, so the unit is named by the region's start (log 13). -/
def ovfBad (s : State) (f : Flight) : State :=
  let items := [ovfBase s, lardDie s (ovfBase s), lardStack s (ovfBase s), lardPc s (ovfBase s), 4]
  if f.block < 128 ∧ (blockOf s f.block).st ≠ .unloaded ∧ (blockOf s f.block).st ≠ .faulted then faultBlock s f.block evLarderUe items
  else emitB s f.block evLarderUe items

/-- Return overflow entries in list order into the egress queue up to ovf_on; `n` bounds their number, `eccs` gives what each read finds (04 R96,
10 R261, R262). A packet whose trailer fails is not yet whole and holds the list up (04 R84). DESIGN CHOICE: a return that began below drain_low goes on
to ovf_on in one row; R96 gives both bounds (log 16). -/
def drainList : Nat → State → Nat → List Ecc → State
  | 0, s, _, _ => s
  | n + 1, s, p, eccs =>
    match (portOf s p).ovfList with
    | [] => s
    | f :: fs =>
      if !f.bad && decide (egOcc (portOf s p) + cellsOf f.pkt ≤ ovfOn s p) && egRoom s p f then
        let s := updPort s p fun q => { q with ovfList := fs }
        let s := regionEcc s (ovfBase s) (eccs.headD .ok)
        drainList n (if eccs.headD .ok = .uncorrectable then ovfBad s f else egInsert s p f (cellsOf f.pkt)) p eccs.tail
      else s

/-- OVERFLOW_DRAIN (04 R96): below drain_low entries return; with the list empty the port leaves overflow state. -/
def drainPort (s : State) (p : Nat) (eccs : List Ecc) : State :=
  let q := portOf s p
  if q.ovf && decide (egOcc q < drainLow s p) then
    let s := ovfEase (drainList q.ovfList.length s p eccs)
    if (portOf s p).ovfList.isEmpty then updPort s p fun q => { q with ovf := false } else s
  else s

def execOverflowDrain (port : Nat) (s : State) (eccs : List Ecc := []) : Host.Outcome State Fault Refusal :=
  onUnit (portExists s port) s fun s => drainPort s port eccs

/-- OVF_EXHAUSTED (04 R98): at 99 % fill the block charged with the most overflow bytes is faulted; again after 10 µs. -/
def ovfExhaust (s : State) : State :=
  if 99 ≤ ovfPct s then
    match minBy (fun b => -(ovfBytes s b : Int)) (loadedBlocks s) with
    | some b =>
      if ovfBytes s b = 0 then s
      else
        let s := match s.lard.lastOvfFault with | some t => waitUntil s (t + 10000) | none => s
        let s := faultBlock s b evOvfExhausted []
        let s := dropFlights s fun fl => decide (fl.block = b)
        ovfEase { s with lard := { s.lard with lastOvfFault := some s.now } }
    | none => s
  else s

def execOvfExhausted (s : State) : Host.Outcome State Fault Refusal := done s (ovfExhaust s)

-- Mark depth and histograms (04 R100, 17 R421)

/-- MARK_DEPTH_WINDOW for one port: 16 KiB (64 cells) down after overflow, up where the queue never held more than half, always within the limits of
HUB_EGQ_THRESH (04 R100). -/
def markWindow (s : State) (p : Nat) : State :=
  let q := portOf s p
  let d := markDepthOf s p
  let d' := if q.winOvf || q.ovf then d - 64 else if 2 * q.winMax ≤ d then d + 64 else d
  updPort s p fun q => { q with
    markDepth := some (max (markMin s p) (min (markMax s p) d')), winMax := egOcc q, winOvf := q.ovf }

def execMarkDepthWindow (s : State) : Host.Outcome State Fault Refusal := done s ((allPorts s).foldl markWindow s)

/-- QUEUE_HISTOGRAM_SAMPLE (17 R421): each Up port counts one bin. -/
def histSample (s : State) (p : Nat) : State :=
  let q := portOf s p
  if q.stage = .up then
    let b := if q.ovf then 15 else min 15 (egOcc q / scaleCells s p 256)
    updPort s p fun q => { q with hist := Tab.set 0 q.hist b ((Tab.get 0 q.hist b + 1) % 2 ^ 32) }
  else s

def execQueueHistogramSample (s : State) : Host.Outcome State Fault Refusal := done s ((allPorts s).foldl histSample s)

-- Flush complete (04 R108)

/-- Whether some packet is still on its way to port `p`. -/
def towardPort (s : State) (p : Nat) : Bool :=
  (List.range 4).any fun d =>
    ((hubOf s d).xq.any fun e => e.dests.contains p || e.left.any fun x => decide (x.1 = .port p ∧ 0 < x.2)) ||
    (hubOf s d).bridges.any fun b => b.2.any fun e => e.dests.contains p || e.fl.fan.any fun x => decide (x.1 = p)

/-- PORT_FLUSHED (04 R108): nothing is left on the way to the port; the hitch restarts unless the port is disabled or the module holds. -/
def portFlushed (s : State) (p : Nat) : State :=
  let q := portOf s p
  if q.flushing && !towardPort s p && q.ovfList.isEmpty then
    let s := updPort s p fun q => { q with flushing := false, flushIn := 0, flushOut := 0, flushOvf := 0 }
    let s := emit s evPortFlushed [p, q.flushIn, q.flushOut, q.flushOvf]
    if q.disabled || !dpRuns s then s else startHitch s p
  else s

def execPortFlushed (port : Nat) (s : State) : Host.Outcome State Fault Refusal :=
  onUnit (portExists s port) s fun s => portFlushed s port

-- The queue-state exchange (04 R94, 05 R121 to R134, 11 R273, R274)

/-- Whether a block is quiescent (11 R273). -/
def quiescent (s : State) (b : Nat) : Bool :=
  let mine := fun h => decide (harnOwner s h = b)
  let c := s.coll
  !(c.slots.any fun x => mine x.key.h) && !((c.spills ++ c.early).any fun x => mine x.key.h) && !(c.flight.any fun x => mine x.2.1.h) &&
  !(c.holds.any fun x => mine x.h) && !(s.localQ.any fun w => decide (w.block = b)) &&
  !(s.thr.any fun t => t.2.live && decide ((imgOf s t.2.image).owner = b)) &&
  !(s.img.any fun i => decide (i.2.owner = b) && !i.2.queue.isEmpty) &&
  !(s.eng.any fun e => e.2.queue.any (fun d => decide (d.block = b)) || (match e.2.exec with | some x => decide (x.1.block = b) | none => false)) &&
  !(s.hub.any fun h => h.2.waitPool.any (fun d => decide (d.block = b)) || h.2.held.any fun x => decide (x.block = b)) &&
  !(s.e2e.out.any fun o => decide (o.block = b)) && !(s.lard.reqs.any fun r => decide (r.block = b))

/-- Discard the exact cells of the windows that block `b` owns (10 R259). -/
def dropCells (s : State) (b : Nat) : State :=
  let inWin := fun a => (List.range 64).any fun k =>
    let w := winOf s k
    winEnable w && decide (winOwner w = b ∧ winLarder w * gib ≤ a ∧ a < (winLarder w + winSize w) * gib)
  { s with lard := { s.lard with cells := s.lard.cells.filter fun c => !inWin c.1 } }

/-- The first non-zero count slot of a block's range (03 R71). -/
def firstNonzero (s : State) (b : Nat) : Option Nat := (s.cslots.map Prod.fst).find? fun k => slotInBlock s b k

/-- Begin the recordings that wait for the block's S (11 R283). -/
def beginRings (s : State) (b : Nat) : State :=
  (List.range 16).foldl (fun s k =>
    let r := ringOf s k
    match r.waitStep with
    | some v =>
      if r.st = 1 ∧ r.block = b ∧ v ≤ (blockOf s b).step then
        ringSync (updRing s k fun r => { r with
          begun := true, waitStep := none, set := setNow s, plane := s.mod.plane, steady := steady s, startStep := (blockOf s b).step,
          startAxle := s.axle.value, startAt := xTime s 0, winStart := s.axle.value / 1000, winBytes := 0, prevBytes := 0 }) k
      else s
    | none => s) s

/-- Block `b` goes from Active to Paused; a non-zero count slot is reported (01 R22, 03 R71). -/
def pauseBlock (s : State) (b : Nat) : State :=
  let s := updBlock s b fun x => { x with st := .paused, pause := false }
  let s := match firstNonzero s b with | some k => emitB s b evCslotNonzero [k] | none => s
  replayLeave (winRelease s b) b

/-- A step boundary of block `b` with pending value `v` (11 R274). -/
def boundary (s : State) (b v : Nat) : State :=
  let s := updBlock s b fun x => { x with step := (v + 1) % 2 ^ 48, close := none }
  let s := recordBoundary (dropCells s b) b
  let s := winRelease (beginRings s b) b
  if (blockOf s b).st = .active ∧ ((blockOf s b).pause ∨ s.mod.st = .drain) then settle (pauseBlock s b) else s

/-- The boundary of a block whose close request is pending and that is quiescent (11 R274). -/
def boundaryCheck (s : State) (b : Nat) : State :=
  match (blockOf s b).close with
  | some v => if quiescent s b then boundary s b v else s
  | none => s

/-- The echoes of each die reach the other three Brakes (04 R103). -/
def shareEchoes (s : State) : State :=
  let s' := (List.range 4).foldl (fun t d =>
    (hubOf s d).echoes.foldl (fun t e => (otherDies d).foldl (fun t m => echoAt t m e) t) t) s
  (List.range 4).foldl (fun t d => updHub t d fun h => { h with echoes := [] }) s'

/-- Every die takes the other dies' overflow states (04 R94). -/
def shareOvf (s : State) : State :=
  let ov := (allPorts s).filter fun p => (portOf s p).ovf
  (List.range 4).foldl (fun s d => updHub s d fun h => { h with ovfView := ov.filter fun p => decide (dieOf s p ≠ d) }) s

/-- A sealed Draining version with nothing in flight becomes Writable (05 R129). -/
def drained (s : State) : State :=
  if s.epoch.sealed then
    let fin := fun (s : State) (v : Nat) => emit s evTableDrained [v]
    if s.epoch.verA = .draining ∧ inFlight s false = 0 then
      fin { s with epoch := { s.epoch with verA := .writable, sealed := false, slow := false } } 0
    else if s.epoch.verB = .draining ∧ inFlight s true = 0 then
      fin { s with epoch := { s.epoch with verB := .writable, sealed := false, slow := false } } 1
    else s
  else s

/-- The SHORTFALL of a multicast packet (03 R77, 05 R134). DESIGN CHOICE: its step field is 0; R54 does not say whose step counter it carries (log 17). -/
def shortfallPacket (s : State) (d : Nat) (r : McastRep) (miss : List (Nat × Nat)) : Packet :=
  let ms := sortBy (fun a b => decide (a.1 ≤ b.1)) miss
  let mask := ((ms.map Prod.fst).map fun e => 2 ^ e).sum
  let h := { ownHeader s d tSHORTFALL 3 r.hdr.src.toNat with
    epoch := r.hdr.epoch, seq := r.hdr.seq, ctag := r.hdr.ctag, addr := BitVec.ofNat 48 r.hdr.dst.toNat,
    aux := BitVec.ofNat 32 ((ms.head?).map Prod.snd |>.getD 0) }
  mkPacket h (leBytes 16 mask ++ leBytes 2 ms.length ++ leBytes 14 0)

/-- A multicast packet whose dies have all reported: nothing missing, or SHORTFALL and the fault of the owner (05 R134). -/
def finishMcast (d : Nat) (s : State) (r : McastRep) : State :=
  if !r.wait.isEmpty then s
  else
    let s := updHub s d fun h => { h with mcast := h.mcast.filter fun x => decide (x.id ≠ r.id) }
    if r.missing.isEmpty then s
    else
      let p := shortfallPacket s d r r.missing
      let (fl, s) := flightOf s p none 0xFFFF
      let s := match routeOf s (b2n p.hdr.epoch) p.hdr.dst.toNat p.hdr.seq.toNat with
        | some q => xInsert s d (trunkInput s d 3) true true fl [xdestOf s d q] [q]
        | none => s
      match (blockOf s r.owner).st with
      | .unloaded | .faulted => s
      | _ => emitB (faultBlockK s r.owner (some r.id)) r.owner evMcastShortfall []

/-- The dies' reports of missing members reach the dies that hold the arrival ports (05 R134). -/
def shareMissing (s : State) : State :=
  let reps := (List.range 4).flatMap fun d => (hubOf s d).missing.map fun m => (d, m.1, m.2)
  let take := fun (r : McastRep) =>
    let mine := reps.filter fun x => decide (x.2.1 = r.id)
    { r with wait := r.wait.filter fun d => !(mine.any fun x => decide (x.1 = d)), missing := r.missing ++ mine.flatMap fun x => x.2.2 }
  let s := (List.range 4).foldl (fun s d => updHub s d fun h => { h with mcast := h.mcast.map take, missing := [] }) s
  (List.range 4).foldl (fun s d => (hubOf s d).mcast.foldl (finishMcast d) s) s

/-- QUEUE_STATE_EXCHANGE (04 R94, 05 R121, R127, R129, R134, 11 R274). -/
def exchange (s : State) : State :=
  let s := shareMissing (shareOvf (shareEchoes s))
  let s := { s with epoch := { s.epoch with sumA := inFlight s false, sumB := inFlight s true, stamp := List.replicate 4 s.epoch.active } }
  let s := drained s
  settle ((loadedBlocks s).foldl boundaryCheck s)

/-- TABLE_DRAIN_SLOW (05 R129): sent once, 10 ms after the seal, with the in-flight count. -/
def drainSlow (s : State) : State :=
  if s.epoch.sealed && !s.epoch.slow then
    let s := waitUntil s (s.epoch.sealedAt + 10000000)
    emit { s with epoch := { s.epoch with slow := true } } evDrainSlow [inFlight s (decide (s.epoch.verB = .draining))]
  else s

def execTableDrainSlow (s : State) : Host.Outcome State Fault Refusal := done s (drainSlow s)

end Sys2Proof.Machine
end

