-- ==== Sys2Proof/Machine/Packets.lean ====
section
/-! DEFINITION. Packets that arrive from link partners (02 R45 to R48, 03 R58 to R79, 05 R117, R119, 06 R146, R153, 08 R196): the checks,
the refusals, the local path of packets to the own EPA, acknowledgements. -/

namespace Sys2Proof.Machine

-- The checks of 02 R45

/-- What the checks of 02 R45 make of a packet. -/
inductive Verdict where
  | refuse (r : Reason)
  | stale
  | cross (target : Nat)
  | forward (q : Nat)
  | replicate
  | own
  deriving DecidableEq, Repr

/-- The target and block of a packet to the own EPA, where it has one that belongs to another block (02 R45 step 7; log 17: a harness not Loaded
and an image Free have no block). -/
def ownCross (s : State) (p : Packet) (b : Nat) : Option Nat :=
  let t := p.hdr.typ.toNat
  let n := p.hdr.op.toNat % 1024
  if t = tCONTRIB then (if (harnOf s n).loaded ∧ harnOwner s n ≠ b then some n else none)
  else if t = tCALL then (if (imgOf s n).st ≠ 0 ∧ (imgOf s n).owner ≠ b then some n else none)
  else if t = tWRITE ∨ t = tREADREQ ∨ t = tATOMIC then
    match winAt s p.hdr.addr.toNat with
    | some (_, w) => if winOwner w ≠ b then some (winOwner w) else none
    | none => none
  else none

/-- Whether a packet to the own EPA names, with cnt 1, a count slot outside its source block's range (03 R67). -/
def badTag (s : State) (p : Packet) (b : Nat) : Bool :=
  let t := p.hdr.typ.toNat
  decide (t = tWRITE ∨ t = tREADRSP ∨ t = tATOMICRSP) &&
    (match ctagSlot p.hdr.ctag.toNat with | some k => !slotInBlock s b k | none => false)

/-- Steps 7 and 8 of 02 R45 and 03 R67 for a packet to the own EPA from a member of block `b`. -/
def ownVerdict (s : State) (p : Packet) (b : Nat) : Verdict :=
  let t := p.hdr.typ.toNat
  match ownCross s p b with
  | some x => .cross x
  | none =>
    match (if t = tWRITE ∨ t = tREADREQ ∨ t = tATOMIC then lardCheck s p.hdr p.payload b else none) with
    | some (.reason r) => .refuse r
    | some (.cross o) => .cross o
    | none => if badTag s p b then .refuse .badTag else .own

/-- Steps 5 to 8 of 02 R45. -/
def memberVerdict (s : State) (p : Packet) : Verdict :=
  let e := p.hdr.dst.toNat
  match blockOfEpa s p.hdr.src.toNat with
  | none => .refuse .noBlock
  | some b =>
    match (blockOf s b).st with
    | .faulted => .refuse .jobFault
    | .active =>
      if p.hdr.mcast then
        let o := mcastOwner s (b2n p.hdr.epoch) (e % 4096)
        if o = b then .replicate else .cross o
      else if isAccel e then
        if blockOfEpa s e ≠ some b then .cross e
        else match routeOf s (b2n p.hdr.epoch) e p.hdr.seq.toNat with
          | some q => .forward q
          | none => .refuse .noRoute
      else ownVerdict s p b
    | _ => .refuse .notActive

/-- The checks of 02 R45 on a packet from port `port` whose trailer passed; the first that fails decides. DESIGN CHOICE: the refusals that R45's list
leaves out stand before step 5 (05 R119 a Writable version, 05 R117 an invalid group), after step 7 (05 R116 no usable way) and after step 8 (03 R67
BADTAG); the spec gives them no place (log 17). -/
def verdict (s : State) (port : Nat) (p : Packet) : Verdict :=
  let e := p.hdr.dst.toNat
  let v := b2n p.hdr.epoch
  if !headerOk p.hdr then .refuse .badHdr
  else if plannedEpa s port ≠ some p.hdr.src.toNat then .refuse .badSrc
  else if (if p.hdr.mcast then decide (4096 ≤ e) else !validEpa e) then .refuse .badEpa
  else if !p.hdr.mcast ∧ isModule e ∧ e ≠ ownEpa s then .refuse .noRoute
  else if verOf s v = .writable then .stale
  else if p.hdr.mcast ∧ !mcastValid s v e then .refuse .noRoute
  else memberVerdict s p

-- Refusals (02 R47, R48)

/-- Count a packet refused on a port (17 R420). -/
def countRefused (s : State) (port : Nat) : State :=
  updPort s port fun q => { q with cnt := { q.cnt with refused := (q.cnt.refused + 1) % 2 ^ 32 } }

/-- Count a packet refused or discarded in its source's block, where one is loaded (02, STG_JBLK_REFUSE). DESIGN CHOICE: a packet refused with BADHDR or
BADSRC, whose src is unverified, counts in the block of the src that it claims (log 17). -/
def blockRefused (s : State) (src : Nat) : State :=
  match blockOfEpa s src with
  | some b => updBlock s b fun x => { x with refuse := satInc 32 x.refuse }
  | none => s

/-- The NACK of a refusal: BADSRC and CRC go to the planned partner of the port, all others to src (02 R48, 03 R60). DESIGN CHOICE: so do those whose
reason R48's table does not list, BADHDR among them, whose src no check has verified (log 17). -/
def nackRefused (s : State) (port : Nat) (p : Packet) (r : Reason) : State :=
  if r = .badSrc ∨ r = .crc then
    match plannedEpa s port with
    | some e => nack s port e p.hdr r
    | none => s
  else nack s port p.hdr.src.toNat p.hdr r

/-- NO_BLOCK_SRC, for the first packet of a source in a second (02 R48). -/
def noBlockEvent (s : State) (port src : Nat) : State :=
  let due := match Tab.get none s.noBlockAt src with | some t => decide (t + 1000000000 ≤ s.now) | none => true
  if due then emit { s with noBlockAt := Tab.set none s.noBlockAt src (some s.now) } evNoBlockSrc [src, port] else s

/-- A refusal under 02 R45 (table "Refusal outcomes"); an ACK or NACK is discarded and counted in the block alone (R47). -/
def refuse45 (s : State) (port : Nat) (p : Packet) (r : Reason) : State :=
  let t := p.hdr.typ.toNat
  if r = .badTag then nackRefused s port p r
  else
    let s := blockRefused s p.hdr.src.toNat
    if t = tACK ∨ t = tNACK then s
    else
      let s := countRefused s port
      let s := if r = .badSrc then emit s evSrcMismatch [port, p.hdr.src.toNat] else s
      let s := if r = .noBlock then noBlockEvent s port p.hdr.src.toNat else s
      nackRefused s port p r

/-- A refusal on the local path: SEQWIN, R146, R196; NOHARNESS, STEPWIN and BADOP count in the block too (06 R160). -/
def refuseLocal (s : State) (port : Nat) (p : Packet) (r : Reason) : State :=
  let s := if r = .noHarness ∨ r = .stepWin ∨ r = .badOp then blockRefused s p.hdr.src.toNat else s
  nackRefused (countRefused s port) port p r

/-- A block crossing: the source's block goes to Faulted (02 R48); an ACK or NACK is discarded and counted (R47). -/
def crossing (s : State) (port : Nat) (p : Packet) (target : Nat) : State :=
  let t := p.hdr.typ.toNat
  let src := p.hdr.src.toNat
  if t = tACK ∨ t = tNACK then blockRefused s src
  else
    let b := chargeOf s src
    let s := countRefused (blockRefused s src) port
    nackRefused (faultBlock s b evBlockCross [src, target, b]) port p .outsideBlock

-- Step skew (13 R345)

/-- Whether two step values differ by more than 2 in either direction modulo 2^16. -/
def skewed (a b : Nat) : Bool :=
  let d := (a + 65536 - b % 65536) % 65536
  decide (2 < d ∧ d < 65534)

/-- Compare a numbered packet's step with its source block's S (13 R345). -/
def skewCheck (s : State) (p : Packet) : State :=
  match blockOfEpa s p.hdr.src.toNat with
  | none => s
  | some b =>
    if unnumbered p.hdr.typ.toNat || !skewed p.hdr.step.toNat (blockOf s b).step then s
    else
      let due := match (blockOf s b).skewAt with | some t => decide (t + 1000000000 ≤ s.now) | none => true
      let s := updBlock s b fun x => { x with skew := satInc 32 x.skew, skewAt := if due then some s.now else x.skewAt }
      if due then emitB s b evStepSkew [] else s

-- Acknowledgements received (03 R72, R75, R76, R79, R80)

/-- The pair that an ACK or NACK names. -/
def namedPair (h : Header) : Nat := h.addr.toNat % 131072

/-- Whether an ACK covers a number: before its base, or reported by its map (03 R72). -/
def covers (h : Header) (n : Nat) : Bool :=
  let k := (n + 2 ^ 32 - h.seq.toNat) % 2 ^ 32
  decide (2 ^ 31 ≤ k) || (decide (1 ≤ k ∧ k ≤ 32) && bit h.chunk.toNat (k - 1))

/-- Pass an echoed mark to the Brake (03 R80). -/
def markEcho (s : State) (port : Nat) (h : Header) : State := if h.mark then echo s (dieOf s port) h.src.toNat else s

/-- What an acknowledgement of receiver `e` means for the purpose of a packet (06 R151). -/
def ackPurpose (s : State) (e : Nat) (o : OutPkt) : State :=
  match o.purpose with
  | .result h step c j => holdAcked s h step c e j
  | _ => s

/-- A receiver's ACK covers a packet: a request still waits for its response (03 R76, R78). DESIGN CHOICE: the ACK of a request does not stop its timer,
which runs until the response; R78 and R79 can be read both ways (log 17). -/
def ackOne (src : Nat) (o : OutPkt) : OutPkt :=
  if o.pkt.hdr.typ.toNat = tREADREQ ∨ o.pkt.hdr.typ.toNat = tATOMIC then { o with acked := true }
  else { o with waiting := o.waiting.filter fun e => decide (e ≠ src) }

/-- An ACK from src: covered packets of the pair need it no longer; requests wait for their response (03 R78, R79). -/
def ackTaken (s : State) (port : Nat) (p : Packet) : State :=
  let src := p.hdr.src.toNat
  let k := namedPair p.hdr
  let hit := fun (o : OutPkt) => decide (pairKey o.pkt.hdr = k) && covers p.hdr o.pkt.hdr.seq.toNat && o.waiting.contains src
  if k < 65536 ∧ k ≠ src then markEcho s port p.hdr
  else
    let hits := s.e2e.out.filter hit
    let s := hits.foldl (fun s o => ackPurpose s src o) s
    let s := { s with e2e := { s.e2e with out := s.e2e.out.map fun o => if hit o then ackOne src o else o } }
    markEcho ((s.e2e.out.filter fun o => o.waiting.isEmpty).foldl outDone s) port p.hdr

/-- A NACK from src for a packet of the module (03 R75, R79): a retryable one re-sends at once, any other faults the block; one for a packet that an
ACK from src has covered is ignored (R76). -/
def nackTaken (s : State) (port : Nat) (p : Packet) : State :=
  let k := namedPair p.hdr
  let n := p.hdr.seq.toNat
  let s := markEcho s port p.hdr
  match s.e2e.out.find? fun o => isOut k n o && o.waiting.contains p.hdr.src.toNat && !o.acked with
  | none => s
  | some o =>
    if retryable (p.hdr.aux.toNat % 256) then resend s o
    else faultBlock (outDone s o) o.block evPeerRefused []

-- Receiving (03 R63, R64, R73)

/-- The first clear bit of a received map at or after `i`, at most 4,096 away. -/
def runLen : Nat → BitVec 4096 → Nat → Nat
  | 0, _, i => i
  | n + 1, m, i => if m.getLsbD i then runLen n m (i + 1) else i

/-- Set the bit of a number `d` from the base; the base passes every consecutive set bit (03 R63). -/
def recvSet (r : Recv) (d : Nat) : Recv :=
  let m := r.map ||| (1#4096 <<< d)
  let n := runLen 4096 m 0
  { r with base := (r.base + n) % 2 ^ 32, map := m >>> n }

/-- The distance of a packet's number from the base of its pair (03 R63). -/
def seqDist (s : State) (h : Header) : Nat := (h.seq.toNat + 2 ^ 32 - (recvOf s h.src.toNat).base) % 2 ^ 32

/-- Whether a number was received before (03 R63). -/
def isDup (s : State) (h : Header) : Bool :=
  let d := seqDist s h
  decide (2 ^ 31 ≤ d) || (decide (d < 4096) && (recvOf s h.src.toNat).map.getLsbD d)

/-- Whether a number lies beyond the receive window (03 R63). -/
def beyondWin (s : State) (h : Header) : Bool := decide (4096 ≤ seqDist s h ∧ seqDist s h < 2 ^ 31)

/-- Note where an answer goes and a mark to echo (03 R80, 04 R87). -/
def recvNote (s : State) (port : Nat) (h : Header) : State :=
  updRecv s h.src.toNat fun r => { r with port := port, marks := if h.mark then h.seq.toNat :: r.marks else r.marks }

/-- The types answered by ACK (03, table "Packet types"). -/
def ackAnswered (t : Nat) : Bool := decide (t = tWRITE ∨ t = tREADRSP ∨ t = tATOMICRSP ∨ t = tCONTRIB ∨ t = tCALL)

/-- Count a new packet, arrived at `came`, toward its pair's ACK (03 R73): at once at ack_pkts or for a re-send. The delay runs from the first arrival
of those counted, which two ports of a source may bring out of order. -/
def ackCount (s : State) (came : Nat) (h : Header) : State :=
  let src := h.src.toNat
  let s := if ackAnswered h.typ.toNat then updRecv s src fun r =>
      if r.fresh = 0 then { r with fresh := 1, since := came, limit := ackPkts s, delay := ackDelay s }
      else { r with fresh := r.fresh + 1, since := min r.since came }
    else s
  let r := recvOf s src
  if h.resend ∨ (0 < r.fresh ∧ r.limit ≤ r.fresh) then ackNow s src else s

/-- A duplicate: acknowledged at once; the held response of a request is sent again (03 R64). -/
def dupTaken (s : State) (port : Nat) (p : Packet) : State :=
  let src := p.hdr.src.toNat
  let s := ackNow (recvNote s port p.hdr) src
  if p.hdr.typ.toNat = tREADREQ ∨ p.hdr.typ.toNat = tATOMIC then
    match s.e2e.out.find? fun o => decide (o.pkt.hdr.typ.toNat = p.hdr.typ.toNat + 1 ∧ o.pkt.hdr.dst.toNat = src ∧ o.pkt.hdr.aux = p.hdr.seq) with
    | some o => holdAt s o.die { pkt := withResend o.pkt, block := o.block, purpose := o.purpose, port := o.port, resend := true, dupRsp := true }
    | none => s
  else s

/-- The number of a new packet is received. -/
def recvNew (s : State) (port : Nat) (h : Header) : State :=
  let d := seqDist s h
  updRecv (recvNote s port h) h.src.toNat fun r => recvSet r d

/-- A response to a request of a thread (08 R195, R203): its payload goes where the thread asked, and is counted (03 R68). -/
def responseTaken (s : State) (b : Nat) (p : Packet) : State :=
  let src := p.hdr.src.toNat
  let want := p.hdr.typ.toNat - 1
  match s.e2e.out.find? fun o => decide (o.pkt.hdr.typ.toNat = want ∧ o.pkt.hdr.dst.toNat = src ∧ o.pkt.hdr.seq = p.hdr.aux) with
  | none => s
  | some o =>
    let s := outDone s o
    let s := match o.purpose with
      | .thread t => match (thrOf s t).sleep with
        | .send _ _ _ => sendDeliver s t p.payload
        | .load dest => retire (loadDest s t dest p.payload) t
        | _ => s
      | _ => s
    match ctagSlot p.hdr.ctag.toNat with
    | some k => countPlaced s b k (32 * p.hdr.len.toNat) 1
    | none => s

/-- Answer JOBFAULT where taking a packet sent its block to Faulted (06 R160). -/
def orFaulted (s : State) (w : LocalWait) : State :=
  if (blockOf s w.block).st = .faulted then nackRefused s w.port w.pkt .jobFault else ackCount s w.came w.pkt.hdr

/-- A contribution of block `b` (06 R146, R147, R153); none: it waits on its port's local path for spill room. -/
def contribTaken (s : State) (w : LocalWait) : Option State :=
  let p := w.pkt
  match contribCheck s (dieOf s w.port) p with
  | .refused r => some (refuseLocal (recvNew s w.port p.hdr) w.port p r)
  | .fault code => some (orFaulted (faultBlock (recvNew s w.port p.hdr) w.block code []) w)
  | .key k i =>
    if needsSpill s k && !spillRoom s i then none
    else
      let h := { p.hdr with mark := p.hdr.mark || (needsSpill s k && decide (50 ≤ spillPct s)) }
      some (orFaulted (enterItem (recvNew s w.port h) k w.check i) w)

/-- A call (08 R196); none: it waits on its port's local path for a queue entry. -/
def callTaken (s : State) (w : LocalWait) : Option State :=
  let p := w.pkt
  let img := p.hdr.op.toNat % 1024
  let entry := p.hdr.op.toNat / 1024
  let i := imgOf s img
  if i.st = 0 ∨ i.owner ≠ w.block ∨ i.entries.length ≤ entry then some (refuseLocal (recvNew s w.port p.hdr) w.port p .noImage)
  else (queueCall (recvNew s w.port p.hdr) img entry p).map fun s => ackCount s w.came p.hdr

/-- Take a packet to the own EPA off its port's local path (03 R63 to R65); none: it waits at the front of the path. -/
def takeLocal (s : State) (w : LocalWait) : Option State :=
  let p := w.pkt
  let t := p.hdr.typ.toNat
  if t = tACK then some (ackTaken s w.port p)
  else if t = tNACK then some (nackTaken s w.port p)
  else if beyondWin s p.hdr then some (refuseLocal s w.port p .seqWin)
  else if isDup s p.hdr then some (dupTaken s w.port p)
  else if t = tCONTRIB then contribTaken s w
  else if t = tCALL then callTaken s w
  else
    let s := recvNew s w.port p.hdr
    if t = tREADRSP ∨ t = tATOMICRSP then some (ackCount (responseTaken s w.block p) w.came p.hdr)
    else some (ackCount (match w.req with | some r => lardEnter s r | none => s) w.came p.hdr)

/-- A packet that waits for a queue entry is treated as marked (08 R196). -/
def waitMark (w : LocalWait) : LocalWait := if w.pkt.hdr.typ.toNat = tCALL then { w with pkt := withMark w.pkt true } else w

/-- Run a port's local path until it is empty, its front packet waits, or it holds a request that waits for exact cells (10 R260); `n` bounds the
packets. -/
def runLocal : Nat → State → Nat → State
  | 0, s, _ => s
  | n + 1, s, port =>
    match s.localQ.find? fun w => decide (w.port = port) with
    | none => s
    | some w =>
      if cellsHold s port then s
      else match takeLocal { s with localQ := s.localQ.erase w } w with
        | some s' => runLocal n s' port
        | none => { s with localQ := s.localQ.map fun x => if x = w then waitMark x else x }

/-- A packet to the own EPA enters its port's local path (06 R153, 08 R196). -/
def localEnter (s : State) (w : LocalWait) : State :=
  runLocal (s.localQ.length + 1) { s with localQ := s.localQ ++ [w] } w.port

-- Arrival

/-- A packet whose trailer passed meets the checks (02 R45). -/
def takePacket (s : State) (port : Nat) (p : Packet) (checks : List LadleCheck) : State :=
  let s := if headerOk p.hdr && decide (plannedEpa s port = some p.hdr.src.toNat) then skewCheck s p else s
  let b := chargeOf s p.hdr.src.toNat
  match verdict s port p with
  | .refuse r => refuse45 s port p r
  | .stale => refuse45 { s with epoch := { s.epoch with stale := satInc 32 s.epoch.stale } } port p .noRoute
  | .cross x => crossing s port p x
  | .forward q =>
    let (fl, s) := flightOf s p (some port) b
    let (i, s) := arrInput s port
    xInsert s (dieOf s port) i false false fl [xdestOf s (dieOf s port) q] [q]
  | .replicate =>
    let (fl, s) := flightOf s p (some port) b
    let (i, s) := arrInput s port
    replicate s (dieOf s port) i false fl (some port)
  | .own =>
    let t := p.hdr.typ.toNat
    let req := if t = tWRITE ∨ t = tREADREQ ∨ t = tATOMIC then lardDecode s port b p else none
    localEnter s { port := port, block := b, pkt := p, check := checks, came := s.now, req := req }

/-- Whether an earlier copy of a numbered packet waits on its port's local path: this one will be its duplicate (03 R63). -/
def waitsHere (s : State) (h : Header) : Bool :=
  s.localQ.any fun w => !unnumbered w.pkt.hdr.typ.toNat && decide (w.pkt.hdr.src = h.src ∧ w.pkt.hdr.seq = h.seq)

/-- The NACK reason that a packet draws as it arrives, and whether it is a duplicate, for its record (11 R284, R286). -/
def foretell (s : State) (port : Nat) (p : Packet) (checks : List LadleCheck) : Option Reason × Bool :=
  let t := p.hdr.typ.toNat
  match verdict s port p with
  | .refuse r => (some r, false)
  | .stale => (some .noRoute, false)
  | .cross _ => (some .outsideBlock, false)
  | .forward _ | .replicate => (none, false)
  | .own =>
    let b := chargeOf s p.hdr.src.toNat
    if unnumbered t then (none, false)
    else if beyondWin s p.hdr then (some .seqWin, false)
    else if isDup s p.hdr || waitsHere s p.hdr then (none, true)
    else if t = tCONTRIB then
      match contribCheck s (dieOf s port) p with
      | .refused r => (some r, false)
      | _ => (if (blockOf (takePacket s port p checks) b).st = .faulted then some .jobFault else none, false)
    else if t = tCALL then
      let i := imgOf s (p.hdr.op.toNat % 1024)
      (if i.st = 0 ∨ i.owner ≠ b ∨ i.entries.length ≤ p.hdr.op.toNat / 1024 then some .noImage else none, false)
    else (none, false)

/-- The cells of a packet whose trailer fails hold room and cross until its last cell (04 R83): it enters the crossbar with its first cell, where its
header passes, and the others follow one each cell time (DESIGN CHOICE, log 16). A packet of one cell is discarded at once. -/
def failingEnter (s : State) (port : Nat) (p : Packet) : State :=
  let d := dieOf s port
  if cellsOf p < 2 then s
  else
    let go := fun (f : State → Nat → Flight → State) =>
      let (fl, s) := flightOf s p (some port) (chargeOf s p.hdr.src.toNat)
      let (i, s) := arrInput s port
      updHub (f s i { fl with bad := true }) d fun h => { h with failing := h.failing ++ [(fl.id, cellsOf p - 1)] }
    match verdict s port p with
    | .forward q => go fun s i fl => xInsert s d i false false fl [xdestOf s d q] [q] none (some 1)
    | .replicate => go fun s i fl => replicate s d i false fl none (some 1)
    | _ => s

/-- Count a packet whose trailer failed (17 R420). -/
def countCrc (s : State) (port : Nat) : State :=
  updPort s port fun q => { q with cnt := { q.cnt with crcFail := (q.cnt.crcFail + 1) % 2 ^ 32 } }

/-- A packet that a port held by a replay discards (11 R292): counted, sampled and captured (17 R420, R428, R431), in no recording (log 21). -/
def liveSeen (s : State) (port : Nat) (p : Packet) (failed : Bool) : State :=
  let s := watchLive (if failed then countCrc s port else s) port p failed none
  { s with replay := { s.replay with live := satInc 32 s.replay.live } }

/-- A packet whose trailer failed (03 R60, 02 R46, R47). -/
def crcFailed (s : State) (port : Nat) (p : Packet) : State :=
  let s := failingEnter (watchIngress (countCrc s port) port p true none false) port p
  if unnumbered p.hdr.typ.toNat then s else nackRefused s port p .crc

/-- Count an arriving packet; a re-send counts as one only where its trailer passes (03 R60, 17 R420). -/
def countArrival (s : State) (port : Nat) (p : Packet) : State :=
  updPort s port fun q => { q with cnt := { q.cnt with
    rxPkts := (q.cnt.rxPkts + 1) % 2 ^ 64, rxCells := (q.cnt.rxCells + cellsOf p) % 2 ^ 64,
    resendRx := (q.cnt.resendRx + b2n (p.hdr.resend && trailerOk p)) % 2 ^ 32 } }

/-- A counted packet passes the trailer check and what follows (03 R60, 02 R45). -/
def process (s : State) (port : Nat) (p : Packet) (checks : List LadleCheck) : State :=
  if trailerOk p then
    let (r, dup) := foretell s port p checks
    takePacket (watchIngress s port p false (r.map reasonCode) dup) port p checks
  else crcFailed s port p

/-- Whether a port receives packets: Up, its receiver neither idle nor discarding its stream (12 R305, R313). -/
def receives (s : State) (port : Nat) : Bool :=
  let q := portOf s port
  dpRuns s && decide (q.stage = .up) && !q.rxIdle && !q.dropStream

/-- A packet that a port in Quarantine discards: its DATA rounds count (13 R333). It joins the round in which the packet before it ended, where that is less
than a round ago and has room (DEDUCED, log 17). -/
def quarantined (s : State) (port n : Nat) : State :=
  if dpRuns s && decide ((portOf s port).stage = .quarantine) then
    let cap := 640 * lanesPer (portW s port)
    updPort s port fun q =>
      let room := if s.now < q.rxEnd then cap - q.rxFill else 0
      let more := ceilDiv (n - room) cap
      if more = 0 then { q with rxFill := q.rxFill + n }
      else { q with discarded := min 15 (q.discarded + more), rxEnd := s.now + 25, rxFill := n - room - cap * (more - 1) }
  else s

/-- A packet arrives from the link partner; a port held by a replay counts, samples and captures it, and discards it (11 R292, 17 R428, R431). -/
def arrival (s : State) (port : Nat) (p : Packet) (checks : List LadleCheck) : State :=
  if receives s port then
    let s := countArrival s port p
    if replayMutes s port then
      liveSeen s port p (!trailerOk p)
    else process s port p checks
  else quarantined s port (packetBytes p).length

/-- An arrival row: its packet has one of the row's types. -/
def arrivalRow (s : State) (ok : Bool) (port : Nat) (p : Packet) (checks : List LadleCheck := []) : Host.Outcome State Fault Refusal :=
  onUnit (portExists s port) s fun s => if ok then arrival s port p checks else s

def execWrite (port : Nat) (p : Packet) (s : State) : Host.Outcome State Fault Refusal :=
  arrivalRow s (p.hdr.typ.toNat == tWRITE) port p
def execReadReq (port : Nat) (p : Packet) (s : State) : Host.Outcome State Fault Refusal :=
  arrivalRow s (p.hdr.typ.toNat == tREADREQ) port p
def execReadRsp (port : Nat) (p : Packet) (s : State) : Host.Outcome State Fault Refusal :=
  arrivalRow s (p.hdr.typ.toNat == tREADRSP) port p
def execAtomic (port : Nat) (p : Packet) (s : State) : Host.Outcome State Fault Refusal :=
  arrivalRow s (p.hdr.typ.toNat == tATOMIC) port p
def execAtomicRsp (port : Nat) (p : Packet) (s : State) : Host.Outcome State Fault Refusal :=
  arrivalRow s (p.hdr.typ.toNat == tATOMICRSP) port p
def execCollContrib (port : Nat) (p : Packet) (checks : List LadleCheck) (s : State) : Host.Outcome State Fault Refusal :=
  arrivalRow s (p.hdr.typ.toNat == tCONTRIB) port p checks
def execGalleyCall (port : Nat) (p : Packet) (s : State) : Host.Outcome State Fault Refusal :=
  arrivalRow s (p.hdr.typ.toNat == tCALL) port p
def execAck (port : Nat) (p : Packet) (s : State) : Host.Outcome State Fault Refusal :=
  arrivalRow s (p.hdr.typ.toNat == tACK) port p
def execNack (port : Nat) (p : Packet) (s : State) : Host.Outcome State Fault Refusal :=
  arrivalRow s (p.hdr.typ.toNat == tNACK) port p

/-- INVALID_TYPE_PACKET (03 R58): types 0xC to 0xF, and COLL_RESULT or SHORTFALL from a link partner. -/
def execInvalidTypePacket (port : Nat) (p : Packet) (s : State) : Host.Outcome State Fault Refusal :=
  arrivalRow s (decide (12 ≤ p.hdr.typ.toNat) || p.hdr.typ.toNat == tRESULT || p.hdr.typ.toNat == tSHORTFALL) port p

/-- QUEUE_STATE_EXCHANGE (04 R94): waiting local paths try again (log 17), then the exchange. -/
def execQueueStateExchange (s : State) : Host.Outcome State Fault Refusal :=
  done s (if dpRuns s then exchange ((allPorts s).foldl (fun s p => runLocal (s.localQ.length + 1) s p) s) else s)

end Sys2Proof.Machine
end

