-- ==== Sys2Proof/Machine/Firmware.lean ====
section
/-! DEFINITION. The bytes of a firmware set (15 R382, R383): manifest, signatures, owner area, images. SLH-DSA verification is a free predicate and the
content of an image is free (log 8). -/

namespace Sys2Proof.Machine

/-- Bytes before the first image: manifest, Colninal signature and owner area (15 R382). -/
def setHeadBytes : Nat := 60672

/-- An entry of the manifest: image type, offset and length (15, table "Manifest"). -/
def imageEntry (b : List Byte) (i : Nat) : Nat × Nat × Nat :=
  (getLe b (64 + 96 * i) 1, getLe b (68 + 96 * i) 4, getLe b (72 + 96 * i) 4)

/-- The first byte after image `i`. -/
def imageEnd (b : List Byte) (i : Nat) : Nat := let e := imageEntry b i; e.2.1 + e.2.2

/-- Whether the bytes from `off` are all 0. -/
def zeroBytes (b : List Byte) (off n : Nat) : Bool := (slice b off n).all fun x => decide (x = 0)

/-- Condition 1 of 15 R383 over a set of `total` bytes, but for the fields that `FwSet` holds: every image behind the head and inside the set, aligned to
4 KiB, none over another, each type once; rsvd bytes 0. DESIGN CHOICE: bytes 144 to 159 of an entry, which the table leaves out, are not checked (log 8). -/
def manifestOk (b : List Byte) (total : Nat) : Bool :=
  let es := (List.range 5).map (imageEntry b)
  decide (getLe b 20 4 = total ∧ getLe b 6 1 ≤ 63) && zeroBytes b 7 1 && zeroBytes b 24 40 && zeroBytes b 608 416 &&
  (List.range 5).all (fun i => zeroBytes b (65 + 96 * i) 3 && zeroBytes b (76 + 96 * i) 4) &&
  es.all (fun e => decide (setHeadBytes ≤ e.2.1 ∧ e.2.1 % 4096 = 0 ∧ 64 ≤ e.2.2 ∧ e.2.1 + e.2.2 ≤ total)) &&
  (List.range 5).all (fun i => es.any fun e => decide (e.1 = i + 1)) &&
  es.all fun e => (es.filter fun x => decide (x.2.1 < e.2.1 + e.2.2 ∧ e.2.1 < x.2.1 + x.2.2)).length == 1

/-- The bytes of image `i`. -/
def imageBytes (b : List Byte) (i : Nat) : List Byte := let e := imageEntry b i; slice b e.2.1 e.2.2

/-- What the Keccak engine finds of an image: the fields of its 64 B header, whether the header's length is the manifest's and its other bytes are 0,
and the digest (15 R383). -/
def imageOf (b : List Byte) (i : Nat) : FwImage :=
  let m := imageBytes b i
  { typ := getLe m 0 1, set := getLe m 4 2,
    headerOk := decide (getLe m 8 4 = m.length) && zeroBytes m 1 3 && zeroBytes m 6 2 && zeroBytes m 12 52, digest := shake256 m 64 }

/-- The set that bytes of a transfer of `total` bytes spell (15, table "Manifest"). The library items 0 to 63 of the galley runtime image are free (log 8). -/
def parseSet (b : List Byte) (total : Nat) : FwSet :=
  let man := slice b 0 1024
  let key := slice b 544 64
  let own := slice b 30816 64
  { version := getLe b 0 2, nImages := getLe b 2 2, set := getLe b 4 2, epoch := getLe b 6 1,
    steppings := ((slice b 8 8).map BitVec.toNat).filter fun x => decide (x ≠ 0),
    linkMajor := getLe b 16 1, linkMinor := getLe b 17 1, arithRev := getLe b 18 1, signer := getLe b 19 1, size := getLe b 20 4,
    layoutOk := manifestOk b total, keyDigest := shake256 key 64, signatureOk := Config.signatureGood key man (slice b 1024 29792),
    ownerKeyDigest := if zeroBytes b 30880 29792 then none else some (shake256 own 64),
    ownerSigOk := Config.signatureGood own man (slice b 30880 29792),
    entries := (List.range 5).map fun i => ((imageEntry b i).1, slice b (80 + 96 * i) 64),
    images := (List.range 5).map (imageOf b), manifestDigest := shake256 man 64,
    library := (List.range 5).flatMap fun i =>
      if (imageEntry b i).1 = 3 then (List.range 64).map fun k => (k, Config.libraryItem (imageBytes b i) k) else [] }

end Sys2Proof.Machine
end

