-- ==== Sys2Proof/Machine/Frames.lean ====
section
/-! DEFINITION. Lonus frames (14 R349): their bytes, their CRC, the frames that the module forms, the payload of an event (R356, R365), and the line
that carries them (R347, R367). -/

namespace Sys2Proof.Machine

/-- The 32 header bytes of a frame. -/
def frameHeader (f : Frame) : List Byte :=
  [f.ftype, BitVec.ofNat 8 (fields [(0, 1, b2n f.resend), (1, 1, b2n f.last), (2, 1, b2n f.gap), (3, 5, f.flagsRsvd.toNat)])] ++
  leBytes 2 f.session.toNat ++ leBytes 2 f.tag.toNat ++ leBytes 2 f.code.toNat ++ [f.status] ++ leBytes 3 f.rsvd.toNat ++
  leBytes 4 f.length.toNat ++ leBytes 8 f.word.toNat ++ leBytes 8 f.axle.toNat

/-- Header, payload and padding to 8 bytes. -/
def frameBody (f : Frame) : List Byte :=
  frameHeader f ++ f.payload ++ List.replicate (alignUp f.payload.length 8 - f.payload.length) 0

/-- The CRC-64 of a frame. -/
def frameCrc (f : Frame) : Nat := crc64 (frameBody f)

/-- The bytes of a frame on the line. -/
def frameBytes (f : Frame) : List Byte := frameBody f ++ leBytes 8 f.trailer.toNat

/-- A frame of the module: its session, length and trailer are filled in. -/
def ownFrame (s : State) (ftype tag code word axle : Nat) (payload : List Byte) (resend last gap : Bool) (status : Nat) : Frame :=
  let f : Frame :=
    { ftype := BitVec.ofNat 8 ftype, resend := resend, last := last, gap := gap, flagsRsvd := 0, session := BitVec.ofNat 16 s.lonus.session,
      tag := BitVec.ofNat 16 tag, code := BitVec.ofNat 16 code, status := BitVec.ofNat 8 status, rsvd := 0,
      length := BitVec.ofNat 32 payload.length, word := BitVec.ofNat 64 word, axle := BitVec.ofNat 64 axle, payload := payload, trailer := 0 }
  { f with trailer := BitVec.ofNat 64 (frameCrc f) }

/-- A RESPONSE frame: its word is the total of its bulk (14 R349). -/
def respFrame (s : State) (r : Response) : Frame := ownFrame s 2 r.tag r.op r.bulk.length r.axle r.payload r.resend false false r.status

/-- A BULK frame of a transfer out, from `off` on; the final one carries last (14 R349, R359). -/
def bulkOut (s : State) (tag op off : Nat) (b : List Byte) (last : Bool) : Frame := ownFrame s 5 tag op off s.axle.value b false last false 0

/-- The sizes of an event's items (14 R356): the smallest of 2, 4 and 8 B that holds the stated range, or the size that the defining rule gives; 2 B for
what the list leaves out. DESIGN CHOICE: 4 B for counts without a stated range (log 29). -/
def itemSizes (code : Nat) : List Nat :=
  if code = evCollTimeout then [8, 4, 2]
  else if code = evLarderOp then [2, 8, 4]
  else if code = evLarderUe then [8, 2, 2, 2, 1]
  else if code = evGalleyFault then [2, 2, 2, 2, 2, 2, 2, 8, 8, 4]
  else if code = evEngineFault then [2, 2, 2, 2, 2, 2, 2, 2, 2, 8]
  else if code = evPortFlushed then [2, 4, 4, 4]
  else if code = evQuarantine then [2, 2, 2, 2, 8]
  else if code = evDrainSlow then [4]
  else if code = evRepairFound ∨ code = evRepairFull then [2, 4]
  else if code = evReplayDigest then [4]
  else if code = evTelemGap then [8, 8]
  else if code = evSealOpen ∨ code = evSealClose then [1]
  else if code = 0x0244 ∨ code = 0x094D then [2, 8]
  else []

/-- An event's payload: its block, its items, its 32 B datum or set of ranks (14 R365). -/
def eventPayload (e : Event) : List Byte :=
  layout ((2, e.block) :: ((enum e.items).map fun x => (((itemSizes e.code)[x.1]?).getD 2, x.2)) ++
    (if e.datum.isEmpty then [] else [(32, ofLe e.datum)]))

def eventFrame (s : State) (e : Event) : Frame := ownFrame s 3 0 e.code e.seq e.axle (eventPayload e) false false false 0

/-- A TELEMETRY (4) or MIRROR (6) frame. -/
def streamOut (s : State) (ftype : Nat) (f : StreamFrame) : Frame := ownFrame s ftype 0 f.code f.seq f.axle f.payload false false f.gap 0

/-- Bytes of a frame with a payload of `n` bytes (14 R349). -/
def frameSize (n : Nat) : Nat := 40 + alignUp n 8

/-- Bytes that may be sent in any 10 µs (14 R367). -/
def rateBytes (l : Lonus) : Nat := 10000 * max 1 l.rxRate

/-- When `n` bytes may follow frames sent at the times `l`, oldest first, so that no 10 µs carry more than `most`. -/
def rateAt (most n now : Nat) : List (Nat × Nat) → Nat
  | [] => now
  | e :: rest => if ((e :: rest).map Prod.snd).sum + n ≤ most then now else rateAt most n (max now (e.1 + 10000)) rest

/-- Payload bytes of a BULK frame: at most 16,384, and no more than 10 µs take at rx_rate (14 R349, R367; log 24). -/
def bulkPart (l : Lonus) : Nat := min 16384 (rateBytes l - 40)

/-- Put a frame on the line, when rx_rate and the line allow it (14 R347, R367). -/
def sendFrame (s : State) (x : Frame) : State :=
  let n := frameSize x.payload.length
  let s := lonusFill (waitUntil s (rateAt (rateBytes s.lonus) n s.now s.lonus.recent))
  let s := waitUntil s (txFree lonusLine s.lonus.tx)
  let s := updLTx s fun t => txSend lonusLine (frameBytes x) t
  updLonus s fun l => { l with sent := l.sent ++ [x], recent := (l.recent.filter fun e => decide (s.now < e.1 + 10000)) ++ [(s.now, n)] }

-- Frames from the host's codewords (14 R347, R349)

/-- The stream bytes that the codewords of the host's lane carry, descrambled: those of DATA codewords; none where one is uncorrectable or its header is
none of the line's. -/
def lonusStream : List (List Nat) → Option (List Byte)
  | [] => some []
  | w :: ws => match cwRead w, lonusStream ws with
    | some (_, h, b), some rest => if bits h 0 8 = 0 then some (b ++ rest) else if bits h 0 8 = 1 then some rest else none
    | _, _ => none

/-- The frame that begins a stream; its trailer is good where it fits every byte before it. -/
def frameOf (b : List Byte) : Frame :=
  let n := getLe b 12 4
  let body := slice b 0 (32 + alignUp (min n 16385) 8)
  let fl := getLe b 1 1
  let f : Frame :=
    { ftype := BitVec.ofNat 8 (getLe b 0 1), resend := bit fl 0, last := bit fl 1, gap := bit fl 2, flagsRsvd := BitVec.ofNat 5 (fl / 8),
      session := BitVec.ofNat 16 (getLe b 2 2), tag := BitVec.ofNat 16 (getLe b 4 2), code := BitVec.ofNat 16 (getLe b 6 2),
      status := BitVec.ofNat 8 (getLe b 8 1), rsvd := BitVec.ofNat 24 (getLe b 9 3), length := BitVec.ofNat 32 n,
      word := BitVec.ofNat 64 (getLe b 16 8), axle := BitVec.ofNat 64 (getLe b 24 8), payload := slice body 32 (min n 16385), trailer := 0 }
  { f with trailer := BitVec.ofNat 64 (if crc64 body = getLe b body.length 8 then frameCrc f else frameCrc f + 1) }

/-- The frame that a row brings: the one its codewords carry from byte `start` of their stream, or the row's own where it brings none (log 12). A frame with
an uncorrectable codeword has no good trailer. -/
def rowFrame (f : Frame) (words : List (List Nat)) (start : Nat) : Frame :=
  if words.isEmpty then f else frameOf (((lonusStream words).getD []).drop start)

end Sys2Proof.Machine
end

