-- ==== Sys2Proof/Machine/Registers.lean ====
section
/-! DEFINITION. The register map (01 R11, R12, 14 R362 and the register section of each chapter): the register at an address, its word in
effect, which bits a write may change, the checks of a write, and what a write does. -/

namespace Sys2Proof.Machine

/-- A register of the module. Numbers are a hub die `d`, a port or lane index on the die `k`, a word `w`, or an index of the array. -/
inductive Reg where
  | hubCtl (d i : Nat)
  | egqStat (d k : Nat)
  | galStat (d : Nat)
  | engStat (d e : Nat)
  | engWait (d : Nat)
  | engCnt (d e w : Nat)
  | portWidth (d : Nat)
  | linkCtl (d : Nat)
  | hitchStat (d k : Nat)
  | laneStat (d l : Nat)
  | laneCe (d l : Nat)
  | laneUe (d l : Nat)
  | laneMap (d j : Nat)
  | planStat (d k : Nat)
  | axleDly (d k : Nat)
  | portCnt (d k w : Nat)
  | qhist (d k i : Nat)
  | telem (d w : Nat)
  | lard (n off : Nat)
  | mod (off : Nat)
  | self
  | e2eCtl
  | jblk (b i : Nat)
  | win (w i : Nat)
  | epoch (i : Nat)
  | coord (v i : Nat)
  | seed (b i : Nat)
  | step (b i : Nat)
  | record (r i : Nat)
  | replay (i : Nat)
  | axle (i : Nat)
  | certCtl
  | skew (b : Nat)
  | certRes (p : Nat)
  | harnCfg (h i : Nat)
  | harnStat (h i : Nat)
  | galImg (i j : Nat)
  | galBind (h : Nat)
  | mcast (v g i : Nat)
  | member (h j : Nat)
  deriving DecidableEq, Repr

/-- The register at an offset of hub die `d`. -/
def hubRegAt (d o : Nat) : Option Reg :=
  if 0x4000 ≤ o ∧ o < 0x4018 then some (.hubCtl d ((o - 0x4000) / 4))
  else if 0x4100 ≤ o ∧ o < 0x4200 then some (.egqStat d ((o - 0x4100) / 4))
  else if o = 0x5000 then some (.galStat d)
  else if 0x6000 ≤ o ∧ o < 0x6018 then some (.engStat d ((o - 0x6000) / 4))
  else if o = 0x6018 then some (.engWait d)
  else if 0x6100 ≤ o ∧ o < 0x6160 then some (.engCnt d ((o - 0x6100) / 16) (o % 16 / 4))
  else if o = 0x7000 then some (.portWidth d)
  else if o = 0x7004 then some (.linkCtl d)
  else if 0x7100 ≤ o ∧ o < 0x7200 then some (.hitchStat d ((o - 0x7100) / 4))
  else if 0x7200 ≤ o ∧ o < 0x7400 then some (.laneStat d ((o - 0x7200) / 4))
  else if 0x7400 ≤ o ∧ o < 0x7600 then some (.laneCe d ((o - 0x7400) / 4))
  else if 0x7600 ≤ o ∧ o < 0x7800 then some (.laneUe d ((o - 0x7600) / 4))
  else if 0x7800 ≤ o ∧ o < 0x7810 then some (.laneMap d ((o - 0x7800) / 4))
  else if 0x8000 ≤ o ∧ o < 0x8100 then some (.planStat d ((o - 0x8000) / 4))
  else if 0x8100 ≤ o ∧ o < 0x8200 then some (.axleDly d ((o - 0x8100) / 4))
  else if 0x9000 ≤ o ∧ o < 0xA000 then some (.portCnt d ((o - 0x9000) / 64) (o % 64 / 4))
  else if 0xA000 ≤ o ∧ o < 0xB000 then some (.qhist d ((o - 0xA000) / 64) (o % 64 / 4))
  else if 0xB000 ≤ o ∧ o < 0xB040 then some (.telem d ((o - 0xB000) / 4))
  else none

/-- The offsets of a larder die's registers (10 R269, 17 R423). -/
def lardOffs : List Nat := [0x0, 0x10, 0x14, 0x18, 0x1C, 0x20, 0x24, 0x28, 0x2C]

/-- The offsets of the module's registers. -/
def modOffs : List Nat :=
  [0x100, 0x104, 0x108, 0x110, 0x114, 0x118, 0x200, 0x204, 0x208, 0x210, 0x214, 0x218, 0x300, 0x304, 0x308, 0x400, 0x404, 0x408,
   0x410, 0x414, 0x418, 0x41C, 0x420, 0x500, 0x504, 0x508, 0x50C, 0x510]

/-- The stage-level register at an offset. -/
def stgRegAt (o : Nat) : Option Reg :=
  if o = 0 then some .self
  else if o = 0x10 then some .e2eCtl
  else if 0x1000 ≤ o ∧ o < 0x1800 then some (.jblk ((o - 0x1000) / 16) (o % 16 / 4))
  else if 0x2000 ≤ o ∧ o < 0x2400 then (if o % 16 < 12 then some (.win ((o - 0x2000) / 16) (o % 16 / 4)) else none)
  else if 0x3000 ≤ o ∧ o < 0x3010 then some (.epoch ((o - 0x3000) / 4))
  else if 0x4000 ≤ o ∧ o < 0x4800 then some (.coord ((o - 0x4000) / 1024) (o % 1024 / 4))
  else if 0x5000 ≤ o ∧ o < 0x5400 then some (.seed ((o - 0x5000) / 8) (o % 8 / 4))
  else if 0x6000 ≤ o ∧ o < 0x6800 then some (.step ((o - 0x6000) / 16) (o % 16 / 4))
  else if 0x7000 ≤ o ∧ o < 0x7100 then (if o % 16 < 12 then some (.record ((o - 0x7000) / 16) (o % 16 / 4)) else none)
  else if 0x7100 ≤ o ∧ o < 0x710C then some (.replay ((o - 0x7100) / 4))
  else if 0x8000 ≤ o ∧ o < 0x800C then some (.axle ((o - 0x8000) / 4))
  else if o = 0x8010 then some .certCtl
  else if 0x9000 ≤ o ∧ o < 0x9200 then some (.skew ((o - 0x9000) / 4))
  else if 0xA000 ≤ o ∧ o < 0xA400 then some (.certRes ((o - 0xA000) / 4))
  else if 0x10000 ≤ o ∧ o < 0x20000 then (if o % 64 < 0x24 then some (.harnCfg ((o - 0x10000) / 64) (o % 64 / 4)) else none)
  else if 0x20000 ≤ o ∧ o < 0x24000 then some (.harnStat ((o - 0x20000) / 16) (o % 16 / 4))
  else if 0x30000 ≤ o ∧ o < 0x34000 then some (.galImg ((o - 0x30000) / 16) (o % 16 / 4))
  else if 0x34000 ≤ o ∧ o < 0x35000 then some (.galBind ((o - 0x34000) / 4))
  else if 0x40000 ≤ o ∧ o < 0x80000 then
    (if o % 32 < 0x14 then some (.mcast ((o - 0x40000) / 0x20000) (o % 0x20000 / 32) (o % 32 / 4)) else none)
  else if 0x80000 ≤ o ∧ o < 0x100000 then some (.member ((o - 0x80000) / 512) (o % 512 / 4))
  else none

/-- The register that a 32-bit address names, or the status of 14 R362 items 1 to 3. -/
def regOf (a : Nat) : Except Status Reg :=
  let level := bits a 28 4
  let inst := bits a 20 8
  let o := bits a 0 20
  let found := fun (r : Option Reg) => match r with | some x => .ok x | none => .error .notFound
  if level = 3 then
    if inst < 4 then found (hubRegAt inst o)
    else if 0x10 ≤ inst ∧ inst < 0x16 then found (if o ∈ lardOffs then some (.lard (inst - 0x10) o) else none)
    else .error .notFound
  else if level = 4 then found (if inst = 0 ∧ o ∈ modOffs then some (.mod o) else none)
  else if level = 5 then found (if inst = 0 then stgRegAt o else none)
  else .error .badParam

-- Words in effect

def slotCode : SlotState → Nat
  | .empty => 0 | .writing => 1 | .staged => 2 | .armed => 3 | .active => 4 | .bad => 5

/-- MOD_FW_SLOT of a slot. -/
def slotWord (x : Slot) : Nat :=
  fields [(0, 16, (x.set.map FwSet.set).getD 0), (16, 3, slotCode x.state), (24, 6, (x.set.map FwSet.epoch).getD 0)]

/-- The cap in force and its source; on equal caps the lower source code (16 R399; log 14). -/
def capNow (s : State) : Nat × Nat :=
  let c := [(sustained s, 0)] ++ (if s.pwr.mgrCap = 0 then [] else [(s.pwr.mgrCap, 1)]) ++
    (if s.pwr.trayCap = 0 then [] else [(s.pwr.trayCap, 2)]) ++
    (if s.lonus.orphan then [(s.pwr.orphanPct * sustained s / 100, 3)] else []) ++ [(min s.pwr.thermCap (sustained s), 4)]
  (minBy (fun x => (x.1 : Int)) c).getD (0, 0)

/-- A port word of die `d`, 0 for an index that no port populates. -/
def onPort (s : State) (d k : Nat) (other : Nat) (f : Nat → Port → Nat) : Nat :=
  match portAtIdx s d k with | some p => f p (portOf s p) | none => other

/-- HUB_HITCH_STAT of a port (12 R321). -/
def hitchWord (s : State) (p : Nat) : Nat :=
  let q := portOf s p
  fields [(0, 4, stageCode q.stage), (4, 4, min 15 q.failures), (8, 1, b2n (q.txIdle && decide (q.beaconEnd ≤ s.now))), (9, 1, b2n q.rxIdle), (10, 2, portW s p),
          (12, 4, q.failStage), (16, 4, q.failCause), (24, 8, min 255 q.ups)]

/-- HUB_PLAN_STAT of a port (13 R346). -/
def planWord (s : State) (p : Nat) : Nat :=
  let q := portOf s p
  fields [(0, 2, ((planEntry s p).map PlanEntry.state).getD 0), (2, 4, q.check), (8, 16, q.pEpa), (24, 4, q.minor),
          (28, 4, min 15 q.discarded)]

/-- HUB_EGQ_STAT of a port (04 R115). -/
def egqWord (s : State) (p : Nat) : Nat :=
  let q := portOf s p
  fields [(0, 14, egOcc q), (14, 6, markDepthOf s p / 64), (20, 1, b2n q.ovf), (21, 1, b2n q.flushing),
          (22, 1, b2n (decide (q.stage ≠ .up)))]

/-- Word `w` of a port's counters (17, table "Port counter words"). -/
def cntWord (c : PortCnt) (w : Nat) : Nat :=
  let wide := [c.rxPkts, c.txPkts, c.rxCells, c.txCells, c.stall]
  if w < 10 then bits ((wide[w / 2]?).getD 0) (32 * (w % 2)) 32
  else (([c.crcFail, c.refused, c.resendRx, c.marked, c.diverted, c.flushed])[w - 10]?).getD 0 % 2 ^ 32

/-- Word `w` of a hub die's unit counters (17, table "Hub unit counter words"). -/
def telemWord (h : Hub) (w : Nat) : Nat :=
  if w < 6 then bits ((([h.choice, h.ladle, h.galley])[w / 2]?).getD 0) (32 * (w % 2)) 32
  else (([h.droop, h.resends, h.lostSmp])[w - 6]?).getD 0 % 2 ^ 32

/-- HUB_LANE_STAT (12 R321). -/
def laneWord (s : State) (l : Nat) : Nat :=
  let x := laneOf s l
  let eye := s.eye.any fun e => decide (32 * e.chiplet + e.lane = l)
  fields [(0, 1, b2n x.signal), (1, 1, b2n x.cdr), (2, 1, b2n x.cw), (3, 1, b2n x.polInv), (4, 1, b2n x.idle),
          (5, 1, b2n (x.gen.isSome || x.chk.isSome)), (6, 1, b2n eye), (8, 3, x.rxLane), (12, 7, x.skew), (24, 6, x.ctle)]

/-- HUB_LANE_MAP of a chiplet (12 R321): the marked slices, lower first. -/
def laneMapWord (s : State) (k : Nat) : Nat :=
  match Tab.get [] s.lmap k with
  | a :: b :: _ => fields [(0, 6, a), (6, 1, 1), (8, 6, b), (14, 1, 1)]
  | [a] => fields [(0, 6, a), (6, 1, 1)]
  | [] => 0

/-- A larder die's registers (10 R269, 17 R423). -/
def lardWord (s : State) (n off : Nat) : Nat :=
  let x := ldOf s n
  let here := decide (n < ldCount s)
  match off with
  | 0x0 => fields [(0, 2, if here then s.lard.state else if s.lard.state = 1 then 3 else 0), (2, 2, if here then 2 else 0),
                   (8, 3, x.spares), (11, 1, b2n (s.lard.hot.contains n))]
  | 0x10 => min x.ce 0xFFFFFFFF
  | 0x14 => min x.ue 0xFFFF
  | 0x18 => x.lastAddr % 2 ^ 32
  | 0x1C => fields [(0, 7, x.lastAddr / 2 ^ 32), (8, 4, x.lastStk), (12, 5, x.lastPc)]
  | 0x20 => min x.stalls 0xFFFFFFFF
  | 0x24 => if here then cellsOn s n else 0
  | 0x28 => x.choice % 2 ^ 32
  | _ => x.choice / 2 ^ 32 % 2 ^ 32

/-- MOD_START_STAT: outside Setup the values of the last entry to Ready (18 R457). -/
def startWord (s : State) : Nat :=
  let live := decide (s.mod.st = .setup)
  let x := if live then s.mod.start else s.mod.startKept
  fields [(0, 1, b2n x.checkDone), (1, 1, b2n x.checkPass), (2, 1, b2n (if live then planInForce s else x.plan)),
    (3, 1, b2n (if live then s.epoch.loaded else x.loaded)), (4, 1, b2n (if live then s.axle.locked && !s.axle.warmWait else x.axle)),
    (8, 9, if live then (((plannedPorts s).filter fun p => decide ((portOf s p).check ≠ 1))).length else x.pending)]

/-- The heap region allocated, in percent (10 R269). -/
def heapPct (s : State) : Nat :=
  if heapGib s = 0 then 0 else min 100 (100 * (s.lard.grants.map fun g => g.2.2).sum / (heapGib s * gib))

/-- MOD_PRESENCE (14 R373). -/
def presenceWord (s : State) : Nat :=
  fields [(0, 1, b2n s.mgmt.opened), (1, 1, b2n s.mgmt.jumper), (2, 1, b2n s.mgmt.sealA), (3, 1, b2n s.mgmt.sealB),
    (4, 1, b2n s.mgmt.debug),
    (8, 9, if s.mgmt.opened ∧ ¬ s.mgmt.jumper then ceilDiv (s.mgmt.closeAt - s.now) 1000000000 else 0),
    (17, 9, s.nv.sealLog.length), (26, 6, min 63 s.nv.sealOverflow)]

/-- The module-level registers. -/
def modWord (s : State) (off : Nat) : Nat :=
  match off with
  | 0x100 => 3
  | 0x104 => b2n s.nv.steady
  | 0x108 => fields [(0, 8, ((activeSet s).map FwSet.linkMajor).getD 0), (8, 8, ((activeSet s).map FwSet.linkMinor).getD 0)]
  | 0x110 => regAt s 0x40000110 2000
  | 0x114 => fields [(0, 8, s.mod.cause), (8, 2, s.mod.unitKind), (10, 1, b2n s.mod.unitValid), (16, 16, s.mod.unit)]
  | 0x118 => startWord s
  | 0x200 => layout1 s
  | 0x204 => layout2 s
  | 0x208 => poolGib s
  | 0x210 => fields [(0, 7, ovfPct s), (8, 7, spillPct s), (16, 7, heapPct s)]
  | 0x214 => ovfCells s
  | 0x218 => spillCells s
  | 0x300 => fields [(0, 1, b2n s.lonus.lineUp), (1, 1, b2n s.lonus.opened), (2, 1, b2n s.lonus.orphan),
                     (8, 7, s.lonus.outstanding.length), (16, 16, if s.lonus.opened then s.lonus.session else 0)]
  | 0x304 => fields [(0, 12, min 0xFFF s.lonus.bad), (12, 12, min 0xFFF s.lonus.stream), (24, 8, min 0xFF s.lonus.i3cDrop)]
  | 0x308 => presenceWord s
  | 0x400 => fields [(0, 1, b2n s.ehrok.inB), (1, 2, s.ehrok.aState), (3, 2, s.ehrok.bState), (5, 1, b2n s.ehrok.single),
                     (8, 8, min 255 s.ehrok.sync)]
  | 0x404 => fields [(0, 16, min 0xFFFF s.ehrok.takeovers), (16, 16, min 0xFFFF s.ehrok.takebacks)]
  | 0x408 => fields [(0, 10, s.ehrok.gap)]
  | 0x410 => fields [(0, 16, ((activeSet s).map FwSet.set).getD 0), (16, 6, ((activeSet s).map FwSet.epoch).getD 0),
                     (22, 1, b2n s.mod.fellBack), (23, 1, b2n s.nv.curIsF1)]
  | 0x414 => slotWord (currentSlot s)
  | 0x418 => slotWord (nextSlot s)
  | 0x41C => fields [(0, 6, s.nv.floor), (8, 4, (s.fixed.revoked.map fun i => 2 ^ i).sum), (12, 1, b2n s.nv.owner.isSome)]
  | 0x420 => s.nv.cycles
  | 0x500 =>
    let c := capNow s
    fields [(0, 12, c.1), (12, 3, c.2), (15, 1, b2n (decide (c.1 < 900))), (16, 7, s.pwr.shedPct), (24, 7, s.pwr.orphanPct)]
  | 0x504 => fields [(0, 12, s.pwr.draw), (12, 1, b2n s.pwr.shed), (13, 6, (s.pwr.causes.map fun c => 2 ^ (c - 1)).sum),
                     (19, 4, s.pwr.effRatio - 1), (23, 1, b2n s.pwr.burn)]
  | 0x508 => fields [(0, 13, s.pwr.volts), (13, 10, s.pwr.amps)]
  | 0x50C => regAt s 0x4000050C 0x321414
  | _ => fields [(0, 10, s.cool.flow), (10, 1, b2n s.cool.flowFault), (11, 7, twos 7 (s.cool.inlet / 10)),
                 (18, 7, twos 7 (s.cool.outlet / 10)), (25, 2, s.cool.loop0), (27, 2, s.cool.loop1),
                 (29, 1, b2n (decide (s.cool.loop0 = 2 ∨ s.cool.loop1 = 2)))]

/-- The words of a job block (02 R51, 03 R74). -/
def jblkWord (s : State) (b i : Nat) : Nat :=
  let x := blockOf s b
  match i with
  | 0 => fields [(0, 3, x.x0), (3, 2, x.y0), (5, 2, x.z0), (8, 3, x.dx - 1), (11, 2, x.dy - 1), (13, 2, x.dz - 1)]
  | 1 => fields [(0, 3, blockCode x.st), (8, 8, members x)]
  | 2 => min x.refuse 0xFFFFFFFF
  | _ => fields [(0, 14, x.slotBase), (16, 15, x.slotCnt)]

def stepWord (s : State) (b i : Nat) : Nat :=
  let x := blockOf s b
  match i with
  | 0 => x.step % 2 ^ 32
  | 1 => fields [(0, 16, x.step / 2 ^ 32), (16, 1, b2n x.close.isSome)]
  | 2 => stepSrc s b
  | _ => min x.choice 0xFFFFFFFF

/-- The word of a window (02 R51). -/
def winWord (x : Window) (i : Nat) : Nat :=
  match i with | 0 => x.base.toNat | 1 => x.map.toNat | _ => x.ctl.toNat

/-- STG_EPOCH_STAT, INFLIGHT and STALE (05 R136). -/
def epochWord (s : State) (i : Nat) : Nat :=
  match i with
  | 0 => fields [(0, 1, b2n s.epoch.active), (1, 2, verCode s.epoch.verA), (3, 2, verCode s.epoch.verB), (5, 1, b2n s.epoch.loaded),
                 (6, 1, b2n s.epoch.sealed)]
  | 1 => s.epoch.sumA % 2 ^ 28
  | 2 => s.epoch.sumB % 2 ^ 28
  | _ => min s.epoch.stale 0xFFFFFFFF

def recWord (s : State) (r i : Nat) : Nat :=
  let x := ringOf s r
  match i with
  | 0 => fields [(0, 2, x.st), (2, 1, b2n x.egress), (3, 1, b2n x.wrap), (4, 1, b2n x.digest), (8, 7, x.block), (16, 16, x.mib)]
  | 1 => min x.records 0xFFFFFFFF
  | _ => min x.lost 0xFFFFFFFF

def replayWord (s : State) (i : Nat) : Nat :=
  match i with
  | 0 => fields [(0, 1, b2n s.replay.running), (1, 4, s.replay.inRing), (5, 4, s.replay.outRing)]
  | 1 => s.replay.nextSeq % 2 ^ 32
  | _ => min s.replay.live 0xFFFFFFFF

def axleCtl (s : State) : Nat := regAt s 0x50008000 0x80
def masterPlane (s : State) : Nat := bits (axleCtl s) 0 4
def syncUs (s : State) : Nat := bits (axleCtl s) 4 8
def certCtlWord (s : State) : Nat := regAt s 0x50008010 0xA00A8

def axleWord (s : State) (i : Nat) : Nat :=
  match i with
  | 0 => axleCtl s
  | 1 => fields [(0, 1, b2n s.axle.locked), (1, 1, b2n s.axle.holdover), (2, 1, b2n (decide (s.mod.plane = masterPlane s))),
                 (8, 9, s.axle.eligible)]
  | _ => twos 32 s.axle.median

/-- STG_CERT_RES (13 R346). -/
def certWord (s : State) (p : Nat) : Nat :=
  let x := Tab.get {} s.cert p
  if x.result = 0 then 0
  else fields [(0, 2, x.result), (2, 1, x.mode), (4, 3, x.lane), (8, 8, x.worst), (16, 16, min 0xFFFF ((s.now - x.at_) / 3600000000000))]

/-- Running or sleeping threads that satisfy `p` (08 R207). -/
def threadCount (s : State) (p : ThreadRef → Thread → Bool) : Nat :=
  (s.thr.filter fun e => e.2.live && p (thrRef e.1) e.2).length

def galImgWord (s : State) (i j : Nat) : Nat :=
  let x := imgOf s i
  match j with
  | 0 => fields [(0, 2, x.st), (8, 7, x.owner), (16, 9, x.clusters.length)]
  | 1 => threadCount s fun _ t => decide (t.image = i)
  | 2 => fields [(0, 13, x.queue.length), (16, 13, x.depth)]
  | _ => x.item % 65536

def harnStatWord (s : State) (h i : Nat) : Nat :=
  let x := harnOf s h
  match i with
  | 0 => fields [(0, 2, b2n x.loaded), (16, 13, (s.coll.slots.filter fun y => decide (y.key.h = h)).length)]
  | 1 => x.base % 2 ^ 32
  | 2 => x.base / 2 ^ 32 % 2 ^ 16
  | _ => min x.spill 0xFFFFFFFF

/-- HUB_LINK_CTL (12 R321). -/
def linkCtl (s : State) (d : Nat) : Nat := regAt s (hubReg d 0x7004) 0x20A8

/-- The words of the forwarding registers of a die (04 R115). -/
def hubCtlWord (s : State) (d i : Nat) : Nat :=
  match i with
  | 0 => regAt s (hubReg d 0x4000) 0x3015A
  | 1 => regAt s (hubReg d 0x4004) 256
  | 2 => egqThresh s d
  | 3 => regAt s (hubReg d 0x400C) 1536
  | 4 => brakeCtl s d
  | _ => fields [(0, 5, dieLimitOf s), (5, 1, b2n s.pwr.shed)]

/-- The word of a register in effect. -/
def regWord (s : State) (a : Nat) : Reg → Nat
  | .hubCtl d i => hubCtlWord s d i
  | .egqStat d k => onPort s d k (2 ^ 22) fun p _ => egqWord s p
  | .galStat d => fields [(0, 7, ((List.range 98).filter fun c => (Tab.get none s.clusters (98 * d + c)).isNone).length),
                          (16, 15, threadCount s fun t _ => decide (t.die = d))]
  | .engStat d e => let x := engOf s d e
                    fields [(0, 7, x.queue.length), (7, 1, b2n x.exec.isSome), (16, 16, min 0xFFFF x.faults)]
  | .engWait d => (hubOf s d).waitPool.length
  | .engCnt d e w => let x := engOf s d e
                     (([x.cycles % 2 ^ 32, x.cycles / 2 ^ 32, x.done, x.released])[w]?).getD 0 % 2 ^ 32
  | .portWidth d => regAt s (hubReg d 0x7000) 0x55
  | .linkCtl d => linkCtl s d
  | .hitchStat d k => onPort s d k (3 * 2 ^ 10) fun p _ => hitchWord s p
  | .laneStat d l => laneWord s (128 * d + l)
  | .laneCe d l => min (laneOf s (128 * d + l)).ce 0xFFFFFFFF
  | .laneUe d l => min (laneOf s (128 * d + l)).ue 0xFFFFFFFF
  | .laneMap d j => laneMapWord s (4 * d + j)
  | .planStat d k => onPort s d k 0 fun p _ => planWord s p
  | .axleDly d k => onPort s d k 0 fun _ q => q.delay % 2 ^ 16
  | .portCnt d k w => onPort s d k 0 fun _ q => cntWord q.cnt w
  | .qhist d k i => onPort s d k 0 fun _ q => Tab.get 0 q.hist i % 2 ^ 32
  | .telem d w => telemWord (hubOf s d) w
  | .lard n off => lardWord s n off
  | .mod off => modWord s off
  | .self => fields [(0, 16, ownEpa s), (16, 6, s.mod.rackPos)]
  | .e2eCtl => e2eCtl s
  | .jblk b i => jblkWord s b i
  | .win w i => winWord (winOf s w) i
  | .epoch i => epochWord s i
  | .seed b i => bits (blockOf s b).seed (32 * i) 32
  | .step b i => stepWord s b i
  | .record r i => recWord s r i
  | .replay i => replayWord s i
  | .axle i => axleWord s i
  | .certCtl => certCtlWord s
  | .skew b => min (blockOf s b).skew 0xFFFFFFFF
  | .certRes p => certWord s p
  | .harnStat h i => harnStatWord s h i
  | .galImg i j => galImgWord s i j
  | .coord _ _ | .harnCfg _ _ | .galBind _ | .mcast _ _ _ | .member _ _ => regAt s a 0

-- Writable and Static bits

/-- The writable bits of a register, rsvd aside (14 R362 item 5); 0 for a read-only register. -/
def regMask : Reg → Nat
  | .hubCtl _ 0 => 0x303FF
  | .hubCtl _ 1 => 0x3FF
  | .hubCtl _ 2 => 0x3F3F3F3F
  | .hubCtl _ 3 => 0x7FF
  | .hubCtl _ 4 => 0xFFF3F
  | .portWidth _ => 0xFF
  | .linkCtl _ => 0xFFFF
  | .mod 0x110 => 0xFFFF
  | .mod 0x200 => 0x3F3F01FF
  | .mod 0x204 => 0x3F
  | .mod 0x50C => 0x7FFFFF
  | .e2eCtl => 0xFF1F0FFF
  | .win _ 0 => 0x3FF03FF
  | .win _ 1 => 0x1FF
  | .win _ _ => 0x3FF
  | .coord _ _ => 0x1FF
  | .step _ 2 => 0x3FF0001
  | .axle 0 => 0xFFF
  | .certCtl => 0xFFF3FFF
  | .harnCfg _ 0 => 0x7FFFFF
  | .harnCfg _ 1 => 0x1FF07FF
  | .harnCfg _ 3 => 0xFFFF1FFF
  | .harnCfg _ 5 => 0x3FFFFFFF
  | .harnCfg _ 7 => 0xFFFF
  | .harnCfg _ 8 => 0xFF07FF
  | .harnCfg _ _ => 0xFFFFFFFF
  | .galBind _ => 0x3FF3F03
  | .mcast _ _ 4 => 0x7F01
  | .mcast _ _ _ => 0xFFFFFFFF
  | .member _ _ => 0xFFFFFFFF
  | _ => 0

/-- The bits of Static fields (14 R362 item 6). -/
def regStatic : Reg → Nat
  | .hubCtl _ 0 => 0x303FF
  | .portWidth _ => 0xFF
  | .mod 0x200 => 0x3F3F01FF
  | .mod 0x204 => 0x3F
  | .axle 0 => 0xF
  | _ => 0

/-- Whether a register is at die level (14 R362 item 4). -/
def dieLevel (a : Nat) : Bool := decide (bits a 28 4 = 3)

-- The checks of a write

/-- The harness that a register belongs to, whose registers are written only while it is Free (06 R141, 08 R207). -/
def regHarness : Reg → Option Nat
  | .harnCfg h _ | .galBind h | .member h _ => some h
  | _ => none

/-- The sizes of heap and rings that a layout pair gives, and of the four regions together, which fix the bases. -/
def layoutOf (l1 l2 : Nat) : Nat × Nat × Nat :=
  (bits l1 0 9, bits l1 16 6, bits l1 0 9 + bits l1 16 6 + bits l1 24 6 + bits l2 0 6)

/-- Whether a layout write moves or resizes the heap or rings region. -/
def layoutMoves (s : State) (l1 l2 : Nat) : Bool := decide (layoutOf l1 l2 ≠ layoutOf (layout1 s) (layout2 s))

/-- Item 7 of 14 R362: the register's own state rule. -/
def regStateOk (s : State) (r : Reg) (w : Nat) : Bool :=
  match r with
  | .coord v _ => decide (verOf s v = .writable)
  | .mcast v _ _ => decide (verOf s v = .writable)
  | .step b 2 => decide ((blockOf s b).st = .loaded ∨ (blockOf s b).st = .paused)
  | .mod 0x200 => !(layoutMoves s w (layout2 s) && (!s.lard.grants.isEmpty || !s.lard.rings.isEmpty))
  | .mod 0x204 => !(layoutMoves s (layout1 s) w && (!s.lard.grants.isEmpty || !s.lard.rings.isEmpty))
  | r => match regHarness r with | some h => !(harnOf s h).loaded | none => true

/-- Whether a layout is in range (10 R244, R269). -/
def layoutOk (s : State) (l1 l2 : Nat) : Bool :=
  let heap := bits l1 0 9
  let rings := bits l1 16 6
  let spill := bits l1 24 6
  let ovf := bits l2 0 6
  decide (heap + 10 ≤ capGib s ∧ 1 ≤ rings ∧ 4 ≤ spill ∧ 4 ≤ ovf ∧ heap + rings + spill + ovf + 1 ≤ capGib s) &&
  (List.range 64).all fun k =>
    let w := winOf s k
    !winEnable w || decide (winLarder w + winSize w + heap + rings + spill + ovf ≤ capGib s)

/-- Whether a value lies in a range. -/
def within (lo v hi : Nat) : Bool := decide (lo ≤ v ∧ v ≤ hi)

/-- Item 8 of 14 R362: the ranges that each register's map states. -/
def regRangeOk (s : State) (r : Reg) (w : Nat) : Bool :=
  let f := bits w
  match r with
  | .hubCtl _ 1 => within 32 (f 0 10) 480
  | .hubCtl _ 2 => decide (1 ≤ f 0 6 ∧ f 0 6 ≤ f 8 6 ∧ f 8 6 < f 16 6 ∧ f 16 6 < f 24 6 ∧ f 24 6 ≤ 62)
  | .hubCtl _ 3 => within 256 (f 0 11) 2000
  | .hubCtl _ 4 => within 1 (f 0 6) 63 && within 1 (f 8 4) 15 && within 1 (f 12 8) 255
  | .portWidth _ => (List.range 4).all fun j => decide (f (2 * j) 2 ≠ 3)
  | .linkCtl _ => within 1 (f 0 4) 15 && within 0 (f 4 4) 10 && within 1 (f 8 8) 255
  | .mod 0x110 => within 1 (f 0 16) 60000
  | .mod 0x200 => layoutOk s w (layout2 s)
  | .mod 0x204 => layoutOk s (layout1 s) w
  | .mod 0x50C => within 5 (f 0 8) 255 && within 5 (f 8 8) 255 && within 0 (f 16 7) 75
  | .e2eCtl => within 4 (f 0 8) 64 && within 1 (f 8 4) 15 && within 1 (f 16 5) 31 && within 1 (f 24 8) 40
  | .step b 2 => !bit w 0 || harnLoadedBy s (f 16 10) b
  | .axle 0 => within 1 (f 4 8) 64
  | .certCtl => within 0 (f 0 14) 8760 && within 1 (f 16 12) 3600
  | .galBind h =>
    let i := imgOf s (f 16 10)
    !bit w 0 || decide (i.st ≠ 0 ∧ f 8 6 < i.entries.length ∧ i.owner = harnOwner s h)
  | _ => true

/-- The status of a read of one register (14 R362 items 1 to 4). -/
def regFind (s : State) (a : Nat) : Except Status Reg :=
  match regOf a with
  | .error e => .error e
  | .ok r => if dieLevel a ∧ ¬ dpPowered s then .error .badState else .ok r

/-- The word that REG_READ returns: view 0 the held value of a Shadow field, view 1 the value in effect (14 R362). -/
def regRead (s : State) (a view : Nat) : Except Status Nat :=
  match regFind s a with
  | .error e => .error e
  | .ok r =>
    match Tab.get none s.held a, view with
    | some w, 0 => .ok w.toNat
    | _, _ => .ok (regWord s a r)

-- What a write does

/-- HUB_PORT_WIDTH (12 R321): the ports of a chiplet whose width or whose port numbers change go down (04 R106) and restart their hitch as fresh ports of
the new numbering (log 20); one whose number went down restarts when that flush is complete (12 R312). -/
def writeWidth (s : State) (a w : Nat) : State :=
  let s' := setReg s a w
  let moved := fun k => decide (widthOf s k ≠ widthOf s' k ∨ firstPort s k ≠ firstPort s' k)
  let old := (allPorts s).filter fun p => moved (chipletOf s p)
  let keep := fun (q : Port) => ({ flushing := q.flushing, flushIn := q.flushIn, flushOut := q.flushOut, flushOvf := q.flushOvf,
                                   failCause := q.failCause, since := q.since } : Port)
  let stop := fun (s : State) (p : Nat) => updPort ((lanesOf s p).foldl prbsOff (portDown s p 7)) p keep
  let s2 := setReg (old.foldl stop s) a w
  ((allPorts s2).filter fun p => moved (chipletOf s2 p)).foldl (fun s p => if (portOf s p).flushing then s else startHitch s p) s2

/-- Apply a checked word. -/
def regApply (s : State) (a : Nat) (r : Reg) (w : Nat) : State :=
  match r with
  | .win _ _ => { s with held := Tab.set none s.held a (some (BitVec.ofNat 32 w)) }
  | .portWidth _ => writeWidth s a w
  | .coord v _ | .mcast v _ _ =>
    let s := setReg s a w
    if s.mod.st = .setup ∧ b2n s.epoch.active = v then { s with epoch := { s.epoch with loaded := false } } else s
  | _ => setReg s a w

/-- The status of a write of one register (14 R362), and its effect. -/
def regWrite (s : State) (a : Nat) (word : Nat) : Except Status State :=
  match regFind s a with
  | .error e => .error e
  | .ok r =>
    let w := word &&& regMask r
    if regMask r = 0 then .error .denied
    else if s.mod.st ≠ .setup ∧ w &&& regStatic r ≠ regWord s a r &&& regStatic r then .error .busyState
    else if ¬ regStateOk s r w then .error .badState
    else if ¬ regRangeOk s r w then .error .badParam
    else .ok (regApply s a r w)

/-- Write words in address order, stopping at the first failure: the status, how many were applied, and the state. -/
def regWrites (s : State) (a : Nat) : List Word → Nat → Status × Nat × State
  | [], n => (.ok, n, s)
  | w :: ws, n =>
    match regWrite s (a + 4 * n) w.toNat with
    | .error e => (e, n, s)
    | .ok s => regWrites s a ws (n + 1)

/-- REG_READ of 14 R362 as words: the first failing word decides the status. -/
def regReads (s : State) (a view : Nat) : List Nat → Except Status (List Nat)
  | [] => .ok []
  | i :: is =>
    match regRead s (a + 4 * i) view with
    | .error e => .error e
    | .ok w => match regReads s a view is with | .error e => .error e | .ok ws => .ok (w :: ws)

-- COMMIT (14 R362, 18 R448, 02 R33 to R36)

/-- The windows that would be in effect after a COMMIT: in effect, pending changes, held words. -/
def winProposed (s : State) (k : Nat) : Window :=
  let base := match s.winPend.find? fun w => w.w = k with | some p => p.win | none => winOf s k
  let h := fun (i : Nat) (d : Word) => (Tab.get none s.held (0x50002000 + 0x10 * k + 4 * i)).getD d
  { base := h 0 base.base, map := h 1 base.map, ctl := h 2 base.ctl }

/-- Whether a held word belongs to window `k`. -/
def winHeld (s : State) (k : Nat) : Bool := (List.range 3).any fun i => (Tab.get none s.held (0x50002000 + 0x10 * k + 4 * i)).isSome

/-- Whether two spans of GiB overlap. -/
def spansMeet (a n b m : Nat) : Bool := decide (a < b + m ∧ b < a + n)

/-- The conditions of 02 R33 on an enabled window alone: its size, the 1 TiB range, the pool region. -/
def winOk (s : State) (w : Window) : Bool :=
  !winEnable w || (decide (winBase w + winSize w ≤ 1024 ∧ winSize w ≤ capGib s) && decide (winLarder w + winSize w ≤ poolGib s))

/-- The conditions of 02 R33 between two enabled windows: no overlap in fabric offset, none in larder range of another owner's. -/
def winPairOk (x y : Window) : Bool :=
  !(winEnable x && winEnable y) ||
    (!spansMeet (winBase x) (winSize x) (winBase y) (winSize y) &&
     (decide (winOwner x = winOwner y) || !spansMeet (winLarder x) (winSize x) (winLarder y) (winSize y)))

/-- Whether the proposed windows satisfy 02 R33 together. DESIGN CHOICE: a window that takes effect at once is not held against one that is still in
effect while its own change waits; the lowest number decodes where two in effect overlap for that time (log 17). -/
def winAllOk (s : State) : Bool :=
  (List.range 64).all fun k => winOk s (winProposed s k) && (List.range k).all fun j => winPairOk (winProposed s k) (winProposed s j)

/-- The blocks that a changed window waits for (02 R36). -/
def winWaits (s : State) (k : Nat) : List Nat :=
  ([winOwner (winOf s k), winOwner (winProposed s k)].eraseDups).filter fun b => decide ((blockOf s b).st = .active)

/-- COMMIT: all held words, or none. -/
def commitHeld (s : State) : Status × State :=
  if !winAllOk s then (.badParam, s)
  else
    let ch := (List.range 64).filter (winHeld s)
    let new := ch.map fun k => ({ w := k, win := winProposed s k, waitFor := winWaits s k } : WinPend)
    (.ok, winSettle { s with held := [], winPend := (s.winPend.filter fun p => !ch.contains p.w) ++ new })

-- Commands

/-- The parameter checks of REG_READ and REG_WRITE (14 R362). -/
def regSpanOk (addr count : Nat) : Bool := decide (addr < 2 ^ 32 ∧ addr % 4 = 0 ∧ 1 ≤ count ∧ count ≤ 256)

/-- REG_READ (14 R362). -/
def execRegRead (tag addr count view : Nat) (s : State) : Host.Outcome State Fault Refusal :=
  lonusCmd tag 0x0220 [(4, addr), (2, count), (2, view)] s fun s =>
    if !regSpanOk addr count || decide (1 < view) then fail s .badParam
    else match regReads s addr view (List.range count) with
      | .error e => fail s e
      | .ok ws => answer s (okItems (words ws))

/-- REG_WRITE's body: the words applied in order, and the count written (14 R362). -/
def regWriteBody (addr count : Nat) (ws : List Word) (s : State) : State × Option Reply :=
  if !regSpanOk addr count || decide (ws.length ≠ count) then fail s .badParam
  else
    let r := regWrites s addr ws 0
    answer r.2.2 (r.1, layout [(2, r.2.1)], [])

def execRegWrite (tag addr count : Nat) (ws : List Word) (s : State) : Host.Outcome State Fault Refusal :=
  lonusCmd tag 0x0221 ([(4, addr), (2, count)] ++ ws.map fun w => (4, w.toNat)) s (regWriteBody addr count ws)

/-- COMMIT (14 R362, 18 R448). -/
def execCommit (tag : Nat) (s : State) : Host.Outcome State Fault Refusal :=
  lonusCmd tag 0x0222 [] s fun s => let r := commitHeld s; answer r.2 (rep r.1)

/-- A REG_WRITE of one word of the registers that a row of the table names. -/
def regRow (tag addr : Nat) (word : Word) (s : State) : Host.Outcome State Fault Refusal :=
  lonusCmd tag 0x0221 [(4, addr), (2, 1), (4, word.toNat)] s (regWriteBody addr 1 [word])

/-- TABLE_ENTRY_WRITE (05 R123, R126); an address outside the tables is the write of 14 R362 there. -/
def execTableEntryWrite (tag addr : Nat) (word : Word) (s : State) : Host.Outcome State Fault Refusal := regRow tag addr word s

/-- STG_E2E_CTL_WRITE (03 R74). -/
def execStgE2eCtlWrite (tag : Nat) (word : Word) (s : State) : Host.Outcome State Fault Refusal := regRow tag 0x50000010 word s

/-- STG_GAL_BIND_WRITE (08 R207). -/
def execStgGalBindWrite (tag harness : Nat) (word : Word) (s : State) : Host.Outcome State Fault Refusal :=
  regRow tag (0x50034000 + 4 * harness) word s

/-- STG_JBLK_STEPSRC_WRITE (11 R294). -/
def execStgJblkStepsrcWrite (tag block : Nat) (word : Word) (s : State) : Host.Outcome State Fault Refusal :=
  regRow tag (0x50006008 + 0x10 * block) word s

/-- HUB_PORT_WIDTH_WRITE (12 R321). -/
def execHubPortWidthWrite (tag die : Nat) (word : Word) (s : State) : Host.Outcome State Fault Refusal :=
  regRow tag (hubReg die 0x7000) word s

/-- MOD_DRAIN_CTL_WRITE (18 R448): the limit applies to a drain in progress. -/
def execModDrainCtlWrite (tag : Nat) (word : Word) (s : State) : Host.Outcome State Fault Refusal := regRow tag 0x40000110 word s

/-- MOD_LARD_LAYOUT_WRITE (10 R244). -/
def execModLardLayoutWrite (tag : Nat) (second : Bool) (word : Word) (s : State) : Host.Outcome State Fault Refusal :=
  regRow tag (if second then 0x40000204 else 0x40000200) word s

end Sys2Proof.Machine
end

