-- ==== Sys2Proof/Machine/Startup.lean ====
section
/-! DEFINITION. The life of the module: boot, Off and its resets, Setup, self-test and repair, Rest, Standby, Hold, Drain (01 R17 to R26,
15 R386 to R389, 18). -/

namespace Sys2Proof.Machine

/-- Events of 15 that have no name elsewhere. -/
def evTakeover : Nat := 0x0A40
def evTakeback : Nat := 0x0A41
def evSingle : Nat := 0x0A42
def evFwStaged : Nat := 0x0A43
def evFwFallback : Nat := 0x0A44
def evEpochRaised : Nat := 0x0A45
def evProtective : Nat := 0x094D

-- Firmware sets (15 R383)

/-- Conditions 1 to 6 of 15 R383 in order: the first that fails, 0 for none. `ownerKey` is the digest under which an owner signature is required. -/
def fwHead (s : State) (x : FwSet) (ownerKey : Option (List Byte)) : Nat :=
  if ¬ (x.version = 1 ∧ x.nImages = 5 ∧ x.layoutOk ∧ x.size ≤ 251658240 ∧ 1 ≤ x.set) then 1
  else if ¬ (s.fixed.keyDigests[x.signer]? = some x.keyDigest ∧ x.signer ∉ s.fixed.revoked) then 2
  else if ¬ x.signatureOk then 3
  else if ownerKey.isSome ∧ ¬ (x.ownerKeyDigest = ownerKey ∧ x.ownerSigOk) then 4
  else if ¬ (0xB1 ∈ x.steppings ∧ x.arithRev = 3) then 5
  else if x.epoch < s.nv.floor then 6
  else 0

/-- Condition 7 of 15 R383 for image `i`: its digest, type and set number. -/
def fwImage (x : FwSet) (i : Nat) : Bool :=
  match x.entries[i]?, x.images[i]? with
  | some e, some m => m.headerOk && decide (m.digest = e.2 ∧ m.typ = e.1 ∧ m.set = x.set)
  | _, _ => false

/-- Condition 7 of 15 R383. -/
def fwImages (x : FwSet) : Bool := (List.range 5).all (fwImage x)

/-- The first condition of 15 R383 that fails, 0 for none. -/
def fwFails (s : State) (x : FwSet) (ownerKey : Option (List Byte)) : Nat :=
  let h := fwHead s x ownerKey
  if h ≠ 0 then h else if fwImages x then 0 else 7

-- Flash devices (15 R384, R386)

def slotAtDev (nv : NonVolatile) (f1 : Bool) : Slot := if f1 then nv.f1 else nv.f0
def setDev (nv : NonVolatile) (f1 : Bool) (x : Slot) : NonVolatile := if f1 then { nv with f1 := x } else { nv with f0 := x }

/-- Change slot next. -/
def updNext (s : State) (f : Slot → Slot) : State :=
  updNv s fun nv => setDev nv (!nv.curIsF1) (f (slotAtDev nv (!nv.curIsF1)))

/-- Disarm slot next: an armed slot is staged again (15 R386). -/
def disarmNext (s : State) : State := updNext s fun x => if x.state = .armed then { x with state := .staged } else x

/-- What keeps a device from booting: 0 nothing, else the failed condition of 15 R383; a slot without a complete set gives 8, which no event reports. -/
def bootFails (s : State) (dev : Bool) : Nat :=
  let x := slotAtDev s.nv dev
  match x.state, x.set with
  | .staged, some f | .armed, some f | .active, some f => fwFails s f x.ownerDigest
  | _, _ => 8

/-- Mark a device bad where it is not empty (15, "Boot and activation"). -/
def markBad (nv : NonVolatile) (dev : Bool) : NonVolatile :=
  let x := slotAtDev nv dev
  if x.state = .empty then nv else setDev nv dev { x with state := .bad }

/-- Boot device `dev`: a boot of slot next swaps the roles, and the old current becomes staged, or stays bad (15 R386; log 8). -/
def bootDev (nv : NonVolatile) (dev : Bool) : NonVolatile :=
  let x := slotAtDev nv dev
  if dev = nv.curIsF1 then setDev nv dev { x with state := .active }
  else
    let old := slotAtDev nv nv.curIsF1
    let old := if old.state = .bad ∨ old.state = .empty then old else { old with state := .staged }
    { setDev (setDev nv nv.curIsF1 old) dev { x with state := .active, generation := old.generation + 1 } with curIsF1 := dev }

/-- The fused floor rises to the epoch of an active set that has reached Ready before (15 R389). -/
def raiseFloor (s : State) : State :=
  match (currentSlot s).set with
  | some f =>
    if (currentSlot s).reachedReady ∧ s.nv.floor < f.epoch then
      emit (updNv s fun nv => { nv with floor := f.epoch }) evEpochRaised []
    else s
  | none => s

/-- The boot ROM's choice (15, "Boot and activation"; R387, R389). -/
def chooseSlot (s : State) : State :=
  let nxt := !s.nv.curIsF1
  let first := if (slotAtDev s.nv nxt).state = .armed then nxt else s.nv.curIsF1
  if bootFails s first = 0 then raiseFloor { s with nv := bootDev s.nv first }
  else
    let x := slotAtDev s.nv first
    let c := bootFails s first
    let nv := markBad s.nv first
    let s := updMod { s with nv := nv } fun m => { m with fellBack := true }
    if bootFails s (!first) = 0 then
      emit (raiseFloor { s with nv := bootDev s.nv (!first) }) evFwFallback
        [b2n first, (x.set.map FwSet.set).getD 0, if c = 8 then 0 else c]
    else updMod { s with nv := markBad s.nv (!first) } fun m => { m with bootRom := true }

-- The seal log (14 R369)

/-- Append a seal-log entry; a full log counts it (14 R369, R373). -/
def sealLogAdd (s : State) (loop kind : Nat) : State :=
  updNv s fun nv =>
    if nv.sealLog.length < 256 then
      { nv with sealLog := nv.sealLog ++ [{ axle := s.axle.value, cycle := nv.cycles, loop := loop, kind := kind }] }
    else { nv with sealOverflow := min 63 (nv.sealOverflow + 1) }

-- Boot (18 R435)

/-- The event of a stored stop cause, formed as the first session opens; until then a further loss of power keeps it (16 R398, 18 R445). -/
def stopEvent (s : State) : State :=
  match s.nv.stop with
  | some r =>
    let s := updNv s fun nv => { nv with stop := none }
    if r.cause = 3 then emit s evPinReset [r.state, r.axle] else emit s evProtective [r.cause, r.axle]
  | none => s

/-- The straps' first sample and the seal loops at power-up; a strap that changed is reported (18, table "Power-up to Standby"). -/
def bootSample (s : State) (i : PowerUpInput) : State :=
  let st := i.straps.headD (0, 0)
  let bad := i.straps.any fun x => decide (x ≠ st)
  { s with nv := { s.nv with cycles := (s.nv.cycles + 1) % 2 ^ 32 },
           mod := { s.mod with plane := st.1 % 16, rackPos := st.2 % 64, strapBad := bad, bootWait := none },
           mgmt := { s.mgmt with sealA := i.sealA, sealB := i.sealB },
           certAt := s.now }

/-- What power-up records: seal-log entries for loops found open, and the event of an unstable strap (14 R369, 18). -/
def bootRecord (s : State) (i : PowerUpInput) : State :=
  let s := if i.sealA then sealLogAdd s 0 2 else s
  let s := if i.sealB then sealLogAdd s 1 2 else s
  if s.mod.strapBad then emit s evStrapUnstable [] else s

/-- From management rails good to Standby: straps, seal loops, slot choice, cores (18, table "Power-up to Standby"). -/
def boot (s : State) (i : PowerUpInput) : State :=
  let s := chooseSlot (bootRecord (bootSample s i) i)
  { s with cool := { s.cool with flowAt := s.now },
           ehrok := { s.ehrok with lastCycle := s.now, lastCopy := s.now },
           pwr := { s.pwr with thermCap := sustained s, lastCap := sustained s },
           mod := { s.mod with st := .standby },
           lonus := { s.lonus with beatAt := s.now },
           axle := { s.axle with lastElig := s.now } }

/-- POWER_UP (18 R435): with REFCLK absent the boot waits (19 R469). -/
def powerUp (s : State) (i : PowerUpInput) : State :=
  if s.mod.st ≠ .off ∨ s.mod.resetLow ∨ s.mod.bootWait.isSome then s
  else
    let s := updMod s fun m => { m with refBad := !i.refclk }
    if i.refclk then boot s i else updMod s fun m => { m with bootWait := some i }

def execPowerUp (i : PowerUpInput) (s : State) : Host.Outcome State Fault Refusal := done s (powerUp s i)

-- Off (18 R444)

/-- A state-change command that the way to Off overtakes completes with FAULTED (01 R19). DESIGN CHOICE: its RESPONSE leaves before the rails fall, where
the line is up (log 20). -/
def lastResponse (s : State) : State :=
  match s.mod.trans with
  | some t =>
    let s := abortTransition s .faulted
    match s.lonus.respQ.find? fun r => decide (r.tag = t.tag) with
    | some r => if s.lonus.lineUp then sendFrame s (respFrame s r) else s
    | none => s
  | none => s

/-- The module loses its power: what 18 R444 keeps over a power cycle stays, with the model's own records; everything else is as at reset. -/
def goOff (s0 : State) (stop : Option StopRecord) : State :=
  let s := lastResponse s0
  { State.reset with
    now := s.now, freeCtr := s.freeCtr, flightId := s.flightId, fixed := s.fixed, wire := s.wire,
    nv := { s.nv with stop := match stop with | some r => some r | none => s.nv.stop },
    lonus := { sent := s.lonus.sent, tx := s.lonus.tx }, i3c := { out := s.i3c.out }, mod := { resetLow := s.mod.resetLow, refBad := s.mod.refBad } }

/-- LOSS_OF_INPUT (01 R17). -/
def execLossOfInput (s : State) : Host.Outcome State Fault Refusal := done s (goOff s none)

/-- The input falls below 44 V before Standby: the module is Off again and the qualification starts again (18 R435). -/
def unqualify (s : State) : State := if s.mod.bootWait.isSome then goOff s none else s

/-- PROTECTIVE_STOP (16 R397, R398): cause 1 undervoltage, 2 overvoltage, and the axle value, stored before the rails fall. -/
def protectiveStop (s : State) (ovp : Bool) : State :=
  if !railsGood s then s
  else goOff s (some { cause := if ovp then 2 else 1, axle := s.axle.value, state := stateCode s.mod.st })

def execProtectiveStop (overvoltage : Bool) (s : State) : Host.Outcome State Fault Refusal := done s (protectiveStop s overvoltage)

/-- PIN_RESET (18 R445): steps 1 and 2 of 16 R398 with the cause pin reset (3). -/
def pinReset (s : State) : State :=
  let s' := if !railsGood s then goOff s none
            else goOff s (some { cause := 3, axle := s.axle.value, state := stateCode s.mod.st })
  updMod s' fun m => { m with resetLow := true }

def execPinReset (s : State) : Host.Outcome State Fault Refusal := done s (pinReset s)

/-- RESET_N_RELEASE (18 R445): with the input in range the boot follows without a new qualification. -/
def resetNRelease (s : State) (inRange : Bool) (i : PowerUpInput) : State :=
  if s.mod.resetLow then
    let s := updMod s fun m => { m with resetLow := false }
    if inRange then powerUp s i else s
  else s

def execResetNRelease (inputInRange : Bool) (i : PowerUpInput) (s : State) : Host.Outcome State Fault Refusal :=
  done s (resetNRelease s inputInRange i)

/-- The Lonus line goes down until REFCLK returns (19 R469). -/
def cutLine (s : State) : State := updLonus (lonusFill s) fun l => { l with refCut := l.refCut || l.lineUp, lineUp := false }

/-- REFCLK_ABSENT (19 R469). -/
def refclkAbsent (s : State) : State :=
  let s := updMod s fun m => { m with refBad := true }
  match s.mod.st with
  | .standby | .rest => cutLine s
  | .setup | .ready | .run | .drain => enterHold s 5 none
  | .off | .hold => s

def execRefclkAbsent (s : State) : Host.Outcome State Fault Refusal := done s (refclkAbsent s)

/-- REFCLK_RESTORED (19 R469): the line that the loss of REFCLK took down is up again. -/
def refclkRestored (s : State) : State :=
  let s := updMod s fun m => { m with refBad := false }
  match s.mod.st, s.mod.bootWait with
  | .off, some i => boot s i
  | .off, none => s
  | _, _ => updLonus (lonusFill s) fun l => { l with lineUp := l.lineUp || l.refCut, refCut := false }

def execRefclkRestored (s : State) : Host.Outcome State Fault Refusal := done s (refclkRestored s)

-- Entry to Setup (18 R444, R447, 05 R126, 17 R419)

/-- Fresh hub dies, engines and ports, their counters cleared (17 R419; log 20). -/
def freshPlane (s : State) : State :=
  { s with hub := [], ports := [], lanes := [], localQ := [], coll := {},
           eng := Tab.mapV {} s.eng fun _ => {}, e2e := { s.e2e with out := [] } }

/-- The counters of the larder dies (10 R269). -/
def freshLarder (s : State) : State :=
  { s with lard := { s.lard with
      state := 1, reqs := [], cells := [], recHeld := [], lastOvfFault := none, ceHour := [],
      dies := Tab.mapV {} s.lard.dies fun d => { spares := d.spares } } }

/-- Table versions at entry to Setup (05 R126). -/
def epochSetup (s : State) (cold : Bool) : State :=
  if cold then { wipeTable (wipeTable s 0) 1 with epoch := {} }
  else
    let e := s.epoch
    { s with epoch := { e with verA := .writable, verB := .writable, sealed := false, slow := false, stale := 0 } }

/-- The cause of PLAN_NOT_IN_FORCE: 0 absent, 1 strap, 2 width (13 R327; log 20). -/
def planCause (s : State) : Nat :=
  match s.nv.plan with
  | none => 0
  | some p => if p.plane = s.mod.plane ∧ p.rackPos = s.mod.rackPos then 2 else 1

/-- Enter Setup: ports leave Up, the tables and counters are set, the command completes; a module without REFCLK, with a leak
or with both leak loops faulted goes to Hold (16 R411, 19 R469). -/
def enterSetup (s : State) (t : Transition) (imagesOk : Bool) : State :=
  let s := updMod s fun m => { m with start := {}, marked := [], late := [], warm := t.warm, frozen := false, dpOff := false }
  if ¬ imagesOk then enterHold (updMod s fun m => { m with st := .setup }) 12 none
  else
    let up := (allPorts s).filter fun p => decide ((portOf s p).stage = .up)
    let s := up.foldl (fun s p => emit s evLinkDown [p, 7]) s
    let s := { epochSetup (freshLarder (freshPlane s)) (!t.warm) with telem := { s.telem with smpOn := false } }
    let s := if t.warm then { s with axle := { s.axle with warmWait := true, inBand := 0, firstUp := none } } else s
    let s := updMod s fun m => { m with st := .setup, trans := none }
    let s := finishCmd s t.tag 0x0201 (rep .ok)
    let s := if planInForce s then s else emit s evPlanNotInForce [planCause s]
    if s.mod.refBad then enterHold s 5 none
    else if s.cool.loop0 = 1 ∨ s.cool.loop1 = 1 then enterHold s 10 none
    else if s.cool.loop0 = 2 ∧ s.cool.loop1 = 2 then enterHold s 6 none
    else s

/-- SETUP_ENTRY (18 R447, R455): the transition to Setup that a STATE_SET began completes. -/
def setupEntry (s : State) (imagesOk : Bool) : State :=
  match s.mod.trans with
  | some t => if t.target = .setup then enterSetup s t imagesOk else s
  | none => s

def execSetupEntry (imagesOk : Bool) (s : State) : Host.Outcome State Fault Refusal := done s (setupEntry s imagesOk)

-- Self-test, repair (18 R438 to R443)

/-- Whether a unit exists in the grade, with no rsvd bit set (18 R442). -/
def unitOk (s : State) (u : RepairUnit) : Bool :=
  match u.kind with
  | 0 => decide (u.unit < 544)
  | 1 => decide (u.unit < 65536 ∧ bits u.unit 2 7 < 98 ∧ bits u.unit 9 7 < 66)
  | 2 => decide (u.unit < 1024 ∧ bits u.unit 0 4 < stackCount s ∧ bits u.unit 4 6 < 34)
  | _ => false

/-- Every marked unit: factory map, field map but for the marks issued in this Setup, this Setup's own failures (18 R438, R442). -/
def marks (s : State) : List RepairUnit :=
  (s.fixed.factoryMap ++ ((s.nv.fieldMap.map FieldMark.unit).filter fun u => !s.mod.late.contains u) ++ s.mod.marked).eraseDups

/-- The spare group of a unit: a chiplet, a cluster of a die, a stack (18, table "Spare groups"). -/
def groupOf (u : RepairUnit) : Nat × Nat :=
  match u.kind with | 0 => (0, u.unit / 34) | 1 => (1, u.unit % 512) | k => (k, u.unit % 16)

/-- The marked slices of chiplet `k`, ascending, within the chiplet (12 R295). -/
def sliceMarks (s : State) (k : Nat) : List Nat :=
  (List.range 34).filter fun i => (marks s).any fun u => decide (u.kind = 0 ∧ u.unit = 34 * k + i)

/-- Marked cores of a cluster of a die, by cluster key, and marked datapaths of a stack. -/
def coreMarks (s : State) (c : Nat) : List Nat :=
  (List.range 66).filter fun i => (marks s).any fun u => decide (u.kind = 1 ∧ u.unit = c / 98 + 4 * (c % 98) + 512 * i)
def pathMarks (s : State) (n : Nat) : List Nat :=
  (List.range 34).filter fun i => (marks s).any fun u => decide (u.kind = 2 ∧ u.unit = n + 16 * i)

/-- The physical unit of a group of `n` that serves logical unit `j`: the j-th unmarked one, ascending (18, table "Spare groups"). -/
def served (n : Nat) (marked : List Nat) (j : Nat) : Nat := (((List.range n).filter fun i => !marked.contains i)[j]?).getD 0

/-- The physical lane that serves a logical lane (12 R295), the physical core of a cluster that serves a logical core, and the datapath of a stack
that serves a pseudo-channel (10 R242). -/
def laneSlice (s : State) (lane : Nat) : Nat := 34 * (lane / 32) + served 34 (Tab.get [] s.lmap (lane / 32)) (lane % 32)
def coreServes (s : State) (cluster core : Nat) : Nat := served 66 (Tab.get [] s.cmap cluster) core
def pathServes (s : State) (stack pc : Nat) : Nat := served 34 (Tab.get [] s.lard.dmap stack) pc

/-- Spare datapaths switched in on a stack (10 R269): those above the first 32 that serve a pseudo-channel. -/
def sparesIn (s : State) (stack : Nat) : Nat := ((List.range 32).filter fun p => decide (32 ≤ pathServes s stack p)).length

/-- A unit whose group has more marks than spares (18 R438). -/
def shortUnit (s : State) : Option RepairUnit :=
  (marks s).find? fun u => decide (2 < ((marks s).filter fun v => decide (groupOf v = groupOf u)).length)

/-- The unit that MOD_HOLD_CAUSE names: a chiplet as a die of kind 3, other units as marked (01 R25, 18 R457; log 20). -/
def holdUnit (u : RepairUnit) : RepairUnit := if u.kind = 0 then ⟨3, 0x30 + u.unit / 34⟩ else u

/-- Append a unit that newly fails (18 R440). One that REPAIR_MARK named earlier in this Setup is in the map already and counts as marked from here on
(DEDUCED, log 20). -/
def repairFound (s : State) (u : RepairUnit) : State :=
  if !unitOk s u || (marks s).contains u then s
  else if s.mod.late.contains u then updMod s fun m => { m with late := m.late.erase u }
  else if s.nv.fieldMap.length < 256 then
    emit (updNv s fun nv => { nv with fieldMap := nv.fieldMap ++ [{ unit := u, source := 2 }] }) evRepairFound [u.kind, u.unit]
  else emit (updMod s fun m => { m with marked := m.marked ++ [u] }) evRepairFull [u.kind, u.unit]

/-- An image whose replaced core's scratch was lost: its owner goes to Faulted with cause 29 (18 R441; the other items are not given, log 18). -/
def scratchLost (s : State) (img : Nat) : State :=
  if (imgOf s img).st = 0 then s
  else
    let (k, s) := draw s
    let f := fun i => (Config.freeByte k i).toNat
    faultBlock s (imgOf s img).owner evGalleyFault [img, f 0, f 1, f 2, f 3, f 4, 29, f 5, f 6, f 7]

/-- The marked units of each of `n` groups. -/
def markTable (n : Nat) (f : Nat → List Nat) : Tab (List Nat) := (List.range n).foldl (fun t k => Tab.set [] t k (f k)) []

/-- The maps that switch spares in: logical units go onto unmarked physical units, by the marks of each group (18 R438, 12 R295, 10 R242). -/
def setMaps (s : State) : State :=
  { s with lmap := markTable 16 (sliceMarks s), cmap := markTable 392 (coreMarks s),
           lard := { s.lard with dmap := markTable 12 (pathMarks s) } }

/-- Map the spares and count those of each larder die (10 R269). -/
def mapSpares (s : State) : State :=
  (List.range 6).foldl (fun s n => updLd s n fun d => { d with spares := sparesIn s (2 * n) + sparesIn s (2 * n + 1) }) (setMaps s)

/-- The unit at which a self-test fails, as MOD_HOLD_CAUSE names it (01 R25, 18 R457): a group short of units, the die of a part that fails, the
management die of an Ehrok core. DESIGN CHOICE: a bridge or a larder link is reported as the die that the row names, the map has no code for it
(log 20). -/
def testFails (s : State) (r : SelfTest) : Option RepairUnit :=
  match shortUnit s, r.badDie with
  | some u, _ => some (holdUnit u)
  | none, some d => some ⟨3, d⟩
  | none, none => if r.ehrokOk then none else some ⟨3, 0x20⟩

/-- The cells of galley memory, in clusters of `size` bytes, of the clusters that hold an image (18 R439, R454). -/
def keepMem (s : State) (m : Mem) (size : Nat) : Mem := m.filter fun c => (Tab.get none s.clusters (c.1 / size)).isSome

/-- The self-test leaves 0 in every scratch and cluster memory but those of clusters that hold an image, and from Standby in every larder region (18 R439). -/
def testMem (s : State) : State :=
  { s with scratch := keepMem s s.scratch 1048576, cmem := keepMem s s.cmem 2097152,
           lard := if s.mod.warm then s.lard else { s.lard with mem := [], badUnits := [] } }

/-- SELF_TEST_COMPLETE (18 R436, R438 to R441): a held stopped Ehrok core that passes restarts (15 R380), spares are mapped and the ports start Detect, or the module goes to Hold at the next boundary. -/
def selfTest (s : State) (r : SelfTest) : State :=
  if s.mod.st ≠ .setup ∨ s.mod.start.checkDone then s
  else
    let s := r.lostScratch.foldl scratchLost (mapSpares (r.failed.foldl repairFound (testMem s)))
    let s := if r.ehrokOk && s.ehrok.single then
        { s with ehrok := { s.ehrok with single := false, aState := max 1 s.ehrok.aState, bState := max 1 s.ehrok.bState } }
      else s
    let bad := testFails s r
    let s := updMod s fun m => { m with start := { m.start with checkDone := true, checkPass := bad.isNone } }
    if bad.isNone then (allPorts s).foldl startHitch s else enterHold (elapse s (toBoundary s)) 1 bad

def execSelfTestComplete (r : SelfTest) (s : State) : Host.Outcome State Fault Refusal := done s (selfTest s r)

/-- REPAIR_MARK (18 R442): a mark issued in Setup takes effect at the next entry to Setup. -/
def execRepairMark (tag : Nat) (unit : RepairUnit) (s : State) : Host.Outcome State Fault Refusal :=
  lonusCmd tag 0x0230 [(2, unit.kind), (4, unit.unit)] s fun s =>
    if !unitOk s unit then fail s .badParam
    else if (s.fixed.factoryMap ++ s.nv.fieldMap.map FieldMark.unit).contains unit then answer s (rep .ok)
    else if 256 ≤ s.nv.fieldMap.length then fail s .noSpace
    else
      let s := if s.mod.st = .setup then updMod s fun m => { m with late := m.late ++ [unit] } else s
      answer (updNv s fun nv => { nv with fieldMap := nv.fieldMap ++ [{ unit := unit, source := 1 }] }) (rep .ok)

/-- REPAIR_READ (18 R443). -/
def repairBytes (s : State) : List Byte :=
  let entry := fun (src : Nat) (u : RepairUnit) => leBytes 1 u.kind ++ leBytes 1 src ++ leBytes 2 0 ++ leBytes 4 u.unit
  leBytes 2 s.fixed.factoryMap.length ++ leBytes 2 s.nv.fieldMap.length ++ leBytes 4 0 ++
    s.fixed.factoryMap.flatMap (entry 0) ++ s.nv.fieldMap.flatMap fun m => entry m.source m.unit

def execRepairRead (tag : Nat) (s : State) : Host.Outcome State Fault Refusal :=
  lonusCmd tag 0x0231 [] s fun s => answer s (okBulk (repairBytes s))

-- Entry to Ready (18 R436)

/-- Whether the axle counts as locked for R436 (13 R342). -/
def axleReady (s : State) : Bool := s.axle.locked && !s.axle.warmWait

/-- The conditions of 18 R436. -/
def readyMet (s : State) : Bool :=
  s.mod.start.checkDone && s.mod.start.checkPass && planInForce s && (plannedPorts s).all (portOk s) && s.epoch.loaded && axleReady s

/-- Enter Ready: the selected version becomes Active, MOD_START_STAT keeps its values, slot current has reached Ready, mark depths start at mark_max
(05 R126, 15 R389, 18 R457, 04 R100). -/
def enterReady (s : State) : State :=
  let e := s.epoch
  let s := { s with epoch := { e with verA := if e.active then .writable else .active, verB := if e.active then .active else .writable,
                                      stamp := List.replicate 4 e.active } }
  let s := updMod s fun m => { m with
    st := .ready, readyAxle := s.axle.value,
    start := { m.start with plan := true, loaded := true, axle := true, pending := 0 },
    startKept := { m.start with plan := true, loaded := true, axle := true, pending := 0 } }
  let s := updNv s fun nv => setDev nv nv.curIsF1 { slotAtDev nv nv.curIsF1 with reachedReady := true }
  let s := (allPorts s).foldl (fun s p => updPort s p fun q => { q with markDepth := some (markMax s p) }) s
  emit s evReadyEnter []

/-- The entry to Ready at a control-cycle boundary. -/
def readyCheck (s : State) : State := if s.mod.st = .setup ∧ readyMet s then enterReady s else s

-- Rest (18 R453 to R455)

/-- End every recording and capture, their rings kept (18 R453, 17 R434). -/
def endRings (s : State) : State :=
  (List.range 16).foldl (fun s k => if (ringOf s k).st = 1 then ringEnd s k else s) s

/-- Each larder die performs the part at the front of its queue, round after round, until nothing is left (10 R266). -/
def finishParts : Nat → State → State
  | 0, s => s
  | n + 1, s => if s.lard.reqs.isEmpty then s else finishParts n ((List.range 6).foldl (fun s ld => lardPart s ld .ok .ok) s)

/-- The larder completes all writes on the way to Rest, its exact cells and spill entries discarded (10 R266). DEDUCED: at most 2^20 rounds, which meet
no new error (log 13). -/
def finishWrites (s : State) : State :=
  finishParts 1048576 { s with lard := { s.lard with cells := [] }, coll := { s.coll with spills := [] } }

/-- Enter Rest: the retention domain and the larder's pool, heap and rings are kept (18 R453, R454, 10 R266). -/
def enterRest (s : State) (t : Transition) : State :=
  let dr := if s.epoch.verA = .draining then [0] else if s.epoch.verB = .draining then [1] else []
  let fix := fun (v : VerState) => if v = .draining then VerState.writable else v
  let s := { s with epoch := { s.epoch with verA := fix s.epoch.verA, verB := fix s.epoch.verB, sealed := false } }
  let s := dr.foldl (fun s v => emit s evTableDrained [v]) s
  let s := endRings (finishWrites s)
  let sc := keepMem s s.scratch 1048576
  let cm := keepMem s s.cmem 2097152
  let s := freshPlane (stopDataPlane { s with telem := {} })
  let s := { s with scratch := sc, cmem := cm, lard := { s.lard with
                                                          reqs := [], cells := [], state := 2, recHeld := [],
                                                          dies := Tab.mapV {} s.lard.dies fun d => { d with queue := [] } } }
  let s := (s.clusters.map Prod.fst).foldl clusterSync s
  finishCmd (updMod s fun m => { m with st := .rest, trans := none }) t.tag 0x0201 (rep .ok)

/-- REST_ENTRY (18 R453). -/
def restEntry (s : State) : State :=
  match s.mod.trans with
  | some t => if t.target = .rest then enterRest s t else s
  | none => s

def execRestEntry (s : State) : Host.Outcome State Fault Refusal := done s (restEntry s)

-- Standby from Hold or Rest (18 R444)

/-- The stage-level definitions that entry to Standby clears: tables, STEPSRC, harness entries and members, binds. -/
def stageDef (a : Nat) : Bool :=
  decide ((0x50004000 ≤ a ∧ a < 0x50005000) ∨ (0x50006000 ≤ a ∧ a < 0x50007000) ∨ (0x50010000 ≤ a ∧ a < 0x50020000) ∨
    (0x50034000 ≤ a ∧ a < 0x50035000) ∨ 0x50040000 ≤ a)

/-- Enter Standby: blocks, harnesses, images, tables and larder go; session, event sequence and saved values stay (18 R444); without REFCLK the Lonus
line goes down (19 R469). -/
def enterStandby (s : State) : State :=
  let s := freshPlane (loseLarder (stopDataPlane { s with telem := {} }))
  let s := { s with
    regs := s.regs.filter fun e => !stageDef e.1, held := [], winEff := [], winPend := [], blocks := [], noBlockAt := [], cslots := [],
    epoch := {}, harn := [], img := [], clusters := [], eng := [], lmap := [], cmap := [], e2e := {}, replay := {},
    lard := { state := 0 }, axle := { s.axle with locked := false, warmWait := false, inBand := 0, outBand := 0, firstUp := none } }
  let s := if s.mod.refBad then cutLine s else s
  updMod s fun m => { m with st := .standby, frozen := false, dpOff := false, start := {}, marked := [], late := [] }

-- Drain (01 R17, 18 R448)

/-- Enter Drain: every Active block pauses at its next step boundary. -/
def enterDrain (s : State) : State :=
  let s := updMod s fun m => { m with st := .drain, drainAt := s.now }
  settle { s with blocks := Tab.mapV {} s.blocks fun b => if b.st = .active then { b with pause := true } else b }

def drainMs (s : State) : Nat := regAt s 0x40000110 2000

/-- DRAIN_LIMIT (18 R448): every block still Active goes to Faulted with its event; at the next boundary where a write has put the limit in the past. -/
def drainLimit (s : State) : State :=
  if s.mod.st = .drain then
    let due := s.mod.drainAt + drainMs s * 1000000
    let s := if due < s.now then elapse s (toBoundary s) else waitUntil s due
    (loadedBlocks s).foldl (fun s b => if (blockOf s b).st = .active then faultBlock s b evDrainLimit [drainMs s] else s) s
  else s

def execDrainLimit (s : State) : Host.Outcome State Fault Refusal := done s (drainLimit s)

/-- HOLD_ENTER (18 R449, R450): a module fault with its cause code. -/
def execHoldEnter (cause : Nat) (unit : Option RepairUnit) (s : State) : Host.Outcome State Fault Refusal :=
  done s (if 1 ≤ cause ∧ cause ≤ 12 then enterHold s cause unit else s)

-- STATE_SET, STATE_GET (01 R17, 14 R474)

/-- Whether die position `p` of telemetry set 1 holds a die: stacks S6 to S11 are absent on H6 (17 R425, 00 R2). -/
def diePresent (s : State) (p : Nat) : Bool := decide (p < 20 ∨ (20 ≤ p ∧ p < 20 + stackCount s) ∨ (32 ≤ p ∧ p < 40))

/-- The two sensors and the model temperature of a position, in 0.1 °C. -/
def sensorAt (t : Thermal) (p i : Nat) : Option Int :=
  match t.sensors[p]? with | some x => if i = 0 then x.1 else x.2 | none => some 0
def modelAt (t : Thermal) (p : Nat) : Int := (t.model[p]?).getD 0

/-- What one sensor says of a position: a suspect one the higher of itself and the model (16 R412). -/
def sensorSays (t : Thermal) (p i : Nat) : Int :=
  let m := modelAt t p
  let v := (sensorAt t p i).getD m
  if t.suspect.contains (p, i) then max v m else v

/-- The governing temperature of a position (16 R412). -/
def governAt (t : Thermal) (p : Nat) : Int := max (sensorSays t p 0) (sensorSays t p 1)

/-- The positions that hold a die. -/
def diePositions (s : State) : List Nat := (List.range 40).filter (diePresent s)

/-- Governing temperatures are cooler than 85 °C, coolant and input are sound (16 R415). -/
def coolEnough (s : State) : Bool :=
  ((diePositions s).all fun p => decide (governAt s.therm p < 850)) &&
  decide (240 ≤ s.cool.flow ∧ ¬ s.cool.flowFault ∧ s.cool.loop0 ≠ 1 ∧ s.cool.loop1 ≠ 1 ∧ ¬ (s.cool.loop0 = 2 ∧ s.cool.loop1 = 2) ∧
    4400 ≤ s.pwr.volts ∧ s.pwr.volts ≤ 5600)

/-- The Hold causes of 16: rail, sensing, undervoltage, thermal, trip, leak (16 R415; log 14). -/
def supervised (cause : Nat) : Bool := [4, 6, 7, 8, 9, 10].contains cause

/-- Whether a STATE_SET arrived while a transition was in progress (01 R17). -/
def cameLate (s : State) (tag : Nat) : Bool := (cmdOf s tag).any Cmd.late

/-- Overflow entries go without NACK on the way to Rest (10 R266, 18 R453). -/
def dropOverflow (s : State) : State := ovfEase { s with ports := Tab.mapV {} s.ports fun q => { q with ovfList := [] } }

/-- Begin a transition that a row completes. -/
def beginTrans (s : State) (tag : Nat) (t : ModState) (warm : Bool) : State × Option Reply :=
  (updMod s fun m => { m with trans := some { target := t, warm := warm, tag := tag } }, none)

/-- STATE_SET's body (01, table "Module transitions"; 13 R322, 16 R411, R415). -/
def stateSet (tag target : Nat) (s : State) : State × Option Reply :=
  if s.mod.trans.isSome || cameLate s tag then fail s .badState
  else match s.mod.st, target with
    | .standby, 3 =>
      if s.mod.strapBad ∨ s.cool.loop0 = 1 ∨ s.cool.loop1 = 1 ∨ (s.cool.loop0 = 2 ∧ s.cool.loop1 = 2) then fail s .badState else beginTrans s tag .setup false
    | .ready, 3 => beginTrans s tag .setup true
    | .rest, 3 => beginTrans s tag .setup true
    | .ready, 2 =>
      let up := (allPorts s).filter fun p => decide ((portOf s p).stage = .up)
      beginTrans (up.foldl (fun s p => portDown s p 7) (dropOverflow s)) tag .rest false
    | .rest, 1 => answer (enterStandby s) (rep .ok)
    | .hold, 1 => if supervised s.mod.cause ∧ ¬ coolEnough s then fail s .badState else answer (enterStandby s) (rep .ok)
    | .run, 6 => answer (enterDrain s) (rep .ok)
    | _, _ => fail s .badState

def execStateSet (tag target : Nat) (s : State) : Host.Outcome State Fault Refusal := lonusCmd tag 0x0201 [(2, target)] s (stateSet tag target)

/-- STATE_GET (14 R474). -/
def stateGetBytes (s : State) : List Byte :=
  words [stateCode s.mod.st + 8 * b2n s.mod.trans.isSome, modWord s 0x114]

def execStateGet (tag : Nat) (s : State) : Host.Outcome State Fault Refusal :=
  lonusCmd tag 0x0202 [] s fun s => answer s (okItems (stateGetBytes s))

/-- STEADY_SET (11 R277): the clocks follow the new rule at once (01 R15); BADSTATE while a loaded harness is fast; outside Setup the state step gives BUSY_STATE. -/
def execSteadySet (tag value : Nat) (s : State) : Host.Outcome State Fault Refusal :=
  lonusCmd tag 0x0210 [(2, value)] s fun s =>
    if 1 < value then fail s .badParam
    else if s.harn.any fun h => h.2.loaded && harnFast s h.1 then fail s .badState
    else answer ((List.range 4).foldl stretchSettle (updNv s fun nv => { nv with steady := decide (value = 1) })) (rep .ok)

end Sys2Proof.Machine
end

