-- ==== Sys2Proof/Machine/Power.lean ====
section
/-! DEFINITION. Power, thermal and coolant supervision (16), the orphaned state (14 R363) and the loops of Ehrok's control
cycle (15 R374). -/

namespace Sys2Proof.Machine

def evShedEngaged : Nat := 0x0940
def evShedReleased : Nat := 0x0941
def evInputRange : Nat := 0x0942
def evUndervolt : Nat := 0x0943
def evLowFlow : Nat := 0x0944
def evInletHigh : Nat := 0x0945
def evInletLow : Nat := 0x0946
def evLeak : Nat := 0x0947
def evLoopFault : Nat := 0x0948
def evSuspect : Nat := 0x0949
def evThermalHold : Nat := 0x094A
def evThermalTrip : Nat := 0x094B
def evCapFloor : Nat := 0x094C

-- Limits in force (16 R402, R406)

/-- The shed level in W (16 R401). -/
def shedLevel (s : State) : Nat := s.pwr.shedPct * sustained s / 100

/-- The target of a shed cause (16 R401): cap_step the lower of level and cap, cap_overrun the cap, the others the level. -/
def causeTarget (s : State) (c : Nat) : Nat :=
  match c with | 1 => min (shedLevel s) (capNow s).1 | 2 => (capNow s).1 | _ => shedLevel s

/-- The lowest target of the causes present (16 R414); with none left the last one stands until release. -/
def shedTarget (s : State) : Nat :=
  match s.pwr.causes with
  | [] => s.pwr.shedTgt
  | c :: cs => (cs.map (causeTarget s)).foldl min (causeTarget s c)

/-- The die limit of an engaged shed (16 R402). -/
def shedLimit (s : State) : Nat := max 1 (16 * shedTarget s / sustained s)

/-- Put the limits in force: the slow loop's settings, the shed's where engaged, in Run the ramp's (16 R402, R406). -/
def applyLimits (s : State) : State :=
  let p := s.pwr
  let ramp := if s.mod.st = .run then p.rampLim else 16
  let shed := if p.shed then shedLimit s else 16
  { s with pwr := { p with effLim := min p.dieLim (min shed ramp), effRatio := min p.ratio (max 4 (min shed ramp)), shedTgt := shedTarget s } }

-- The fast shed (16 R401 to R403)

/-- A shed cause appears: the shed engages, with an event for each new cause (16 R401, R414); the burn load stops (R406). -/
def addCause (s : State) (c : Nat) : State :=
  if s.pwr.causes.contains c then s
  else
    let s := updPwr s fun p => { p with causes := sortBy (fun a b => decide (a ≤ b)) (p.causes ++ [c]), shed := true, alert := true,
                                        burn := false }
    let s := applyLimits s
    emit s evShedEngaged [c, causeTarget s c, s.pwr.draw]

/-- Release the shed when its conditions hold (16 R403): no cause remains, and the slow loop's settings are at or below the shed's. PWR_ALERT_N follows
when the draw is at or below the cap. -/
def shedCheck (s : State) : State :=
  let p := s.pwr
  let out := p.shed && p.causes.isEmpty && decide (p.dieLim ≤ shedLimit s) && decide (p.ratio ≤ max 4 (shedLimit s))
  let s := if out then emit (updPwr s fun p => { p with shed := false }) evShedReleased [s.pwr.draw] else s
  applyLimits (if !s.pwr.shed && decide (s.pwr.draw ≤ (capNow s).1) then updPwr s fun p => { p with alert := false } else s)

/-- A shed cause ends. -/
def dropCause (s : State) (c : Nat) : State :=
  shedCheck (applyLimits (updPwr s fun p => { p with causes := p.causes.filter fun x => decide (x ≠ c) }))

/-- The floor condition (16 R404): it begins when the cap in force falls below 900 W. -/
def capFloor (s : State) : State :=
  let c := capNow s
  if c.1 < 900 then
    if s.pwr.floorOn then s
    else
      let s := emit (updPwr s fun p => { p with floorOn := true }) evCapFloor [c.1, c.2]
      let act := (loadedBlocks s).filter fun b => decide ((blockOf s b).st = .active)
      let run := decide (s.mod.st = .run)
      let s := if run then updMod s fun m => { m with st := .drain, drainAt := s.now } else s
      act.foldl (fun s b => faultBlock s b evCapFloor [c.1, c.2]) s
  else updPwr s fun p => { p with floorOn := false }

/-- What follows a change of the cap in force (16 R401 cap_step, R404, R406). -/
def capChanged (s : State) : State :=
  let c := (capNow s).1
  let fell := decide (c < s.pwr.lastCap)
  let s := updPwr s fun p => { p with lastCap := c, burn := p.burn && !fell, noBurn := p.noBurn || fell }
  let s := if fell && decide (c + 400 < s.pwr.draw) then addCause s 1 else s
  shedCheck (capFloor (applyLimits s))

-- Commands

/-- CAP_SET (16 R399). -/
def execCapSet (tag capW : Nat) (s : State) : Host.Outcome State Fault Refusal :=
  lonusCmd tag 0x0901 [(2, capW)] s fun s =>
    if capW ≤ sustained s then answer (capChanged (updPwr s fun p => { p with mgrCap := capW })) (rep .ok) else fail s .badParam

/-- SHED_SET (16 R401). -/
def execShedSet (tag pct : Nat) (s : State) : Host.Outcome State Fault Refusal :=
  lonusCmd tag 0x0903 [(2, pct)] s fun s =>
    if within 25 pct 75 then answer (applyLimits (updPwr s fun p => { p with shedPct := pct })) (rep .ok) else fail s .badParam

/-- ORPHAN_SET (16 R405). -/
def execOrphanSet (tag pct : Nat) (s : State) : Host.Outcome State Fault Refusal :=
  lonusCmd tag 0x0904 [(2, pct)] s fun s =>
    if within 50 pct 100 then answer (capChanged (updPwr s fun p => { p with orphanPct := pct })) (rep .ok) else fail s .badParam

/-- HEARTBEAT (14 R363). -/
def heartbeat (s : State) : State :=
  let s := updLonus s fun l => { l with beatAt := s.now }
  if s.lonus.orphan then capChanged (emit (updLonus s fun l => { l with orphan := false }) evOrphanLeave []) else s

def execHeartbeat (tag sequence : Nat) (s : State) : Host.Outcome State Fault Refusal :=
  lonusCmd tag 0x0905 [(4, sequence)] s fun s => if sequence < 2 ^ 32 then answer (heartbeat s) (rep .ok) else fail s .badParam

/-- ORPHAN_ENTER (14 R363): 10 s since the last HEARTBEAT. -/
def orphanEnter (s : State) : State :=
  if alive s && !s.lonus.orphan then
    let s := waitUntil s (s.lonus.beatAt + 10000000000)
    capChanged (emit (updLonus s fun l => { l with orphan := true }) evOrphanEnter [])
  else s

def execOrphanEnter (s : State) : Host.Outcome State Fault Refusal := done s (orphanEnter s)

/-- POWER_STATUS (14 R474). -/
def execPowerStatus (tag : Nat) (s : State) : Host.Outcome State Fault Refusal :=
  lonusCmd tag 0x0902 [] s fun s => answer s (okItems (words [modWord s 0x504, modWord s 0x500, modWord s 0x508]))

/-- COOLANT_STATUS (14 R474). -/
def execCoolantStatus (tag : Nat) (s : State) : Host.Outcome State Fault Refusal :=
  lonusCmd tag 0x0907 [] s fun s => answer s (okItems (words [modWord s 0x510]))

/-- The three values of a die position, 0x8000 where there is no die or no reading (17 R425). -/
def thermalEntry (s : State) (p : Nat) : List Byte :=
  if diePresent s p then
    let v := fun i => match sensorAt s.therm p i with | some x => twos 16 x | none => 0x8000
    leBytes 2 (v 0) ++ leBytes 2 (v 1) ++ leBytes 2 (twos 16 (modelAt s.therm p)) ++ leBytes 2 0
  else leBytes 2 0x8000 ++ leBytes 2 0x8000 ++ leBytes 2 0x8000 ++ leBytes 2 0

/-- The body of telemetry set 1 (17 R425). -/
def thermalBody (s : State) : List Byte := (List.range 40).flatMap (thermalEntry s)

/-- THERMAL_STATUS (14 R474). -/
def execThermalStatus (tag : Nat) (s : State) : Host.Outcome State Fault Refusal :=
  lonusCmd tag 0x0906 [] s fun s => answer s (okItems (thermalBody s))

-- Pins and input

def execShedNAssert (s : State) : Host.Outcome State Fault Refusal :=
  done s (if alive s then addCause (updPwr s fun p => { p with shedN := true }) 3 else s)

def execShedNRelease (s : State) : Host.Outcome State Fault Refusal :=
  done s (if alive s then dropCause (updPwr s fun p => { p with shedN := false }) 3 else s)

/-- CAP_OVERRUN (16 R401): the draw has exceeded the cap for 20 ms. The hardware measures it without Ehrok; the row may carry what it measured, and
without a measure it stands for the condition itself (log 14). -/
def capOverrun (s : State) (draw : Option Nat) : State :=
  match draw with
  | some d => if alive s && decide ((capNow s).1 < d) then addCause (updPwr s fun p => { p with draw := d }) 2 else s
  | none => if alive s then addCause s 2 else s

def execCapOverrun (s : State) (draw : Option Nat := none) : Host.Outcome State Fault Refusal := done s (capOverrun s draw)

/-- INPUT_RANGE (16 R397; before Standby 18 R435). -/
def execInputRange (volts : Nat) (s : State) : Host.Outcome State Fault Refusal :=
  done s (if volts < 4400 ∧ s.mod.bootWait.isSome then unqualify s else if alive s && !within 4400 volts 5600 then
    emit (updPwr s fun p => { p with volts := volts, rangeBad := true }) evInputRange [volts] else s)

/-- UNDERVOLTAGE_SHED (16 R397; before Standby 18 R435). -/
def execUndervoltageShed (volts : Nat) (s : State) : Host.Outcome State Fault Refusal :=
  done s (if volts < 4400 ∧ s.mod.bootWait.isSome then unqualify s else if alive s && decide (volts < 4200) then addCause (updPwr s fun p => { p with volts := volts, uvBad := true }) 4 else s)

/-- INPUT_UNDERVOLT (16 R397): an orderly Hold with cause undervoltage; before Standby 18 R435. -/
def execInputUndervolt (volts : Nat) (s : State) : Host.Outcome State Fault Refusal :=
  done s (if volts < 4400 ∧ s.mod.bootWait.isSome then unqualify s else if alive s && decide (volts < 4000) then
    enterHold (emit (updPwr s fun p => { p with volts := volts }) evUndervolt [volts]) 7 none else s)

/-- INPUT_RECOVERED (16 R397): each condition whose bound the voltage has kept for 10 ms ends. -/
def inputRecovered (s : State) (volts : Nat) : State :=
  let s := updPwr s fun p => { p with volts := volts, rangeBad := p.rangeBad && !within 4400 volts 5600 }
  if 4200 ≤ volts then dropCause (updPwr s fun p => { p with uvBad := false }) 4 else s

def execInputRecovered (volts : Nat) (s : State) : Host.Outcome State Fault Refusal :=
  done s (if alive s then inputRecovered s volts else s)

-- Voltage and clock stretch (16 R408, R409)

/-- DROOP_STRETCH (16 R409): the detector of a die engages. -/
def droopStretch (s : State) (d : Nat) : State :=
  if dpRuns s && !(hubOf s d).droopOn then
    stretchSettle (updHub s d fun h => { h with droopOn := true, droop := (h.droop + 1) % 2 ^ 32 }) d
  else s

def execDroopStretch (die : Nat) (s : State) : Host.Outcome State Fault Refusal :=
  onUnit (decide (die < 4)) s fun s => droopStretch s die

/-- DROOP_RELEASE (16 R409): the detector of a die releases. -/
def droopRelease (s : State) (d : Nat) : State := stretchSettle (updHub s d fun h => { h with droopOn := false }) d

def execDroopRelease (die : Nat) (s : State) : Host.Outcome State Fault Refusal :=
  onUnit (decide (die < 4)) s fun s => droopRelease s die

/-- The die that a position names, as MOD_HOLD_CAUSE's unit of kind 3; stacks have no code there (18 R457). -/
def dieUnit (p : Nat) : Option RepairUnit :=
  if p < 4 then some ⟨3, p⟩ else if p < 20 then some ⟨3, 0x30 + (p - 4)⟩ else if p < 32 then none
  else if p < 38 then some ⟨3, 0x10 + (p - 32)⟩ else if p = 38 then some ⟨3, 0x20⟩ else some ⟨3, 0x21⟩

/-- MARGIN_LOW (16 R408): 10 mV up, or a module fault at the rail's limit. -/
def marginLow (s : State) (p : Nat) (atLimit : Bool) : State :=
  if !alive s then s
  else if atLimit then enterHold s 4 (dieUnit p)
  else updPwr s fun w => { w with supply := Tab.upd 0 w.supply p fun v => v + 10 }

def execMarginLow (position : Nat) (atLimit : Bool) (s : State) : Host.Outcome State Fault Refusal :=
  onUnit (decide (position < 40) && diePresent s position) s fun s => marginLow s position atLimit

-- Coolant and leaks (16 R410, R411)

/-- Whether a flow reading is the one that has not changed for 60 s while the draw changed by more than 300 W (16 R410). -/
def flowStuck (c : Coolant) (flow : Nat) : Bool := c.stuck && decide (flow = c.flow)

/-- COOL_LOW_FLOW (16 R410): a sensor fault, and a reading above 6 L/min or a stuck one is one, counts as flow 0; below 60 % the shed engages while the
data plane is powered. A core must run (R414). -/
def coolLowFlow (s : State) (flow : Nat) (bad : Bool) : State :=
  let bad := bad || decide (600 < flow) || flowStuck s.cool flow
  let f := if bad then 0 else flow
  if ctrlRuns s && decide (f < 240) then
    let s := { s with cool := { s.cool with flow := flow, flowFault := bad, lowAlert := true } }
    let s := emit s evLowFlow [flow, b2n bad]
    if dpPowered s && decide (f < 144) then addCause s 5 else s
  else s

def execCoolLowFlow (flow : Nat) (sensorFault : Bool) (s : State) : Host.Outcome State Fault Refusal :=
  done s (coolLowFlow s flow sensorFault)

/-- FLOW_RECOVERED (16 R410, R414). -/
def flowRecovered (s : State) (flow : Nat) : State :=
  if ctrlRuns s && within 240 flow 600 && !flowStuck s.cool flow then
    dropCause { s with cool := { s.cool with flow := flow, flowFault := false, lowAlert := false } } 5
  else s

def execFlowRecovered (flow : Nat) (s : State) : Host.Outcome State Fault Refusal := done s (flowRecovered s flow)

/-- Whether the inlet or the rise over the plate is too high (16 R410). -/
def inletHot (inlet outlet : Int) : Bool := decide (450 < inlet ∨ 250 < outlet - inlet)

/-- COOL_INLET_HIGH (16 R410, R414). -/
def execCoolInletHigh (inlet outlet : Int) (s : State) : Host.Outcome State Fault Refusal :=
  done s (if ctrlRuns s && inletHot inlet outlet then
    emit { s with cool := { s.cool with inlet := inlet, outlet := outlet, inHigh := true } } evInletHigh [twos 16 inlet, twos 16 outlet]
    else s)

/-- COOL_INLET_LOW (16 R410, R414). -/
def execCoolInletLow (inlet : Int) (s : State) : Host.Outcome State Fault Refusal :=
  done s (if ctrlRuns s && decide (inlet < 300) then
    emit { s with cool := { s.cool with inlet := inlet, inLow := true } } evInletLow [twos 16 inlet] else s)

/-- The reading of a leak loop. -/
def setLoop (s : State) (loop v : Nat) : State :=
  { s with cool := if loop = 0 then { s.cool with loop0 := v } else { s.cool with loop1 := v } }

/-- LEAK (16 R411): sensed by hardware from management rails good on (18 R435, R452). -/
def leak (s : State) (loop : Nat) : State :=
  if railsGood s then enterHold (emit (setLoop s loop 1) evLeak [loop]) 10 none else s

def execLeak (loop : Nat) (s : State) : Host.Outcome State Fault Refusal := onUnit (decide (loop < 2)) s fun s => leak s loop

/-- LEAK_LOOP_FAULT (16 R411) with the reading in 100 Ω units: above 40 kΩ a loop fault, below 3 kΩ a leak, between them a normal loop. -/
def loopReading (s : State) (loop r : Nat) : State :=
  if !railsGood s then s
  else if r < 30 then leak s loop
  else if r ≤ 400 then setLoop s loop 0
  else
    let s := emit (setLoop s loop 2) evLoopFault [loop, r]
    if s.cool.loop0 = 2 ∧ s.cool.loop1 = 2 then enterHold s 6 none else s

def execLeakLoopFault (loop resistance : Nat) (s : State) : Host.Outcome State Fault Refusal :=
  onUnit (decide (loop < 2)) s fun s => loopReading s loop resistance

-- Temperatures (16 R412, R413)

/-- Whether a reading is suspect: it differs from the model by more than 8 °C, or cannot be read. -/
def isSuspect (t : Thermal) (p i : Nat) : Bool :=
  match sensorAt t p i with | some v => decide (80 < v - modelAt t p ∨ 80 < modelAt t p - v) | none => true

/-- Cross-check the sensors: each first suspect cycle sends its event (16 R412). -/
def suspectCheck (s : State) : State :=
  let t := s.therm
  let all := (diePositions s).flatMap fun p => [(p, 0), (p, 1)]
  let now := all.filter fun x => isSuspect t x.1 x.2
  let new := now.filter fun x => !t.suspect.contains x
  let s := { s with therm := { t with suspect := now } }
  new.foldl (fun s x => emit s evSuspect
    [x.1, x.2, (match sensorAt t x.1 x.2 with | some v => twos 16 v | none => 0x8000), twos 16 (modelAt t x.1)]) s

/-- Since when a sensor has read well: none while it is suspect (16 R412). -/
def wellSince (s : State) (p i : Nat) (since : Option Nat) : Option Nat :=
  if s.therm.suspect.contains (p, i) then none else some (since.getD s.now)

/-- Whether a sensor has read well for 10 s (16 R412). -/
def wellNow (s : State) (since : Option Nat) : Bool := since.any fun u => decide (u + 10000000000 ≤ s.now)

/-- Positions with both sensors suspect engage the shed; it holds until one sensor of the die has read well for 10 s (16 R412). -/
def dualCheck (s : State) : State :=
  let t := s.therm
  let both := (diePositions s).filter fun p => t.suspect.contains (p, 0) && t.suspect.contains (p, 1)
  let old := (t.dual.map fun e => (e.1, wellSince s e.1 0 e.2.1, wellSince s e.1 1 e.2.2)).filter fun e => !(wellNow s e.2.1 || wellNow s e.2.2)
  let add := (both.filter fun p => !(t.dual.any fun e => decide (e.1 = p))).map fun p => (p, (none : Option Nat), (none : Option Nat))
  let s := { s with therm := { t with dual := old ++ add } }
  if s.therm.dual.isEmpty then (if s.pwr.causes.contains 6 then dropCause s 6 else s) else addCause s 6

/-- The stacks above a temperature in 0.1 °C (telemetry positions 20 to 31). -/
def stacksAbove (s : State) (v : Int) : List Nat := (List.range (stackCount s)).filter fun k => decide (v < governAt s.therm (20 + k))

/-- Refresh runs fast on a larder die with a stack above 85 °C (10 R265, R269); in Rest a stack above 95 °C sends the module to Hold (10 R267). The
HBM stack has no code of MOD_HOLD_CAUSE, its larder die has. -/
def stackHeat (s : State) : State :=
  let s := { s with lard := { s.lard with hot := ((stacksAbove s 850).map fun k => k / 2).eraseDups } }
  match s.mod.st, stacksAbove s 950 with
  | .rest, k :: _ => enterHold s 3 (some ⟨3, 0x10 + k / 2⟩)
  | _, _ => s

/-- The thermal cap and the positions above 105 °C (16 R413). -/
def thermalLoop (s : State) : State :=
  let gov := (diePositions s).map fun p => (p, governAt s.therm p)
  let cap := if gov.any fun g => decide (950 < g.2) then max 900 (s.pwr.thermCap - 2 * sustained s / 100)
             else if gov.all fun g => decide (g.2 ≤ 930) then min (sustained s) (s.pwr.thermCap + sustained s / 100)
             else s.pwr.thermCap
  let hot := (gov.filter fun g => decide (1050 < g.2)).map fun g =>
    (g.1, 1 + ((s.therm.hot.find? fun h => decide (h.1 = g.1)).map Prod.snd).getD 0)
  capChanged { s with pwr := { s.pwr with thermCap := cap }, therm := { s.therm with hot := hot } }

/-- THERMAL_HOLD (16 R413, R414): a position above 105 °C for two consecutive cycles. -/
def thermalHold (s : State) (p : Nat) : State :=
  if ctrlRuns s && s.therm.hot.any fun h => decide (h.1 = p ∧ 2 ≤ h.2) then
    enterHold (emit s evThermalHold [p, twos 16 (governAt s.therm p)]) 8 (dieUnit p)
  else s

def execThermalHold (position : Nat) (s : State) : Host.Outcome State Fault Refusal :=
  onUnit (diePresent s position) s fun s => thermalHold s position

/-- THERMAL_TRIP (16 R413): a reading above 115 °C on any sensor cuts the data-plane rails, those of a module that is in Hold already too. -/
def thermalTrip (s : State) (p i : Nat) (v : Int) : State :=
  if alive s && decide (1150 < v) then
    let s := enterHold (emit s evThermalTrip [p, i]) 9 (dieUnit p)
    if s.mod.st = .hold then updMod s fun m => { m with dpOff := true } else s
  else s

def execThermalTrip (position sensor : Nat) (reading : Int) (s : State) : Host.Outcome State Fault Refusal :=
  onUnit (diePresent s position && decide (sensor < 2)) s fun s => thermalTrip s position sensor reading

-- The loops of a control cycle (16 R400, R406, R408, R410)

/-- What a flow reading says of its sensor: since when it has not changed, and the extremes of the draw since (16 R410). -/
def flowWatch (s : State) (x : Sensed) : Coolant :=
  let c := s.cool
  if x.flow ≠ c.flow then { c with flowAt := s.now, drawLo := x.draw, drawHi := x.draw, stuck := false }
  else
    let lo := min c.drawLo x.draw
    let hi := max c.drawHi x.draw
    { c with drawLo := lo, drawHi := hi, stuck := decide (c.flowAt + 60000000000 ≤ s.now ∧ 300 < hi - lo) }

/-- Read the sensors. -/
def readSensors (s : State) (x : Sensed) : State :=
  let c := flowWatch s x
  { s with
    pwr := { s.pwr with draw := x.draw, volts := x.volts, amps := x.amps },
    cool := { c with
      flow := x.flow, flowFault := x.flowFault || decide (600 < x.flow) || c.stuck, inlet := x.inlet, outlet := x.outlet,
      inHigh := s.cool.inHigh && inletHot x.inlet x.outlet, inLow := s.cool.inLow && decide (x.inlet < 300) },
    therm := { s.therm with sensors := x.sensors, model := x.model } }

/-- The setting that the slow loop heads for: the highest at which the draw, in proportion to its limit `eff` in force, stays 50 W below the cap (16 R400);
while the shed is engaged no higher than the shed's, as in 16's example of a shelf loss (DEDUCED, log 14). -/
def slowTarget (s : State) (eff : Nat) : Nat :=
  let t := if s.pwr.draw = 0 then 16 else ((capNow s).1 - 50) * eff / s.pwr.draw
  if s.pwr.shed then min t (shedLimit s) else t

/-- One step of a setting toward its target, between its bounds. -/
def oneStep (lo cur tgt : Nat) : Nat :=
  let t := max lo (min 16 tgt)
  if cur < t then cur + 1 else if t < cur then cur - 1 else cur

/-- The slow loop's step (16 R400), where the data plane is powered or a shed waits for its settings. -/
def slowLoop (s : State) : State :=
  if dpPowered s || s.pwr.shed then
    updPwr s fun p => { p with dieLim := oneStep 1 p.dieLim (slowTarget s p.effLim), ratio := oneStep 4 p.ratio (slowTarget s p.effRatio) }
  else s

/-- The ramp's limit of the coming cycle (16 R406): in Run the draw may rise by ramp_up in a cycle, from the draw itself or from what the ramp allowed
where its limit governs; a demand above that is held to its share of the demand (log 14). -/
def rampLoop (s : State) (demand : Nat) : State :=
  let p := s.pwr
  let base := if p.rampLim < 16 ∧ p.effLim = p.rampLim then max p.draw p.rampW else p.draw
  let may := base + 5 * bits (regAt s 0x4000050C 0x321414) 0 8 / 2
  updPwr s fun p =>
    if s.mod.st = .run ∧ may < demand then { p with rampLim := max 1 (16 * may / demand), rampW := may } else { p with rampLim := 16, rampW := p.draw }

/-- The burn load of the coming cycle (16 R406): in Run, no shed, no fall of the cap nor fault since the last one, a demand that falls faster than ramp_down,
below the floor and the cap. -/
def burnLoop (s : State) (demand : Nat) : State :=
  let r := regAt s 0x4000050C 0x321414
  let floor := bits r 16 7 * sustained s / 100
  let fast := decide (demand + 10 * bits r 8 8 / 4 < s.pwr.draw)
  updPwr s fun p => { p with
    burn := decide (s.mod.st = .run) && !p.shed && !p.noBurn && fast && decide (demand < floor ∧ demand < (capNow s).1), noBurn := false }

/-- Adaptive voltage: each setpoint moves by at most 5 mV toward the lowest value with 5 % margin (16 R408). -/
def voltageLoop (s : State) (want : List Int) : State :=
  updPwr s fun p => { p with supply := (enum want).foldl (fun t e =>
    Tab.upd 0 t e.1 fun v => v + max (-5) (min 5 (e.2 - v))) p.supply }

/-- The causes that the draw ends: cap_step and cap_overrun while it is at or below the cap (log 14). -/
def capCauses (s : State) : State :=
  if s.pwr.draw ≤ (capNow s).1 ∧ (s.pwr.causes.contains 1 ∨ s.pwr.causes.contains 2) then dropCause (dropCause s 1) 2 else s

end Sys2Proof.Machine
end

