-- ==== Sys2Proof/Machine/Plan.lean ====
section
/-! DEFINITION. The cable plan: its layout, its checks, its commands (13 R324 to R329), and the plan check of a partner (R332 to R335). -/

namespace Sys2Proof.Machine

-- The layout (13 R324)

/-- The 2,112 bytes before the trailer. -/
def planBody (p : Plan) : List Byte :=
  leBytes 2 1 ++ leBytes 1 p.plane ++ leBytes 1 p.rackPos ++
  leBytes 4 (fields ((enum p.widths).map fun w => (2 * w.1, 2, w.2))) ++ leBytes 2 (p.widths.map portsPer).sum ++
  leBytes 2 p.edits ++ leBytes 4 0 ++ leBytes 8 p.planId ++ List.replicate 40 0 ++
  p.entries.flatMap fun e => leBytes 2 e.epa ++ leBytes 1 e.state ++ leBytes 1 e.partnerPort ++ leBytes 4 0

/-- The plan as it stands in the store, 2,120 bytes. -/
def planBytes (p : Plan) : List Byte := planBody p ++ leBytes 8 (crc64 (planBody p))

/-- The plan that a header and entries spell. -/
def planOf (bs : List Byte) : Plan :=
  { plane := getLe bs 2 1, rackPos := getLe bs 3 1, widths := (List.range 16).map fun k => bits (getLe bs 4 4) (2 * k) 2,
    edits := getLe bs 10 2, planId := getLe bs 16 8,
    entries := (List.range 256).map fun i =>
      { epa := getLe bs (64 + 8 * i) 2, state := getLe bs (66 + 8 * i) 1, partnerPort := getLe bs (67 + 8 * i) 1 } }

/-- The chiplet of a port under a list of widths (12 R297). -/
def planChip : List Nat → Nat → Nat → Nat
  | [], k, _ => k
  | w :: ws, k, p => if p < portsPer w then k else planChip ws (k + 1) (p - portsPer w)

/-- 02 R29 on the planned and vacant entries: an EPA of kind 0 on one port, or on two x2 ports of one chiplet. -/
def planUnique (p : Plan) : Bool :=
  let named := (enum p.entries).filter fun e => decide (e.2.state ≠ 0)
  named.all fun a =>
    let same := named.filter fun b => decide (b.2.epa = a.2.epa)
    isAccel a.2.epa && (decide (same.length = 1) || (decide (same.length = 2) && same.all fun b =>
      decide (planChip p.widths 0 b.1 = planChip p.widths 0 a.1) && decide ((p.widths[planChip p.widths 0 b.1]?).getD 0 = 0)))

/-- The conditions of 13 R325 on bytes for a module. -/
def planOk (s : State) (bs : List Byte) : Bool :=
  let p := planOf bs
  let ports := (p.widths.map portsPer).sum
  decide (bs.length = 2120) && decide (getLe bs 2112 8 = crc64 (bs.take 2112)) &&
  decide (getLe bs 0 2 = 1 ∧ p.plane = s.mod.plane ∧ p.rackPos = s.mod.rackPos ∧ getLe bs 8 2 = ports) &&
  (slice bs 12 4 ++ slice bs 24 40).all (fun b => decide (b = 0)) && p.widths.all (fun w => decide (w < 3)) &&
  ((enum p.entries).all fun e =>
    decide (getLe bs (68 + 8 * e.1) 4 = 0 ∧ e.2.state < 3) &&
    (decide (e.1 < ports ∧ e.2.state ≠ 0) || decide (e.2 = {}))) && planUnique p

-- Commands (13 R328, R329)

/-- Whether the ports of the module have begun their hitch. -/
def hitching (s : State) : Bool := decide (s.mod.st ≠ .setup) || s.mod.start.checkDone

/-- Restart a port by command where ports hitch. -/
def restartAt (s : State) (p : Nat) : State := if hitching s && portExists s p then restartPort s p else s

/-- PLAN_INSTALL (13 R325, R329): in Setup every port restarts its hitch. -/
def planInstall (tag : Nat) (own : List Byte) (s : State) : State × Option Reply :=
  let bs := bulkOf s tag own
  if bs.isEmpty || !planOk s bs then fail s .badParam
  else
    let s := updNv s fun nv => { nv with plan := some (planOf bs) }
    answer (if s.mod.st = .setup then (allPorts s).foldl restartAt s else s) (rep .ok)

def execPlanInstall (tag : Nat) (plan : List Byte) (s : State) : Host.Outcome State Fault Refusal :=
  lonusCmd tag 0x0730 [] s (planInstall tag plan)

/-- PLAN_EDIT (13 R329): the entry's state alone, and edits; the port leaves Up and restarts. -/
def planEdit (port state : Nat) (s : State) : State × Option Reply :=
  match s.nv.plan with
  | none => fail s .badParam
  | some p =>
    match p.entries[port]? with
    | none => fail s .badParam
    | some e =>
      if ¬ within 1 state 2 ∨ e.state = 0 then fail s .badParam
      else if e.state = 1 ∧ state = 2 ∧ (blockOfEpa s e.epa).isSome then fail s .badState
      else
        let p' := { p with entries := p.entries.set port { e with state := state }, edits := (p.edits + 1) % 65536 }
        answer (restartAt (updNv s fun nv => { nv with plan := some p' }) port) (rep .ok)

def execPlanEdit (tag port state : Nat) (s : State) : Host.Outcome State Fault Refusal := lonusCmd tag 0x0731 [(2, port), (2, state)] s (planEdit port state)

/-- PLAN_READ (13 R328). -/
def execPlanRead (tag : Nat) (s : State) : Host.Outcome State Fault Refusal :=
  lonusCmd tag 0x0732 [] s fun s =>
    match s.nv.plan with
    | some p => answer s (okBulk (planBytes p))
    | none => fail s .notFound

-- The plan check (13 R332)

/-- An identity message's fields (13, table "Identity message"). -/
structure Ident where
  flags  : Nat
  major  : Nat
  minor  : Nat
  epa    : Nat
  port   : Nat
  serial : Nat
  width  : Nat
  dwell  : Nat
  deriving DecidableEq, Repr

/-- The identity message that 64 bytes spell; none where the CRC fails or msg_type is not 1 (13 R330). -/
def identOf (m : List Byte) : Option Ident :=
  if m.length = 64 ∧ getLe m 0 1 = 1 ∧ getLe m 56 8 = crc64 (m.take 56) then
    some { flags := getLe m 1 1, major := getLe m 2 1, minor := getLe m 3 1, epa := getLe m 4 2, port := getLe m 6 2,
           serial := getLe m 8 8, width := bits (getLe m 17 1) 0 2, dwell := getLe m 18 2 }
  else none

/-- The result of the plan check, coded as HUB_PLAN_STAT.check: the first row of 13 R332 that applies. -/
def planCheck (s : State) (p : Nat) (i : Ident) : Nat :=
  match planEntry s p with
  | none => 8
  | some e =>
    if bit i.epa 15 then 5
    else if i.major ≠ ownMajor s then 6
    else if i.width ≠ portW s p then 7
    else if e.state = 0 then 3
    else if e.state = 2 then 4
    else if i.epa ≠ e.epa ∨ i.port ≠ e.partnerPort then 2
    else 1

/-- The ports in Quarantine with MISMATCH. -/
def mismatched (s : State) : List Nat :=
  (allPorts s).filter fun q => decide ((portOf s q).stage = .quarantine ∧ (portOf s q).check = 2)

/-- The planned partner EPA of a port's entry, 65,536 for none. -/
def wantEpa (s : State) (p : Nat) : Nat := (plannedEpa s p).getD 65536

/-- LIKELY_SWAP for each pair that a newly quarantined port forms, within its die first (13 R334). -/
def swapCheck (s : State) (p : Nat) : State :=
  let others := (mismatched s).filter fun q => decide (q ≠ p)
  let order := (others.filter fun q => decide (dieOf s q = dieOf s p)) ++ others.filter fun q => decide (dieOf s q ≠ dieOf s p)
  order.foldl (fun s q =>
    if (portOf s q).pEpa = wantEpa s p ∧ (portOf s p).pEpa = wantEpa s q then
      emit (updPort (updPort s q fun x => { x with paired := true }) p fun x => { x with paired := true })
        evLikelySwap [q, p, (portOf s q).pEpa, (portOf s p).pEpa]
    else s) s

/-- A port enters Quarantine with the result of its check (13 R332 to R334). -/
def quarantine (s : State) (p : Nat) (i : Ident) (res : Nat) : State :=
  let s := updPort s p fun q => { q with stage := .quarantine, since := s.now, check := res, minor := 0, discarded := 0 }
  let s := emit s evQuarantine [p, res, i.epa, i.port, i.serial]
  if res = 2 then swapCheck s p else s

/-- The port that another entry plans for a mismatched partner, by EPA and port number before EPA alone (13 R334). -/
def expectedPort (s : State) (p : Nat) : Option Nat :=
  let e := (portOf s p).pEpa
  let c := (plannedPorts s).filter fun q => decide (q ≠ p ∧ plannedEpa s q = some e)
  match c.find? fun q => decide (((planEntry s q).map PlanEntry.partnerPort) = some (portOf s p).pPort) with
  | some q => some q
  | none => c.head?

/-- PORT_MISPLACED (13 R334): once the expected port has completed its check unpaired, or 1 s after Quarantine began. -/
def portMisplaced (s : State) (p : Nat) : State :=
  let q := portOf s p
  if q.stage = .quarantine ∧ q.check = 2 ∧ ¬ q.paired ∧ ¬ q.misSent then
    match expectedPort s p with
    | none => s
    | some x =>
      let s := if (portOf s x).check ≠ 0 then s else waitUntil s (q.since + 1000000000)
      emit (updPort s p fun q => { q with misSent := true }) evMisplaced [p, x]
  else s

def execPortMisplaced (port : Nat) (s : State) : Host.Outcome State Fault Refusal :=
  onUnit (portExists s port) s fun s => portMisplaced s port

end Sys2Proof.Machine
end

