-- ==== Sys2Proof/Machine/Hitch.lean ====
section
/-! DEFINITION. The hitch and what ends it (12 R305 to R315): training frames, stages, failures and Listen, identity and timing messages,
departures from Up, electrical idle. What only the analog front end decides is an operand of the row or a free value (log 15). -/

namespace Sys2Proof.Machine

-- Training frames (12 R306, R307)

/-- The transmit presets (12, table "Transmit presets"). -/
def presets : List (List Int) :=
  [[0, 0, 64, 0, 0, 0], [0, -4, 60, 0, 0, 0], [0, -8, 56, 0, 0, 0], [0, 0, 56, -8, 0, 0],
   [0, -4, 52, -8, 0, 0], [2, -8, 46, -8, 0, 0], [0, -8, 44, -12, 0, 0], [2, -10, 40, -10, 2, 0]]

/-- The limits of the taps (12 R306). -/
def tapsOk (t : List Int) : Bool :=
  let v := fun (i : Nat) => ((t[i]?).getD 0 : Int)
  let a := fun (i : Nat) => (v i).natAbs
  decide (a 0 ≤ 8 ∧ a 1 ≤ 24 ∧ a 3 ≤ 24 ∧ a 4 ≤ 8 ∧ a 5 ≤ 8 ∧ 24 ≤ v 2 ∧ v 2 ≤ 64 ∧ (t.map Int.natAbs).sum ≤ 64)

/-- One tap's request (1 increment, 2 decrement): applied once until the requester holds; a limit leaves the tap and reports its end (12 R306). -/
def tapStep (x : Lane) (i req : Nat) : Lane :=
  if req = 1 ∨ req = 2 then
    if (x.tapStat[i]?).getD 0 ≠ 0 then x
    else
      let t := x.taps.set i ((x.taps[i]?).getD 0 + if req = 1 then 1 else -1)
      if tapsOk t then { x with taps := t, tapStat := x.tapStat.set i 1 } else { x with tapStat := x.tapStat.set i (if req = 1 then 3 else 2) }
  else { x with tapStat := x.tapStat.set i 0 }

/-- A control field's preset or tap requests on a lane's transmitter (12 R307). -/
def tapsAsk (x : Lane) (c : Nat) : Lane :=
  if bit c 12 then { x with taps := (presets[bits c 9 3]?).getD x.taps, tapStat := [0, 0, 0, 0, 0, 0] }
  else (List.range 6).foldl (fun x i => tapStep x i (bits c (13 + 2 * i) 2)) x

/-- Whether every lane of a port has at least 16 counted frames (12 R308). -/
def framesDone (s : State) (p : Nat) : Bool :=
  (List.range (lanesPer (portW s p))).all fun m => decide (16 ≤ Tab.get 0 (portOf s p).frames m)

/-- Enter a hitch stage. -/
def enterStage (s : State) (p : Nat) (st : Stage) : State :=
  updPort (lineFill s p) p fun q => { q with stage := st, since := s.now, frames := [] }

/-- Count a frame of lane index `m`, or break its run. -/
def countFrame (s : State) (p m : Nat) (good : Bool) : State :=
  updPort s p fun q => { q with frames := Tab.set 0 q.frames m (if good then Tab.get 0 q.frames m + 1 else 0) }

/-- Draw free values in a range for the lanes of a port (log 15). -/
def drawLanes (s : State) (p n : Nat) (f : Lane → Nat → Lane) : State :=
  (lanesOf s p).foldl (fun s l => let (k, s) := draw s; updLane s l fun x => f x (Config.freeWord k % n)) s

/-- A frame in Detect: it locks the lane and sets its polarity; 16 on every lane end the stage. -/
def detectFrame (s : State) (p l m : Nat) (inverted : Bool) : State :=
  let s := countFrame (updLane s l fun x => { x with signal := true, cdr := true, polInv := inverted }) p m true
  if framesDone s p then enterStage s p .sound else s

/-- The module's own side of the handshake (12 R306, R307): a tap that the partner reports returns to hold; a tap at rest may be asked for again, freely,
until the error ratio is low; then the lane is ready (log 15). -/
def ownAsk (x : Lane) (c k : Nat) (low : Bool) : Lane :=
  let ask := (List.range 6).map fun i =>
    let a := (x.ask[i]?).getD 0
    let st := bits c (25 + 2 * i) 2
    if a ≠ 0 then (if st = 0 then a else 0) else if st ≠ 0 ∨ low then 0 else Config.freeWord (k + i) % 3
  { x with ask := ask, ready := low && ask.all fun a => decide (a = 0) }

/-- A frame in Sound: requests are applied and made; when both ends have sent ready on every lane for 16 frames the stage ends, and the equaliser has
settled. A partner that has gone on to Align was ready. -/
def soundFrame (s : State) (p l m c : Nat) (errorsLow : Bool) : State :=
  let k := s.freeCtr
  let s := updLane { s with freeCtr := k + 6 } l fun x => ownAsk (tapsAsk x c) c k errorsLow
  let s := countFrame s p m ((bit c 8 || decide (bits c 0 8 = 3)) && (laneOf s l).ready)
  if framesDone s p then alignStart (drawLanes (enterStage s p .align) p 49 fun x v => { x with ctle := v }) p else s

/-- A partner's training frames end Up, and restart what is past Detect at Detect, without a count or a back-off (12 R310, R312, 13 R333). -/
def partnerRestart (s : State) (p : Nat) : State :=
  match (portOf s p).stage with
  | .up => portDown s p 3
  | .sound | .align | .identify | .verify | .quarantine => startHitch s p
  | _ => s

/-- A valid training frame on lane index `m` (12 R307, R308). -/
def validFrame (s0 : State) (p m c : Nat) (inverted errorsLow : Bool) : State :=
  let s := lineFill s0 p
  let l := ((lanesOf s p)[m]?).getD 0
  match (portOf s p).stage with
  | .detect => detectFrame (updLane s l fun x => { x with rxLane := bits c 107 4 }) p l m inverted
  | .sound => if bits c 0 8 = 1 then partnerRestart s p else soundFrame s p l m c errorsLow
  | .align =>
    if bits c 0 8 = 1 then partnerRestart s p
    else if bits c 0 8 = 3 then updLane s l fun x => { x with seed := bits c 37 58, count := bits c 95 12, rxLane := bits c 107 4 }
    else s
  | .up => partnerRestart s p
  | _ => if bits c 0 8 = 1 then partnerRestart s p else s

/-- TRAINING_FRAME (12 R307): a frame whose CRC-16 fails is ignored, and so is one whose stage is none of the three. -/
def trainingFrame (s : State) (p m c : Nat) (inverted errorsLow : Bool) : State :=
  if !dpRuns s || decide (lanesPer (portW s p) ≤ m) then s
  else if bits c 112 16 = crc16 c 112 ∧ 1 ≤ bits c 0 8 ∧ bits c 0 8 ≤ 3 then validFrame s p m c inverted errorsLow
  else s

def execTrainingFrame (port lane : Nat) (bits : BitVec 128) (inverted errorsLow : Bool) (s : State) : Host.Outcome State Fault Refusal :=
  onUnit (portExists s port) s fun s => trainingFrame s port lane bits.toNat inverted errorsLow

-- Failure, back-off, Listen (12 R310, R311)

/-- The timeout of a stage in ns; none for a stage that cannot fail. -/
def stageLimit : Stage → Option Nat
  | .detect | .align => some 10000000
  | .sound => some 100000000
  | .identify => some 1000000
  | .verify => some 5000000
  | _ => none

/-- A stage of a port fails: back-off, or Listen at listen_after failures. -/
def stageFail (s : State) (p cause : Nat) : State :=
  let q := portOf s p
  let f := q.failures + 1
  let ctl := linkCtl s (dieOf s p)
  let s := updPort (lineFill s p) p fun q => { q with failures := f, failStage := stageCode q.stage, failCause := cause, txIdle := true, since := s.now }
  if bits ctl 0 4 ≤ f then emit (updPort s p fun q => { q with stage := .listen, beacons := 0 }) evLinkListen [p]
  else updPort s p fun q => { q with stage := .backoff, backoff := s.now + 1000000 * 2 ^ (min (f - 1) (bits ctl 4 4)) }

/-- A lane that has lost its swing. -/
def laneDark (x : Lane) : Lane := { x with signal := false, cdr := false, cw := false }

/-- Swing is lost on some lanes of a port, one at least; on which is free (log 15). -/
def swingGone (s : State) (p : Nat) : State :=
  let (k, s) := draw s
  let ls := lanesOf s p
  let s := updLane s ((ls[Config.freeWord k % max 1 ls.length]?).getD 0) laneDark
  drawLanes s p 2 fun x v => if v = 0 then laneDark x else x

/-- HITCH_STAGE_TIMEOUT (12 R310): at the stage's limit, or on a swing lost after Detect; in Detect a lost swing fails nothing. -/
def stageTimeout (s : State) (p : Nat) (swingLost : Bool) : State :=
  match stageLimit (portOf s p).stage with
  | none => s
  | some t =>
    if swingLost then (if (portOf s p).stage = .detect then swingGone s p else stageFail (swingGone s p) p 2)
    else stageFail (waitUntil s ((portOf s p).since + t)) p 1

def execHitchStageTimeout (port : Nat) (swingLost : Bool) (s : State) : Host.Outcome State Fault Refusal :=
  onUnit (portExists s port) s fun s => stageTimeout s port swingLost

/-- BACK_OFF_END (12 R310). -/
def backOffEnd (s : State) (p : Nat) : State :=
  if (portOf s p).stage = .backoff then startHitch (waitUntil s (portOf s p).backoff) p else s

def execBackOffEnd (port : Nat) (s : State) : Host.Outcome State Fault Refusal :=
  onUnit (portExists s port) s fun s => backOffEnd s port

/-- LISTEN_BEACON (12 R311): 1 ms of frames from the start of each second, after which the transmitter idles again. -/
def listenBeacon (s : State) (p : Nat) : State :=
  let q := portOf s p
  if q.stage = .listen then
    beaconLine (waitUntil (updPort s p fun q => { q with beacons := q.beacons + 1 }) (q.since + 1000000000 * q.beacons)) p
  else s

def execListenBeacon (port : Nat) (s : State) : Host.Outcome State Fault Refusal :=
  onUnit (portExists s port) s fun s => listenBeacon s port

/-- Swing is there on every lane of a port, or on none. -/
def lanesSignal (s : State) (p : Nat) (v : Bool) : State :=
  (lanesOf s p).foldl (fun s l => updLane s l fun x => { x with signal := v }) s

/-- LISTEN_SWING_SEEN (12 R311). -/
def listenSwing (s : State) (p : Nat) : State :=
  if (portOf s p).stage = .listen then startHitch (lanesSignal (updPort s p fun q => { q with failures := 0 }) p true) p else s

def execListenSwingSeen (port : Nat) (s : State) : Host.Outcome State Fault Refusal :=
  onUnit (portExists s port) s fun s => listenSwing s port

/-- BIT_SLIP_SEARCH (12 R316): 2 ms into Align a lane without a codeword boundary is stepped to the position found. -/
def bitSlipSearch (s : State) (l : Nat) (found : Option Nat) : State :=
  let p := portOfLane s l
  if (portOf s p).stage = .align ∧ ¬ (laneOf s l).cw then
    let s := waitUntil s ((portOf s p).since + 2000000)
    match found with
    | some k => updLane s l fun x => { x with slip := (x.slip + k) % 2720, cw := true }
    | none => s
  else s

def execBitSlipSearch (lane : Nat) (found : Option Nat) (s : State) : Host.Outcome State Fault Refusal :=
  onUnit (decide (lane < 512)) s fun s => bitSlipSearch s lane found

/-- Whether the partner's Align frames have come on every lane, and its lanes are told apart (12 R308). -/
def lanesOrdered (s : State) (p : Nat) : Bool :=
  let ls := (lanesOf s p).map (laneOf s)
  (ls.all fun x => decide (x.seed ≠ 0 ∧ x.rxLane < ls.length)) && decide (ls.map Lane.rxLane).Nodup

/-- ALIGN_EXIT (12 R308): 64 IDLE rounds with codeword lock on every lane, skew to the earliest lane of at most 100 ns (R321). -/
def alignExit (s : State) (p : Nat) : State :=
  if (portOf s p).stage = .align ∧ lanesOrdered s p then
    let s := drawLanes (enterStage s p .identify) p 101 fun x v => { x with cw := true, skew := v }
    let least := (minBy (fun (n : Nat) => (n : Int)) ((lanesOf s p).map fun l => (laneOf s l).skew)).getD 0
    (lanesOf s p).foldl (fun s l => updLane s l fun x => { x with skew := x.skew - least }) s
  else s

def execAlignExit (port : Nat) (s : State) : Host.Outcome State Fault Refusal :=
  onUnit (portExists s port) s fun s => alignExit s port

-- Identify and Verify (13 R330 to R339)

/-- Record result 3, partner unable, for a port and take it out of the run (13 R335, R336). -/
def certUnable (s : State) (p : Nat) : State :=
  { updPort s p fun q => { q with cert := 0 } with
    cert := Tab.set {} s.cert p { result := 3, mode := 0, at_ := s.now },
    certRuns := s.certRuns.map fun r => if r.mode = 0 then { r with ports := r.ports.filter fun x => decide (x ≠ p) } else r }

/-- The partner's answer to a PRBS31 request: granted by cert_ack with the same dwell, else the partner is unable (13 R336). -/
def certAnswer (s : State) (p : Nat) (i : Ident) : State :=
  if (portOf s p).cert = 1 then
    if 2 ≤ i.minor ∧ bit i.flags 2 ∧ i.dwell = (portOf s p).certDwell then updPort s p fun q => { q with cert := 2 } else certUnable s p
  else s

/-- Enter Verify: the first timing message, the plan check (13 R332, R339). -/
def enterVerify (s : State) (p : Nat) (i : Ident) : State :=
  let s := certAnswer (sendTiming (enterStage s p .verify) p) p i
  let r := planCheck s p i
  if r = 1 then updPort s p fun q => { q with check := 1, minor := min i.minor (ownMinor s) } else quarantine s p i r

/-- One round with the module's identity message. -/
def sendIdentity (s : State) (p : Nat) : State := updTx s p fun c t => txPut c { kind := 2, bytes := ownIdentity s p } t

/-- IDENTITY_MESSAGE (13 R330): in Identify it is recorded and acknowledged; with the partner's ack, and its own ack sent, the stage ends. -/
def identityMessage (s : State) (p : Nat) (m : List Byte) : State :=
  match identOf m with
  | none => s
  | some i =>
    let note := fun (q : Port) => { q with pEpa := i.epa, pPort := i.port, pSerial := i.serial, gotId := true, acked := bit i.flags 0 }
    match (portOf s p).stage with
    | .identify =>
      let s := updPort (lineFill s p) p note
      if bit i.flags 0 then enterVerify (sendIdentity s p) p i else s
    | .verify => updPort s p note
    | _ => s

def execIdentityMessage (port : Nat) (msg : List Byte) (s : State) : Host.Outcome State Fault Refusal :=
  onUnit (portExists s port) s fun s => identityMessage s port msg

/-- A median of numbers counted in units of 1/`u`: exact where the two middle elements agree and it is whole, otherwise a free value between
them (13 R339, R341 state neither rounding nor the median of an even count; log 19). -/
def medianIn (s : State) (u : Nat) (l : List Int) : Int × State :=
  let t := sortBy (fun a b => decide (a ≤ b)) l
  let a := (t[(t.length - 1) / 2]?).getD 0
  let b := (t[t.length / 2]?).getD 0
  let lo := a / u
  let hi := -((-b) / u)
  if hi ≤ lo then (lo, s)
  else
    let (k, s) := draw s
    (lo + ((Config.freeWord k % ((hi - lo).toNat + 1) : Nat) : Int), s)

/-- TIMING_MESSAGE (13 R339): eight exchanges in Verify give the link delay; the message is echoed in the next one sent. -/
def timingMessage (s : State) (p : Nat) (m : List Byte) (rx : Nat) : State :=
  if m.length = 64 ∧ getLe m 0 1 = 2 ∧ getLe m 56 8 = crc64 (m.take 56) ∧ (portOf s p).stage = .verify then
    let t1 := getLe m 16 8
    let t2 := getLe m 24 8
    let t3 := getLe m 8 8
    let s := sendTiming (updPort s p fun q => { q with lastT := some (t3, rx) }) p
    if t1 = 0 ∨ 8 ≤ (portOf s p).samples.length then s
    else
      let d : Int := ((rx : Int) - t1) - ((t3 : Int) - t2)
      let s := updPort s p fun q => { q with samples := q.samples ++ [d] }
      if (portOf s p).samples.length = 8 then
        let (v, s) := medianIn s 2 (portOf s p).samples
        updPort s p fun q => { q with delay := v.toNat }
      else s
  else s

def execTimingMessage (port : Nat) (msg : List Byte) (rxAxle : U64) (s : State) : Host.Outcome State Fault Refusal :=
  onUnit (portExists s port) s fun s => timingMessage s port msg rxAxle.toNat

/-- Start a lane's generator or checker; its counters are cleared (12 R317). -/
def prbsBegin (s : State) (l pattern : Nat) (gen chk : Bool) : State :=
  let s := if gen then genStop s l else s
  updLane s l fun x => { x with
    gen := if gen then some pattern else x.gen, genAt := if gen then s.now else x.genAt, chk := if chk then some pattern else x.chk,
    lock := false, bits := 0, bitErr := 0, symErr := 0 }

/-- Start PRBS31 on every lane of a port whose certification was granted (13 R336): the port stays in stage disabled, for dwell_s seconds from here. The
run ends with its last port. -/
def certPrbs (s : State) (p : Nat) : State :=
  let t := s.now + 1000000000 * (portOf s p).certDwell
  let s := updPort (lineFill s p) p fun q => { q with stage := .disabled, cert := 3, since := s.now, certEnd := t }
  let s := { s with certRuns := s.certRuns.map fun r => if r.mode = 0 ∧ p ∈ r.ports then { r with endAt := max r.endAt t } else r }
  (lanesOf s p).foldl (fun s l => prbsBegin s l 2 true true) s

/-- A verified port comes Up (12 R308). -/
def comeUp (s : State) (p : Nat) : State :=
  let s := updPort s p fun q => { q with stage := .up, failures := 0, ups := min 255 (q.ups + 1), since := s.now, ueTimes := [] }
  let s := { s with axle := { s.axle with firstUp := some (s.axle.firstUp.getD s.now) } }
  emit s evLinkUp [p]

/-- Count corrected symbols of a port in its lanes: the split over the lanes is free, the sum is not (12 R305; log 15). -/
def countCe (s : State) (n : Nat) : List Nat → State
  | [] => s
  | [l] => updLane s l fun x => { x with ce := satAdd 32 x.ce n }
  | l :: ls =>
    let (k, s) := draw s
    let c := Config.freeWord k % (n + 1)
    countCe (updLane s l fun x => { x with ce := satAdd 32 x.ce c }) (n - c) ls

/-- VERIFY_END (12 R308, 13 R336): the port comes Up where its plan check and error count passed and no flush is in progress. -/
def verifyEnd (s : State) (p ue ce rx : Nat) : State :=
  if (portOf s p).stage = .verify then
    let s := countCe (waitUntil s ((portOf s p).since + 1000000)) ce (lanesOf s p)
    if (portOf s p).check = 1 ∧ ue = 0 ∧ ce * 100000 ≤ rx ∧ ¬ (portOf s p).flushing then
      (if (portOf s p).cert = 2 then certPrbs s p else comeUp s p)
    else s
  else s

def execVerifyEnd (port uncorrectable corrected received : Nat) (s : State) : Host.Outcome State Fault Refusal :=
  onUnit (portExists s port) s fun s => verifyEnd s port uncorrectable corrected received

-- Uncorrectable rounds, departures, idle (12 R305, R312 to R315)

/-- A port fails in the certification runs of a mode that it is part of (13 R336, R337). -/
def certSpoil (s : State) (p mode : Nat) : State :=
  { s with certRuns := s.certRuns.map fun r => if r.mode = mode ∧ p ∈ r.ports then { r with bad := r.bad ++ [p] } else r }

/-- A packet with a byte in an uncorrectable round (12 R305): as one that failed its trailer. -/
def lostPacket (port : Nat) (s : State) (p : Packet) : State :=
  let s := countArrival s port p
  if replayMutes s port then liveSeen s port p true else crcFailed s port p

/-- An uncorrectable round (12 R305, R312): `lanes` are the lane indices that caused it, `headers` the packets with a byte in it whose header the port
holds; a port under FEC certification has failed (13 R337). -/
def uncorrectable (s : State) (p : Nat) (lanes : List Nat) (headers : List Packet) : State :=
  let own := (enum (lanesOf s p)).filter fun x => lanes.contains x.1
  let s := own.foldl (fun s x => updLane s x.2 fun y => { y with ue := satInc 32 y.ue }) s
  if (portOf s p).stage = .up then
    let s := certSpoil s p 1
    let s := if receives s p then headers.foldl (lostPacket p) s else s
    let ts := ((portOf s p).ueTimes.filter fun t => decide (s.now < t + 10000000)) ++ [s.now]
    let s := updPort s p fun q => { q with dropStream := true, ueTimes := ts }
    if bits (linkCtl s (dieOf s p)) 8 8 ≤ ts.length then portDown s p 4 else s
  else s

/-- A round that no packet row brings counts in Quarantine where its first readable header names DATA (13 R333). -/
def quarRound (s : State) (p : Nat) (ws : List (List Nat)) : State :=
  if (portOf s p).stage = .quarantine ∧ (ws.findSome? cwRead).any fun x => decide (bits x.2.1 0 3 = 0) then
    updPort s p fun q => { q with discarded := min 15 (q.discarded + 1) }
  else s

/-- A round as its codewords come, lane index by lane index (12 R305): every codeword is decoded and its corrected symbols count; the round is uncorrectable
by what `badLanes` finds. -/
def roundTaken (s : State) (p : Nat) (ws : List (List Nat)) (headers : List Packet) : State :=
  let s := (enum (lanesOf s p)).foldl (fun s e =>
    match (ws[e.1]?).bind cwRead with
    | some x => updLane s e.2 fun y => { y with ce := satAdd 32 y.ce x.1 }
    | none => s) s
  if (badLanes ws).isEmpty then s else uncorrectable (quarRound s p ws) p (badLanes ws) headers

/-- UNCORRECTABLE_ROUND (12 R305). -/
def execUncorrectableRound (port : Nat) (words : List (List Nat)) (headers : List Packet) (s : State) : Host.Outcome State Fault Refusal :=
  onUnit (portExists s port) s fun s => if dpRuns s then roundTaken s port words headers else s

/-- Clock or codeword lock is lost on some lanes of a port; on which is free (log 15). -/
def lockGone (s : State) (p : Nat) : State :=
  drawLanes s p 4 fun x v => { x with cdr := x.cdr && bit v 0, cw := x.cw && bit v 1 }

/-- STREAM_RESUME (12 R305). -/
def execStreamResume (port : Nat) (s : State) : Host.Outcome State Fault Refusal :=
  onUnit (portExists s port) s fun s => updPort s port fun q => { q with dropStream := false }

/-- LINK_DOWN (12 R312, 13 R333): swing, frames, the uncorrectable limit or lock; a port in Quarantine restarts at once. Swing lost after ENTER_IDLE takes
no port down. -/
def linkDown (s0 : State) (p cause : Nat) : State :=
  if within 2 cause 5 ∧ ¬ (cause = 2 ∧ (portOf s0 p).rxIdle) then
    let s := if cause = 2 then swingGone s0 p else if cause = 5 then lockGone s0 p else s0
    (match (portOf s p).stage with
     | .up => portDown s p cause
     | .quarantine => if cause = 4 then s else startHitch s p
     | _ => s)
  else s0

def execLinkDown (port cause : Nat) (s : State) : Host.Outcome State Fault Refusal :=
  onUnit (portExists s port) s fun s => linkDown s port cause

/-- Set the idle flag of a port's lanes; idle lanes have no swing. -/
def lanesIdle (s : State) (p : Nat) (v : Bool) : State :=
  (lanesOf s p).foldl (fun s l => updLane s l fun x => { x with idle := v, signal := !v }) s

/-- ENTER_IDLE (12 R314). -/
def enterIdle (s : State) (p : Nat) : State :=
  if (portOf s p).stage = .up then lanesIdle (updPort s p fun q => { q with rxIdle := true, sawIdle := false }) p true else s

def execEnterIdle (port : Nat) (s : State) : Host.Outcome State Fault Refusal :=
  onUnit (portExists s port) s fun s => enterIdle s port

/-- IDLE_EXIT_BURST (12 R314): the marker ends the idle at the frozen state. -/
def idleExitBurst (s : State) (p : Nat) : State :=
  if (portOf s p).stage = .up ∧ (portOf s p).rxIdle then
    lanesIdle (updPort s p fun q => { q with rxIdle := false, sawIdle := true, idleAt := s.now }) p false
  else s

def execIdleExitBurst (port : Nat) (s : State) : Host.Outcome State Fault Refusal :=
  onUnit (portExists s port) s fun s => idleExitBurst s port

/-- IDLE_EXIT (12 R315): no marker within 500 ns of the swing, or an uncorrectable IDLE round of the exit, which ends 500 ns after the marker. -/
def idleExit (s : State) (p : Nat) : State :=
  let q := portOf s p
  if q.stage = .up ∧ (q.rxIdle ∨ (q.sawIdle ∧ s.now ≤ q.idleAt + 500)) then portDown s p 6 else s

def execIdleExit (port : Nat) (s : State) : Host.Outcome State Fault Refusal :=
  onUnit (portExists s port) s fun s => idleExit s port

end Sys2Proof.Machine
end

