-- ==== Sys2Proof/Machine/Axle.lean ====
section
/-! DEFINITION. The axle counter (13 R338 to R343): SYNC sent and received, the servo, lock and holdover. -/

namespace Sys2Proof.Machine

/-- The offset of a SYNC (13 R340): o = rx - (value + d). -/
def syncOffset (rx value d : Nat) : Int := (rx : Int) - ((value : Int) + d)

/-- The axle value that a SYNC carries (03 R57). -/
def syncValue (h : Header) : Nat := h.addr.toNat + h.step.toNat * 2 ^ 48

/-- A SYNC arrives (13 R340): an Up port computes its offset; a failed trailer is only counted (03 R60). It is not subject to 02 R45. -/
def syncArrival (s : State) (port : Nat) (p : Packet) (rx : Nat) : State :=
  if receives s port then
    let s := countArrival s port p
    if trailerOk p then
      let s := watchIngress s port p false none false
      updPort s port fun q => { q with syncOff := syncOffset rx (syncValue p.hdr) q.delay, syncAt := some s.now }
    else crcFailed s port p
  else quarantined s port (packetBytes p).length

def execSync (port : Nat) (p : Packet) (rxAxle : U64) (s : State) : Host.Outcome State Fault Refusal :=
  onUnit (portExists s port) s fun s => if p.hdr.typ.toNat = tSYNC then syncArrival s port p rxAxle.toNat else s

/-- The SYNC of a port (03 R57; its dst is the planned partner, log 19); the axle value enters as it is sent. -/
def syncPacket (s : State) (p : Nat) : Packet := mkPacket (ownHeader s (dieOf s p) tSYNC 3 ((plannedEpa s p).getD 0)) []

/-- A SYNC takes the way of every packet that the module originates: the local trunk and the crossbar (04 R87). -/
def syncEnter (s : State) (p : Nat) : State :=
  let (fl, s) := flightOf s (syncPacket s p) none 0xFFFF
  xInsert s (dieOf s p) (trunkInput s (dieOf s p) 3) true true fl [.port p] [p]

/-- SYNC_SEND (13 R340): every sync_us a locked module sends on every Up, verified port whose transmitter is not idle. -/
def syncSend (s : State) : State :=
  if s.axle.locked && dpRuns s then
    let s := waitUntil s (s.axle.lastSync + 1000 * syncUs s)
    let s := { s with axle := { s.axle with lastSync := s.now } }
    ((allPorts s).filter fun p => portOk s p && !(portOf s p).txIdle).foldl syncEnter s
  else s

def execSyncSend (s : State) : Host.Outcome State Fault Refusal := done s (syncSend s)

/-- The eligible ports (13 R341): Up and verified, with a SYNC within the last 64 µs. -/
def eligible (s : State) : List Nat :=
  (allPorts s).filter fun p => portOk s p && (match (portOf s p).syncAt with | some t => decide (s.now ≤ t + 64000) | none => false)

/-- Whether the module is the master and has locked once: it runs free from REFCLK (13 R338). -/
def runsFree (s : State) : Bool := decide (s.mod.plane = masterPlane s) && s.axle.everLock

/-- Correct the axle by a median offset (13 R338, R341): one step in Setup before the first lock, else a slew of at most 50 ppm, whose rate
is free (log 19), and which never runs backward: `dt` ns have passed. A master that has locked takes no correction. -/
def steer (s : State) (med : Int) (dt : Nat) : State :=
  let a := s.axle
  if runsFree s then { s with axle := { a with slew := 0 } }
  else if s.mod.st = .setup ∧ ¬ a.everLock ∧ 1000 < med.natAbs then
    { s with axle := { a with value := twos 64 ((a.value : Int) - med), slew := 0 } }
  else
    let m := min (min 3 med.natAbs) dt
    let (k, s) := draw s
    let v : Int := (Config.freeWord k % (m + 1) : Nat)
    let v := if 0 < med then -v else v
    { s with axle := { a with value := twos 64 ((a.value : Int) + v), slew := v } }

/-- Lock, unlock and the warm entry's wait, by the median of a period (13 R342). -/
def lockCheck (s : State) (med : Int) : State :=
  let a := s.axle
  let i := if med.natAbs ≤ 2 then a.inBand + 1 else 0
  let o := if 8 < med.natAbs then a.outBand + 1 else 0
  let lost := a.locked && decide (16 ≤ o)
  let lock := (a.locked && !lost) || decide (16 ≤ i)
  let s := { s with axle := { a with inBand := i, outBand := o, locked := lock, everLock := a.everLock || lock,
                                     warmWait := a.warmWait && decide (i < 16) } }
  if lost then emit s evAxleUnlock [] else s

/-- Without an eligible port the axle keeps its last frequency: the last correction, over `dt` ns, and never backward (13 R342); a master that runs free
has none (13 R338). -/
def coast (s : State) (dt : Nat) : Axle :=
  let slew := if runsFree s then 0 else s.axle.slew
  { s.axle with slew := slew, value := twos 64 ((s.axle.value : Int) + max slew (-(dt : Int))) }

/-- AXLE_SERVO (13 R341, R342), at the next multiple of 64 µs of the time base. -/
def servo (s0 : State) : State :=
  if !alive s0 then s0
  else
    let dt := 64000 - s0.now % 64000
    let s := elapse s0 dt
    match eligible s with
    | [] =>
      let a := coast s dt
      let out := decide (a.lastElig + 1000000 ≤ s.now) && !a.holdover
      let s := { s with axle := { a with eligible := 0, inBand := 0, outBand := 0, holdover := a.holdover || out } }
      if out then emit s evAxleHoldover [] else s
    | ps =>
      let (med, s) := medianIn s 1 (ps.map fun p => (portOf s p).syncOff)
      let s := { s with axle := { s.axle with eligible := ps.length, median := med, holdover := false, lastElig := s.now } }
      lockCheck (steer s med dt) med

def execAxleServo (s : State) : Host.Outcome State Fault Refusal := done s (servo s)

/-- MASTER_SELF_LOCK (13 R343): 10 ms after the master's first port came Up, with no port eligible since. -/
def selfLock (s : State) : State :=
  match s.axle.firstUp with
  | some t =>
    if s.mod.plane = masterPlane s ∧ ¬ s.axle.locked ∧ s.axle.lastElig < t ∧ eligible s = [] then
      let s := waitUntil s (t + 10000000)
      { s with axle := { s.axle with locked := true, everLock := true } }
    else s
  | none => s

def execMasterSelfLock (s : State) : Host.Outcome State Fault Refusal := done s (selfLock s)

end Sys2Proof.Machine
end

