-- ==== Sys2Proof/Machine/Lanes.lean ====
section
/-! DEFINITION. Link and lane commands, PRBS, error injection, eye scans (12 R313, R316 to R320), certification (13 R336, R337). -/

namespace Sys2Proof.Machine

-- Link commands (12 R320)

/-- Run a link command on a port that the configured widths have. -/
def onPortCmd (tag op port : Nat) (s : State) (f : State → State × Option Reply) : Host.Outcome State Fault Refusal :=
  lonusCmd tag op [(2, port)] s fun s => if portExists s port then f s else fail s .badParam

/-- LINK_STATUS (12 R320). -/
def execLinkStatus (tag port : Nat) (s : State) : Host.Outcome State Fault Refusal :=
  onPortCmd tag 0x0701 port s fun s => answer s (okItems (words (hitchWord s port :: (lanesOf s port).map (laneWord s))))

/-- LINK_RESET (12 R308, R312). -/
def execLinkReset (tag port : Nat) (s : State) : Host.Outcome State Fault Refusal :=
  onPortCmd tag 0x0702 port s fun s => answer (restartPort s port) (rep .ok)

/-- The block of a port's planned partner, where it is loaded. -/
def partnerBlock (s : State) (p : Nat) : Option Nat := (plannedEpa s p).bind (blockOfEpa s)

/-- Take a port down by command and leave it disabled, its transmitter idle (12 R312, R313). -/
def disablePort (s : State) (p : Nat) : State :=
  updPort (lineFill (portDown s p 7) p) p fun q => { q with stage := .disabled, disabled := true, txIdle := true, cert := 0, syncAt := none }

/-- LINK_DISABLE (12 R320). -/
def execLinkDisable (tag port : Nat) (s : State) : Host.Outcome State Fault Refusal :=
  onPortCmd tag 0x0703 port s fun s =>
    match partnerBlock s port with
    | some b => if (blockOf s b).st = .active then fail s .badState else answer (disablePort s port) (rep .ok)
    | none => answer (disablePort s port) (rep .ok)

/-- LINK_ENABLE (12 R320): failures 0; PRBS, which runs only while the port is disabled, stops with its restart. -/
def linkEnable (s : State) (p : Nat) : State := updPort (restartPort s p) p fun q => { q with failures := 0 }

def execLinkEnable (tag port : Nat) (s : State) : Host.Outcome State Fault Refusal :=
  onPortCmd tag 0x0704 port s fun s => answer (linkEnable s port) (rep .ok)

/-- LINK_IDLE (12 R313, 13 R335): an Up port whose partner is a member of no loaded block, from minor 1 on. -/
def execLinkIdle (tag port : Nat) (s : State) : Host.Outcome State Fault Refusal :=
  onPortCmd tag 0x0705 port s fun s =>
    if (portOf s port).stage = .up ∧ partnerBlock s port = none ∧ 1 ≤ (portOf s port).minor then
      answer (idleLine s port) (rep .ok)
    else fail s .badState

/-- LINK_WAKE (12 R313). -/
def execLinkWake (tag port : Nat) (s : State) : Host.Outcome State Fault Refusal :=
  onPortCmd tag 0x0706 port s fun s => if (portOf s port).stage = .up then answer (wakeLine s port) (rep .ok) else fail s .badState

-- Lane commands (12 R316 to R318)

/-- Run a lane command on a logical lane that exists. -/
def onLaneCmd (tag op lane : Nat) (more : List Item) (s : State) (f : State → State × Option Reply) : Host.Outcome State Fault Refusal :=
  lonusCmd tag op ((2, lane) :: more) s fun s => if lane < 512 then f s else fail s .badParam

/-- Whether a lane's port is disabled by LINK_DISABLE (12 R317). -/
def laneDisabled (s : State) (l : Nat) : Bool := (portOf s (portOfLane s l)).disabled

/-- LANE_PRBS_START (12 R317): the counters are cleared. -/
def prbsStart (lane pattern direction : Nat) (s : State) : State × Option Reply :=
  if ¬ (pattern < 4 ∧ within 1 direction 3) then fail s .badParam
  else if !laneDisabled s lane then fail s .badState
  else answer (prbsBegin s lane pattern (bit direction 0) (bit direction 1)) (rep .ok)

def execLanePrbsStart (tag lane pattern direction : Nat) (s : State) : Host.Outcome State Fault Refusal :=
  onLaneCmd tag 0x0710 lane [(2, pattern), (2, direction)] s (prbsStart lane pattern direction)

/-- LANE_PRBS_STOP (12 R317). -/
def execLanePrbsStop (tag lane : Nat) (s : State) : Host.Outcome State Fault Refusal :=
  onLaneCmd tag 0x0711 lane [] s fun s => answer (prbsOff s lane) (rep .ok)

/-- LANE_PRBS_READ (14 R474): a locked checker has counted until now. -/
def prbsRead (lane : Nat) (s0 : State) : State × Option Reply :=
  let s := prbsCount s0 lane
  let x := laneOf s lane
  answer s (okItems (leBytes 4 (b2n x.lock) ++ leBytes 4 0 ++ leBytes 8 x.bits ++ leBytes 8 x.bitErr ++ leBytes 8 x.symErr))

def execLanePrbsRead (tag lane : Nat) (s : State) : Host.Outcome State Fault Refusal := onLaneCmd tag 0x0712 lane [] s (prbsRead lane)

/-- The limits of LANE_INJECT (12 R318). -/
def injectOk (s : State) (lane kind n count us : Nat) : Bool :=
  within 1 count 65535 && decide (1 ≤ us) &&
  (match kind with
   | 0 => (laneOf s lane).gen.isSome
   | 1 => (laneOf s lane).gen.isSome && within 2 n 64
   | 2 => (laneDisabled s lane && within 1 n 30) || (decide ((portOf s (portOfLane s lane)).stage = .up) && within 1 n 8)
   | _ => false)

/-- The strikes of an injection that lie before now. -/
def injUntil (s : State) (j : Inject) : Inject := { j with count := ((strikes j).filter fun t => decide (t < s.now)).length }

/-- A lane's new injection from now on: what an earlier one has struck stays, and it strikes no more (DESIGN CHOICE, log 15); the first strike keeps 1 µs
from its last, so that no µs of an Up port has two codewords affected (12 R318). -/
def injBegin (s : State) (kind n count us : Nat) (x : Lane) : Lane :=
  let past := x.injPast ++ (x.inject.map (injUntil s)).toList
  let last := maxNat (past.flatMap strikes)
  let t := if past.any fun j => decide (0 < j.count) then max s.now (last + 1000) else s.now
  { x with inject := some { kind := kind, n := n, count := count, us := us, at_ := t }, injPast := if x.gen.isSome then past else [] }

/-- LANE_INJECT (12 R318): it changes the symbols that the lane sends, from now on, and no packet of the module. -/
def execLaneInject (tag lane kind n count intervalUs : Nat) (s : State) : Host.Outcome State Fault Refusal :=
  onLaneCmd tag 0x0713 lane [(2, kind), (2, n), (2, count), (4, intervalUs)] s fun s =>
    if injectOk s lane kind n count intervalUs then
      let s := lineFill s (portOfLane s lane)
      answer (updLane s lane (injBegin s kind n count intervalUs)) (rep .ok)
    else fail s .badParam

/-- LANE_BITSLIP (12 R316). -/
def execLaneBitslip (tag lane : Nat) (s : State) : Host.Outcome State Fault Refusal :=
  onLaneCmd tag 0x0714 lane [] s fun s =>
    if laneDisabled s lane && (laneOf s lane).chk.isSome then
      answer (updLane (prbsCount s lane) lane fun x => { x with slip := (x.slip + 1) % 2720, lock := false }) (rep .ok)
    else fail s .badState

/-- PRBS_LOCK (12 R317). -/
def execPrbsLock (lane : Nat) (s : State) : Host.Outcome State Fault Refusal :=
  onUnit (decide (lane < 512)) s fun s => if (laneOf s lane).chk.isSome then updLane s lane fun x => { x with lock := true } else s

/-- PRBS_LOCK_LOST (12 R317): what was counted since the lock or the last read is added to the 64-bit counters; a port under PRBS31 certification has
failed (13 R336). -/
def lockLost (s : State) (lane b e y : Nat) : State :=
  if (laneOf s lane).lock then
    updLane (certSpoil s (portOfLane s lane) 0) lane fun x => { x with lock := false, bits := satAdd 64 x.bits b, bitErr := satAdd 64 x.bitErr e, symErr := satAdd 64 x.symErr y }
  else s

def execPrbsLockLost (lane bits bitErrors symbolErrors : Nat) (s : State) : Host.Outcome State Fault Refusal :=
  onUnit (decide (lane < 512)) s fun s => lockLost s lane bits bitErrors symbolErrors

-- Eye scans (12 R319)

/-- LANE_EYE_SCAN (12 R319): one per chiplet at a time; it completes with EYE_SCAN_DONE. -/
def eyeScan (tag lane eye : Nat) (s : State) : State × Option Reply :=
  if 2 < eye then fail s .badParam
  else if s.eye.any fun e => decide (e.chiplet = lane / 32) then fail s .badState
  else ({ s with eye := s.eye ++ [{ chiplet := lane / 32, lane := lane % 32, tag := tag }] }, none)

def execLaneEyeScan (tag lane eye : Nat) (s : State) : Host.Outcome State Fault Refusal := onLaneCmd tag 0x0720 lane [(2, eye)] s (eyeScan tag lane eye)

/-- EYE_SCAN_DONE (12 R319): 4,096 counts return as 16 KiB of bulk. -/
def eyeDone (s : State) (chiplet : Nat) (counts : List Word) : State :=
  match s.eye.find? fun e => decide (e.chiplet = chiplet) with
  | none => s
  | some e => finishCmd { s with eye := s.eye.filter fun x => decide (x.chiplet ≠ chiplet) } e.tag 0x0720
      (okBulk (slice (counts.flatMap fun w => leBytes 4 w.toNat) 0 16384))

def execEyeScanDone (chiplet : Nat) (counts : List Word) (s : State) : Host.Outcome State Fault Refusal :=
  onUnit (decide (chiplet < 16)) s fun s => eyeDone s chiplet counts

-- Certification (13 R336, R337)

/-- Begin a certification run (13 R336, R337). -/
def certBegin (s : State) (tag : Option Nat) (mode dwell : Nat) (ports : List Nat) : State :=
  { s with certRuns := s.certRuns ++ [{ tag := tag, mode := mode, ports := ports, endAt := s.now + 1000000000 * dwell }] }

/-- Ask one port for PRBS31: its hitch restarts; a member of a loaded block is not touched (13 R336). -/
def certAsk (dwell : Nat) (s : State) (p : Nat) : State :=
  if (partnerBlock s p).isSome then { s with cert := Tab.set {} s.cert p { result := 3, mode := 0, at_ := s.now } }
  else updPort (restartPort s p) p fun q => { q with cert := 1, certDwell := dwell }

/-- CERT_RUN (13 R328, R336, R337). -/
def certRun (tag port mode dwell : Nat) (s : State) : State × Option Reply :=
  if mode = 0 ∧ s.mod.st ≠ .setup ∧ s.mod.st ≠ .ready then fail s .badState
  else if ¬ (mode < 2 ∧ within 1 dwell 3600) ∨ ¬ (port = 0xFFFF ∨ portExists s port) then fail s .badParam
  else
    let named := if port = 0xFFFF then plannedPorts s else [port]
    if mode = 1 then (certBegin s (some tag) 1 dwell (named.filter fun p => decide ((portOf s p).stage = .up)), none)
    else
      let run := named.filter fun p => (partnerBlock s p).isNone
      (certBegin (named.foldl (certAsk dwell) s) (some tag) 0 dwell run, none)

def execCertRun (tag port mode dwellS : Nat) (s : State) : Host.Outcome State Fault Refusal :=
  lonusCmd tag 0x0740 [(2, port), (2, mode), (2, dwellS)] s (certRun tag port mode dwellS)

/-- Whether a port runs PRBS31 with every checker in lock. -/
def certLocked (s : State) (p : Nat) : Bool := decide ((portOf s p).cert = 3) && (lanesOf s p).all fun l => (laneOf s l).lock

/-- Whether nothing failed a port in the course of its run (13 R336, R337): no uncorrectable round; for PRBS31, checkers that ran and held lock to the
end of the port's own dwell. -/
def certClean (s : State) (r : CertRun) (p : Nat) : Bool :=
  !r.bad.contains p && (decide (r.mode ≠ 0) ||
    (match r.ended.find? fun e => decide (e.1 = p) with | some e => e.2 | none => certLocked s p))

/-- Record one port's result; `worst` is floor(-10 log10) of the worst ratio, `sound` what else the row reports of it. The limit is 10^-6 of bits or
10^-5 of symbols (13 R336, R337). -/
def certPort (run : CertRun) (acc : State × Nat) (r : Nat × Nat × Nat × Bool) : State × Nat :=
  let (p, lane, worst, sound) := r
  let mode := run.mode
  let pass := sound && certClean acc.1 run p && decide ((if mode = 0 then 60 else 50) ≤ worst)
  let res : CertRes := { result := if pass then 1 else 2, mode := mode, lane := lane % 8, worst := worst % 256, at_ := acc.1.now }
  let s := { acc.1 with cert := Tab.set {} acc.1.cert p res }
  if pass then (s, acc.2) else (emit s evCertFail [p, mode, lane % 8, worst % 256], acc.2 + 1)

/-- The result of a port that the row reports nothing of, which has not passed: lane and worst value are free (log 22). -/
def certSilent (s : State) (p : Nat) : (Nat × Nat × Nat × Bool) × State :=
  let (k, s) := draw s
  ((p, Config.freeWord k, Config.freeWord (k + 1), false), { s with freeCtr := s.freeCtr + 1 })

/-- The result of each port of a run. -/
def certFill (run : CertRun) (rs : List (Nat × Nat × Nat × Bool)) (acc : State × Nat) (p : Nat) : State × Nat :=
  match rs.find? fun r => decide (r.1 = p) with
  | some r => certPort run acc r
  | none => let (r, s) := certSilent acc.1 p; certPort run (s, acc.2) r

/-- End a port's part in a PRBS31 run: its hitch restarts at Detect (13 R336). -/
def certRelease (s : State) (p : Nat) : State :=
  let s := updPort ((lanesOf s p).foldl prbsOff s) p fun q => { q with cert := 0 }
  if dpRuns s then restartPort s p else s

/-- A port's own dwell has ended: PRBS stops, what its checkers held is noted, its hitch restarts (13 R336). -/
def certClose (s0 : State) (p : Nat) : State :=
  let s := waitUntil s0 (portOf s0 p).certEnd
  let ok := certLocked s p
  certRelease { s with certRuns := s.certRuns.map fun r => if r.mode = 0 ∧ p ∈ r.ports then { r with ended := r.ended ++ [(p, ok)] } else r } p

/-- The ports whose PRBS31 dwell ends at `t` or before, in that order, leave their runs at their own ends (13 R336). -/
def certExpire (s : State) (t : Nat) : State :=
  let due := (allPorts s).filter fun p => decide ((portOf s p).cert = 3 ∧ (portOf s p).certEnd ≤ t)
  (sortBy (fun a b => decide ((portOf s a).certEnd ≤ (portOf s b).certEnd)) due).foldl certClose s

/-- CERT_DONE (13 R336, R337): the oldest run of the mode ends at its dwell, and each port of a PRBS31 run at its own. -/
def certDone (s : State) (mode : Nat) (rs : List (Nat × Nat × Nat × Bool)) : State :=
  match s.certRuns.find? fun r => decide (r.mode = mode) with
  | none => s
  | some r0 =>
    let s := waitUntil (if mode = 0 then certExpire s r0.endAt else s) r0.endAt
    let r := (s.certRuns.find? fun x => decide (x.mode = mode)).getD r0
    let (s, bad) := r.ports.foldl (certFill r rs) (s, 0)
    let s := if mode = 0 then (r.ports.filter fun p => !r.ended.any fun e => decide (e.1 = p)).foldl certRelease s else s
    let s := emit { s with certRuns := s.certRuns.erase r } evCertDone [mode, r.ports.length, bad]
    match r.tag with
    | some t => finishCmd s t 0x0740 (rep .ok)
    | none => s

def execCertDone (mode : Nat) (results : List (Nat × Nat × Nat × Bool)) (s : State) : Host.Outcome State Fault Refusal :=
  done s (certDone s mode results)

/-- CERT_SCHEDULE (13 R337): an FEC run on every Up port each interval_h hours. -/
def certSchedule (s : State) : State :=
  let h := bits (certCtlWord s) 0 14
  if h ≠ 0 ∧ dpRuns s then
    let s := waitUntil s (s.certAt + 3600000000000 * h)
    certBegin { s with certAt := s.now } none 1 (bits (certCtlWord s) 16 12)
      ((allPorts s).filter fun p => decide ((portOf s p).stage = .up))
  else s

def execCertSchedule (s : State) : Host.Outcome State Fault Refusal := done s (certSchedule s)

end Sys2Proof.Machine
end

