-- ==== Sys2Proof/Machine/Ehrok.lean ====
section
/-! DEFINITION. Ehrok's control cycle, its state copy and the switches between its cores (15 R374 to R381). -/

namespace Sys2Proof.Machine

-- The control cycle (15 R374, R375)

/-- What the state copy takes of the loops (15 R375). -/
def loopCopy (s : State) : LoopCopy :=
  { dieLim := s.pwr.dieLim, ratio := s.pwr.ratio, thermCap := s.pwr.thermCap, rampLim := s.pwr.rampLim, rampW := s.pwr.rampW,
    hot := s.therm.hot, suspect := s.therm.suspect, dual := s.therm.dual,
    flowAt := s.cool.flowAt, drawLo := s.cool.drawLo, drawHi := s.cool.drawHi, beatAt := s.lonus.beatAt }

/-- The last complete copy. -/
def lastLoops (s : State) : Option LoopCopy := if s.ehrok.newB then s.ehrok.copyB else s.ehrok.copyA

/-- The loops go on from the last complete copy (15 R376). -/
def loadCopy (s : State) : State :=
  match lastLoops s with
  | none => s
  | some c => { s with
      pwr := { s.pwr with dieLim := c.dieLim, ratio := c.ratio, thermCap := c.thermCap, rampLim := c.rampLim, rampW := c.rampW },
      therm := { s.therm with hot := c.hot, suspect := c.suspect, dual := c.dual },
      cool := { s.cool with flowAt := c.flowAt, drawLo := c.drawLo, drawHi := c.drawHi },
      lonus := { s.lonus with beatAt := c.beatAt } }

/-- The state copy to the standby core (15 R375, R379), into the buffer that does not hold the last complete one; a copy broken off leaves that one in
force and ends the run of consecutive copies. -/
def writeCopy (s : State) (whole : Bool) : State :=
  let e := s.ehrok
  let other := if e.inB then e.aState else e.bState
  if 2 ≤ other ∧ whole then
    let n := min 255 (e.sync + 1)
    let up := if 16 ≤ n then 3 else other
    let c := some (loopCopy s)
    { s with ehrok := { e with sync := n, sinceCopy := [], waitBack := if e.inB ∧ 16 ≤ n then e.waitBack + 1 else 0,
                               aState := if e.inB then up else e.aState, bState := if e.inB then e.bState else up,
                               lastCopy := s.now, newB := !e.newB,
                               copyA := if e.newB then c else e.copyA, copyB := if e.newB then e.copyB else c } }
  else { s with ehrok := { e with sync := 0, waitBack := 0 } }

/-- When the control cycle runs: at the boundary at which a core has just taken control, or at the next (15 R374, R376). -/
def cycleAt (s : State) : Nat := if s.ehrok.dueAt = some s.now then s.now else s.now + toBoundary s

/-- CONTROL_CYCLE (15 R374): sensors, loops (DESIGN CHOICE: in this order, log 14), state triggers in the order of 01 R19, the copy to the standby core,
`copied` whether its closing check word arrives (R375). -/
def controlCycle (s : State) (x : Sensed) (copied : Bool) : State :=
  if !ctrlRuns s then s
  else
    let t := cycleAt s
    let s := readSensors (waitUntil (certExpire s t) t) x
    let s := voltageLoop (dualCheck (stackHeat (thermalLoop (suspectCheck s)))) x.margins
    let s := burnLoop (rampLoop (slowLoop (capCauses s)) x.demand) x.demand
    let s := readyCheck (settle (shedCheck s))
    let s := { s with ehrok := { s.ehrok with lastCycle := s.now, lastRun := s.axle.value, dueAt := none } }
    writeCopy s copied

def execControlCycle (sensed : Sensed) (s : State) (copied : Bool := true) : Host.Outcome State Fault Refusal := done s (controlCycle s sensed copied)

-- Core switches (15 R376 to R381)

/-- Commands outstanding at a switch (14 R355): those that the copy does not show complete end RESTARTED, and so do responses formed since the
copy; a transition in progress goes on (01 R21), an eye scan is lost (12 R320), a certification run goes on (log 22). -/
def restartAll (s : State) : State :=
  let since := s.ehrok.sinceCopy
  let s := updLonus s fun l => { l with
    respQ := l.respQ.map fun r => if since.contains r.tag then { r with status := statusCode .restarted, payload := [], bulk := [] } else r,
    kept := l.kept.map fun r => if since.contains r.tag then { r with status := statusCode .restarted, payload := [], bulk := [] } else r,
    bulkQ := l.bulkQ.filter fun b => !since.contains b.1 }
  let s := { s with ehrok := { s.ehrok with sinceCopy := [] }, eye := [], certRuns := s.certRuns.map (fun (r : CertRun) => { r with tag := none }) }
  s.lonus.outstanding.foldl (fun s c => complete s c.tag c.op (rep .restarted)) s

/-- The stops of a core within the last hour. -/
def recent (s : State) (l : List Nat) : List Nat := l.filter fun t => decide (s.now < t + 3600000000000)

/-- The core in control stops, recorded with its time; it restarts (code 1), or is held stopped (0). -/
def stopCore (e : Ehrok) (held : Bool) (a b : List Nat) : Ehrok :=
  let v := if held then 0 else 1
  if e.inB then { e with bState := v, stopsB := b } else { e with aState := v, stopsA := a }

/-- The first boundary of a stream of `period` ms from an axle value on. -/
def boundaryFrom (axle period next : Nat) : Nat := let p := period * 1000000; if next < axle then ceilDiv axle p * p else next

/-- Telemetry due in the switch-over gap is not formed (17 R427): the stream, and one that will replace it, goes on at its next boundary. -/
def skipTelem (s : State) : State :=
  let t := s.telem
  if t.running then
    { s with telem := { t with next := boundaryFrom s.axle.value t.period t.next,
                               repl := t.repl.map fun r => (r.1, r.2.1, boundaryFrom s.axle.value r.2.1 r.2.2) } }
  else s

/-- The controlling core stops and no other can take over: it restarts, and no core runs until it has (15 R379, R381). -/
def stopAlone (s : State) : State :=
  if ctrlRuns s then { s with ehrok := stopCore { s.ehrok with sync := 0, waitBack := 0, dueAt := none } false
                                         (recent s s.ehrok.stopsA ++ [s.now]) (recent s s.ehrok.stopsB ++ [s.now]) }
  else s

/-- EHROK_TAKEOVER (15 R376, R378, R380): the standby core takes control, loads the last complete copy and runs its first cycle at the next boundary; the
stopped core restarts, or is held stopped at its third stop in an hour. DESIGN CHOICE: cause 0 is the first case of R376, no complete copy 275 µs after the
last one, any other the error monitor (log 22). -/
def takeover (s : State) (cause : Nat) : State :=
  let e := s.ehrok
  let other := if e.inB then e.aState else e.bState
  if !alive s || s.mod.bootRom then s
  else if other < 2 then stopAlone s
  else
    let s := if cause = 0 then waitUntil s (e.lastCopy + 275000) else s
    let s := elapse s (toBoundary s)
    let gap := min 500 ((s.axle.value - min e.lastRun s.axle.value) / 1000)
    let a := recent s e.stopsA ++ [s.now]
    let b := recent s e.stopsB ++ [s.now]
    let third := decide (3 ≤ (if e.inB then b else a).length)
    let e' := stopCore { e with
      takeovers := satInc 16 e.takeovers, gap := gap, sync := 0, waitBack := 0, dueAt := some s.now } third a b
    let e' := { e' with inB := !e.inB, single := e.single || third,
                        aState := if e.inB then 3 else e'.aState, bState := if e.inB then e'.bState else 3 }
    let s := skipTelem (restartAll (loadCopy { s with ehrok := e' }))
    let s := emit s evTakeover [b2n e.inB, cause, gap]
    let s := if third then emit s evSingle [] else s
    emit s evTelemGap [min e.lastRun s.axle.value, s.axle.value]

def execEhrokTakeover (cause : Nat) (s : State) : Host.Outcome State Fault Refusal := done s (takeover s cause)

/-- CORE_RESTART (15 R379, R381): a restarting core starts after its image check, as standby, or in control where no other runs; one whose image fails the
check is stopped and the module goes to Hold. -/
def coreRestart (s : State) (b imageOk : Bool) : State :=
  let e := s.ehrok
  let st := if b then e.bState else e.aState
  let put := fun (v : Nat) (e : Ehrok) => { e with aState := if b then e.aState else v, bState := if b then v else e.bState }
  if !alive s || decide (st ≠ 1) then s
  else if !imageOk then enterHold { s with ehrok := put 0 e } 11 none
  else { s with ehrok := put (if e.inB = b then 3 else 2) { e with sync := 0, waitBack := 0, copyA := none, copyB := none, lastCopy := s.now } }

def execCoreRestart (coreB imageOk : Bool) (s : State) : Host.Outcome State Fault Refusal := done s (coreRestart s coreB imageOk)

/-- EHROK_TAKEBACK (15 R379): core A resumes control after 16 complete copies, at the next boundary, where no command is executing, or at the 64th, where the
commands outstanding end RESTARTED. B writes its last copy and A runs the cycle of that boundary. -/
def takeback (s : State) : State :=
  let e := s.ehrok
  let busy := s.lonus.outstanding.any Cmd.running
  if ctrlRuns s ∧ e.inB ∧ e.aState = 3 ∧ 16 ≤ e.sync ∧ (busy = false ∨ 64 ≤ e.waitBack) then
    let s := elapse s (toBoundary s)
    let s := { s with ehrok := { e with inB := false, takebacks := satInc 16 e.takebacks, sync := 0, waitBack := 0, sinceCopy := [], dueAt := some s.now } }
    emit (if busy then restartAll s else s) evTakeback []
  else s

def execEhrokTakeback (s : State) : Host.Outcome State Fault Refusal := done s (takeback s)

/-- HARDWARE_WATCHDOG (15 R381): no control cycle for 5 s sends the module to Hold and resets both cores, which then restart under R379. -/
def watchdog (s : State) : State :=
  if alive s && !s.mod.bootRom then
    let s := waitUntil s (s.ehrok.lastCycle + 5000000000)
    let s := enterHold s 11 none
    { s with ehrok := { s.ehrok with inB := false, aState := 1, bState := 1, sync := 0, waitBack := 0, lastCycle := s.now, dueAt := none } }
  else s

def execHardwareWatchdog (s : State) : Host.Outcome State Fault Refusal := done s (watchdog s)

end Sys2Proof.Machine
end

