-- ==== Sys2Proof/Machine/RvBase.lean ====
section
/-! DEFINITION. What an instruction of a galley core means (08 R185, R186, R190, R191): the instructions that touch registers alone, the accesses that
the others make, and which instruction a thread stands before. The ratified extensions are PRESUMED (log 30). -/

namespace Sys2Proof.Machine

-- Integer instructions

/-- An operation of `n` bits; a shift takes its amount modulo `n`. -/
def aluOp (n : Nat) (op : AluOp) (a b : Nat) : Nat :=
  let sa := signed n a
  let sb := signed n b
  match op with
  | .add => (a + b) % 2 ^ n
  | .sub => twos n ((a : Int) - b)
  | .sll => a * 2 ^ (b % n) % 2 ^ n
  | .slt => b2n (decide (sa < sb))
  | .sltu => b2n (decide (a < b))
  | .xor => a ^^^ b
  | .srl => a / 2 ^ (b % n)
  | .sra => twos n (sa / (2 ^ (b % n) : Nat))
  | .or => a ||| b
  | .and => a &&& b
  | .mul => a * b % 2 ^ n
  | .mulh => twos n (sa * sb / (2 ^ n : Nat))
  | .mulhsu => twos n (sa * b / (2 ^ n : Nat))
  | .mulhu => a * b / 2 ^ n
  | .div => rvDiv n true a b
  | .divu => rvDiv n false a b
  | .rem => rvRem n true a b
  | .remu => rvRem n false a b

/-- An operation on registers, or on their low words with a sign-extended result. -/
def aluRun (word : Bool) (op : AluOp) (a b : Nat) : Nat :=
  if word then twos 64 (signed 32 (aluOp 32 op (a % 2 ^ 32) (b % 2 ^ 32))) else aluOp 64 op a b

/-- Whether a branch is taken. -/
def branchTaken (f3 a b : Nat) : Bool :=
  match f3 with
  | 0 => a == b
  | 1 => a != b
  | 4 => decide (signed 64 a < signed 64 b)
  | 5 => decide (signed 64 b ≤ signed 64 a)
  | 6 => decide (a < b)
  | _ => decide (b ≤ a)

-- Floating-point instructions

/-- The format of an fmt code. -/
def fmtOf (k : Nat) : FFmt := match k with | 0 => fSingle | 1 => fDouble | 6 => fBrain | _ => fHalf

/-- A thread's floating-point result with its flags. -/
def fpPut (u : Thread) (f : FFmt) (rd : Nat) (r : Nat × Nat) : Thread := vFlags (rvSetF u rd f.width r.1) r.2

/-- An OP-FP instruction; none where it names, or frm holds, no rounding mode. -/
def fpRun (u : Thread) (op : FpOp) (fmt rd rs1 rs2 rs3 rm : Nat) : Option Thread :=
  let f := fmtOf fmt
  let mode := if rm = 7 then u.frm else rm
  let wa := rvFAs u f rs1
  let wb := rvFAs u f rs2
  let a := fDecode f wa
  let b := fDecode f wb
  let rounded := fun (t : Thread) => if 5 ≤ mode then none else some t
  let toX := fun (r : Nat × Nat) => vFlags (rvSetX u rd r.1) r.2
  match op with
  | .add => rounded (fpPut u f rd (fAdd f mode a b))
  | .sub => rounded (fpPut u f rd (fAdd f mode a b.neg))
  | .mul => rounded (fpPut u f rd (fMul f mode a b))
  | .div => rounded (fpPut u f rd (fDiv f mode a b))
  | .sqrt => rounded (fpPut u f rd (fSqrt f mode a))
  | .sgnj k => some (fpPut u f rd (fSgnj f k wa wb, 0))
  | .minmax isMax => some (fpPut u f rd (fMinMax f isMax wa wb))
  | .cmp k =>
    let r := if k = 0 then fLe a b else if k = 1 then fLt a b else fEq a b
    some (toX (b2n r.1, r.2))
  | .cvtF src => rounded (fpPut u f rd (fConvert (fmtOf src) f mode (rvFAs u (fmtOf src) rs1)))
  | .toInt k =>
    let n := if k < 2 then 32 else 64
    let r := fToInt n (decide (k % 2 = 0)) mode a
    rounded (toX (twos 64 (signed n r.1), r.2))
  | .ofInt k =>
    let n := if k < 2 then 32 else 64
    let x := rvX u rs1 % 2 ^ n
    rounded (fpPut u f rd (fOfInt f mode (if k % 2 = 0 then signed n x else x)))
  | .mvX => some (rvSetX u rd (twos 64 (signed f.width (rvF u rs1))))
  | .cls => some (rvSetX u rd (fClass f wa))
  | .mvF => some (rvSetF u rd f.width (rvX u rs1 % 2 ^ f.width))
  | .fma negProd negAdd =>
    let c := fDecode f (rvFAs u f rs3)
    rounded (fpPut u f rd (fFma f mode (if negProd then a.neg else a) b (if negAdd then c.neg else c)))

-- CSRs (08 R185, R186, R190)

/-- The value of vtype. -/
def vtypeWord (u : Thread) : Nat := if u.vill then 2 ^ 63 else u.vtype

/-- tzinfo (08, table "Xtzgal CSRs"). -/
def tzInfo (s : State) (t : ThreadRef) : Nat :=
  fields [(0, 2, t.die), (2, 7, t.cluster), (9, 6, t.core), (15, 2, t.thread), (17, 7, blockOfThr s t), (24, 10, (thrOf s t).image),
          (34, 6, (thrOf s t).entry)]

/-- The galley address of a larder address (02, table "Galley local map"). -/
def lardGalley (a : Nat) : Nat := 0x7FFF010000000000 + a

/-- The value of a CSR; none for an address that U-mode has no CSR at. The cycle count is a free value (log 30). -/
def csrRead (s : State) (t : ThreadRef) (a : Nat) : Option (Nat × State) :=
  let u := thrOf s t
  let i := imgOf s u.image
  let plain := fun v => some (v, s)
  match a with
  | 0x001 => plain u.fflags
  | 0x002 => plain u.frm
  | 0x003 => plain (u.fflags + 32 * u.frm)
  | 0x008 => plain u.vstart
  | 0x009 => plain (b2n u.vxsat)
  | 0x00A => plain u.vxrm
  | 0x00F => plain (b2n u.vxsat + 2 * u.vxrm)
  | 0x8C0 => plain u.ctag
  | 0xC00 => let (k, s) := draw s; some (Config.freeWord k % 2 ^ 64, s)
  | 0xC01 => plain s.axle.value
  | 0xC02 => plain u.instret
  | 0xC20 => plain u.vl
  | 0xC21 => plain (vtypeWord u)
  | 0xC22 => plain 64
  | 0xCC0 => plain (tzInfo s t)
  | 0xCC1 => plain (blockOf s (blockOfThr s t)).seed
  | 0xCC2 => plain (if i.heapBytes = 0 then 0 else lardGalley i.heapBase)
  | 0xCC3 => plain i.heapBytes
  | _ => none

/-- A write to a CSR; none where it is read-only. -/
def csrWrite (u : Thread) (a v : Nat) : Option Thread :=
  match a with
  | 0x001 => some { u with fflags := v % 32 }
  | 0x002 => some { u with frm := v % 8 }
  | 0x003 => some { u with fflags := v % 32, frm := bits v 5 3 }
  | 0x008 => some { u with vstart := v % 512 }
  | 0x009 => some { u with vxsat := bit v 0 }
  | 0x00A => some { u with vxrm := v % 4 }
  | 0x00F => some { u with vxsat := bit v 0, vxrm := bits v 1 2 }
  | 0x8C0 => some { u with ctag := v % 65536 }
  | _ => none

/-- A CSR instruction: write, set or clear, from a register or an immediate; a set or clear of nothing writes nothing. -/
def csrRun (s : State) (t : ThreadRef) (f3 rd rs1 a : Nat) : Option State :=
  (csrRead s t a).bind fun (old, s) =>
    let src := if 4 ≤ f3 then rs1 else getX s t rs1
    let new := match f3 % 4 with
      | 1 => src
      | 2 => old ||| src
      | _ => old &&& (2 ^ 64 - 1 - src)
    let s' := setX s t rd old
    if f3 % 4 ≠ 1 ∧ rs1 = 0 then some s' else (csrWrite (thrOf s' t) a new).map fun u => updThr s' t fun _ => u

-- Vector configuration and accesses

/-- A vector configuration instruction: vl is the AVL up to VLMAX; between VLMAX and twice VLMAX the extension leaves it open from half the AVL up,
a free value (log 30). An unsupported vtype sets vill. -/
def vsetRun (s : State) (t : ThreadRef) (rd : Nat) (avl vtype : Nat ⊕ Nat) : State :=
  let u := thrOf s t
  let vt := match vtype with | .inl r => rvX u r | .inr k => k
  if !vtOk vt then updThr s t fun u => rvSetX { u with vill := true, vtype := 0, vl := 0, vstart := 0 } rd 0
  else
    let mx := vtMax vt
    let (n, s) := match avl with
      | .inr k => (k, s)
      | .inl 0 => (if rd = 0 then min u.vl mx else mx, s)
      | .inl r => (rvX u r, s)
    let (vl, s) :=
      if n ≤ mx then (n, s)
      else if 2 * mx ≤ n then (mx, s)
      else let (k, s) := draw s; (ceilDiv n 2 + Config.freeWord k % (mx - ceilDiv n 2 + 1), s)
    updThr s t fun u => rvSetX { u with vill := false, vtype := vt, vl := vl, vstart := 0 } rd vl

/-- One element of a vector access: its index, its byte position in the vector registers, its address. -/
structure VElem where
  idx  : Nat
  pos  : Nat
  addr : Nat
  deriving DecidableEq, Repr

/-- An access of a thread (08 R203): a scalar load or store, an AMO, or a vector access of elements of `eew` bytes, all of its elements or, for
fault-only-first, those up to the first fault; `unit`: unit-stride and unmasked. -/
inductive Access where
  | load (dest : Dest) (addr bytes : Nat)
  | store (addr : Nat) (data : List Byte)
  | amo (op : AmoOp) (rd addr bytes : Nat) (data : List Byte)
  | vec (isLoad : Bool) (eew : Nat) (unit ff : Bool) (elems : List VElem)
  deriving DecidableEq, Repr

/-- A galley address: registers and an offset. -/
def effAddr (base : Nat) (off : Int) : Nat := twos 64 ((base : Int) + off)

/-- The elements `lo` to `hi` of `nf` fields, where element `i` of field `f` stands at `addr i f`, each field in `regs` registers from `vd`. -/
def vElems (u : Thread) (vd regs nf eew : Nat) (vm : Bool) (hi : Nat) (addr : Nat → Nat → Nat) : List VElem :=
  ((List.range hi).filter fun i => decide (u.vstart ≤ i) && vOn u vm i).flatMap fun i =>
    (List.range nf).map fun f => ⟨i, 64 * (vd + f * regs) + i * eew, addr i f % 2 ^ 64⟩

/-- A vector access (08 R185, R203), and the thread with its agnostic elements written; none: illegal. -/
def vmemRun (u : Thread) (ag : Nat → Bool) (isLoad : Bool) (vd rs1 nf eew : Nat) (vm : Bool) (walk : VWalk) : Option (Access × Thread) :=
  let base := rvX u rs1
  let sew := vtSew u.vtype
  let m := vtMul8 u.vtype * eew / sew
  let groups := fun (m : Nat) => vGroup vd m && decide (nf * vRegs m ≤ 8 ∧ vd + nf * vRegs m ≤ 32) && (vm || vd != 0 || !isLoad)
  let agn := fun (eb m len : Nat) (u : Thread) =>
    if isLoad && decide (u.vstart < len) then
      (List.range nf).foldl (fun w f =>
        { w with v := (vWrite { u with v := w.v } ag (vd + f * vRegs m) eb m vm len fun i => (vBytes w.v (64 * (vd + f * vRegs m) + i * eb) eb, 0)).v }) u
    else u
  let unitOk := !u.vill && decide (sew ≤ vtMul8 u.vtype * eew) && groups m
  match walk with
  | .whole n =>
    need (decide (vd % n = 0)) (.vec isLoad eew true false (vElems u vd n 1 eew true (64 * n / eew) fun i _ => base + i * eew), u)
  | .mask =>
    let len := ceilDiv u.vl 8
    need (!u.vill) (.vec isLoad 1 true false (vElems u vd 1 1 1 true len fun i _ => base + i), agn 1 8 len u)
  | .unit ff =>
    need unitOk (.vec isLoad eew vm ff (vElems u vd (vRegs m) nf eew vm u.vl fun i f => base + (i * nf + f) * eew), agn eew m u.vl u)
  | .stride r =>
    need unitOk (.vec isLoad eew false false (vElems u vd (vRegs m) nf eew vm u.vl fun i f =>
      effAddr base (signed 64 (rvX u r) * i + (f * eew : Nat))), agn eew m u.vl u)
  | .index vs2 =>
    let md := vtMul8 u.vtype
    need (!u.vill && decide (sew ≤ vtMul8 u.vtype * eew) && groups md && vGroup vs2 m &&
        (!isLoad || (if nf = 1 then vLap vd sew md vs2 eew m else !vMeet vd (nf * vRegs md) vs2 (vRegs m))))
      (.vec isLoad sew false false (vElems u vd (vRegs md) nf sew vm u.vl fun i f => base + vEl u vs2 eew i + f * sew), agn sew md u.vl u)

/-- The bytes that a vector store's elements hold. -/
def vecData (u : Thread) (eew : Nat) (es : List VElem) : List Byte := es.flatMap fun e => leBytes eew (vBytes u.v e.pos eew)

-- What a thread stands before

/-- What the instruction at a thread's pc does. `base` instructions touch registers alone; the others have rows of their own. -/
inductive Meaning where
  | noFetch
  | illegal
  | exit
  | log
  | ebreak
  | fence (predW : Bool)
  | tz (op : TzOp) (rd rs1 rs2 : Nat)
  | mem (a : Access) (run : State → State)
  | base (run : State → State)

/-- A base instruction that leaves the thread `f` makes of it. -/
def baseThr (t : ThreadRef) (f : Thread → Thread) : Meaning := .base fun s => retire (updThr s t f) t

/-- A base instruction that ends elsewhere than before the next one. -/
def baseJump (t : ThreadRef) (link : Option Nat) (target : Nat) : Meaning :=
  .base fun s => updThr s t fun u =>
    { rvSetX u (link.getD 0) ((u.pc + pcLen s t) % 2 ^ 64) with pc := target % 2 ^ 64, instret := (u.instret + 1) % 2 ^ 64 }

/-- The free choice of what agnostic elements hold (log 30). -/
def agnostic (k i : Nat) : Bool := bit (Config.freeByte k i).toNat 0

/-- The meaning of an instruction for a thread (08 R185 to R187, R190, R191). -/
def meaningOf (s : State) (t : ThreadRef) (i : GInstr) : Meaning :=
  let u := thrOf s t
  let x := rvX u
  let orIllegal := fun (o : Option Thread) => match o with | some w => baseThr t fun _ => w | none => .illegal
  let plain := fun (a : Access) => Meaning.mem a id
  match i with
  | .lui rd imm => baseThr t fun u => rvSetX u rd (twos 64 imm)
  | .auipc rd imm => baseThr t fun u => rvSetX u rd (effAddr u.pc imm)
  | .jal rd imm => baseJump t (some rd) (effAddr u.pc imm)
  | .jalr rd rs1 imm => baseJump t (some rd) (effAddr (x rs1) imm / 2 * 2)
  | .branch f3 rs1 rs2 imm => if branchTaken f3 (x rs1) (x rs2) then baseJump t none (effAddr u.pc imm) else baseThr t id
  | .opImm op rd rs1 imm word => baseThr t fun u => rvSetX u rd (aluRun word op (rvX u rs1) (twos 64 imm))
  | .op op rd rs1 rs2 word => baseThr t fun u => rvSetX u rd (aluRun word op (rvX u rs1) (rvX u rs2))
  | .load rd rs1 imm n sgn => plain (.load (.x rd sgn) (effAddr (x rs1) imm) n)
  | .loadF rd rs1 imm n => plain (.load (.f rd) (effAddr (x rs1) imm) n)
  | .store rs2 rs1 imm n => plain (.store (effAddr (x rs1) imm) (leBytes n (x rs2)))
  | .storeF rs2 rs1 imm n => plain (.store (effAddr (x rs1) imm) (leBytes n (rvF u rs2)))
  | .amo op rd rs1 rs2 n => plain (.amo op rd (x rs1) n (leBytes n (x rs2)))
  | .fence predW => .fence predW
  | .fenceI => .base fun s => codeSync (retire s t) (coreKey t)
  | .ecall =>
    if x 17 = 0 then .exit else if x 17 = 1 then .log else .base fun s => resume (updThr s t fun u => rvSetX u 10 (2 ^ 64 - 1)) t
  | .ebreak => .ebreak
  | .wfi => .tz .yield 0 0 0
  | .csr f3 rd rs1 a =>
    match csrRun s t f3 rd rs1 a with
    | some _ => .base fun s => retire ((csrRun s t f3 rd rs1 a).getD s) t
    | none => .illegal
  | .fp op fmt rd rs1 rs2 rs3 rm => orIllegal (fpRun u op fmt rd rs1 rs2 rs3 rm)
  | .tz op rd rs1 rs2 => .tz op rd rs1 rs2
  | .vset rd avl vt => .base fun s => retire (vsetRun s t rd avl vt) t
  | .vmem isLoad vd rs1 nf eew vm walk =>
    match vmemRun u (agnostic s.freeCtr) isLoad vd rs1 nf eew vm walk with
    | some (a, w) => .mem a fun s => updThr (draw s).2 t fun _ => vEnd w
    | none => .illegal
  | .vop f3 f6 vd vs1 vs2 vm =>
    match vExec u (agnostic s.freeCtr) f3 f6 vd vs1 vs2 vm with
    | some w => .base fun s => retire (updThr (draw s).2 t fun _ => w) t
    | none => .illegal

/-- What a thread stands before: the exit stub that its ra held, or the instruction at its pc (08 R191, R198). -/
def standing (s : State) (t : ThreadRef) : Meaning :=
  if (thrOf s t).pc = (thrOf s t).stub then .exit
  else match fetchIns s t with
    | none => .noFetch
    | some w => match decInstr w with
      | some i => meaningOf s t i
      | none => .illegal

end Sys2Proof.Machine
end

