-- ==== Sys2Proof/Machine/Galley.lean ====
section
/-! DEFINITION. Galley threads (08): issue, the Xtzgal instructions, accesses by range, runtime services, launch groups. Each row is one
instruction that a thread issues from its pc, or the end of its sleep; the instructions without a row run on an empty queue (log 18, 30). -/

namespace Sys2Proof.Machine

-- Issue (08 R200)

/-- Whether a packet that the thread formed waits for self-brake or Brake tokens. -/
def brakeWaits (s : State) (t : ThreadRef) : Bool := (hubOf s t.die).held.any fun x => decide (x.purpose = .thread t) && !x.resend

/-- Whether a thread is ready (08 R200). -/
def ready (s : State) (t : ThreadRef) : Bool :=
  let u := thrOf s t
  dpRuns s && u.live && decide (u.sleep = .none) && !u.halted && decide (u.posted < 32) && !brakeWaits s t

/-- Whether the core issues from this thread next: the first ready one after the thread that issued last (08 R200). -/
def turn (s : State) (t : ThreadRef) : Bool :=
  decide (firstFrom 4 (Tab.get 0 s.issue (coreKey t)) (fun k => ready s { t with thread := k }) = some t.thread)

/-- The thread issues: a yielded thread of its core waits for it no longer (08 R188, R200). -/
def issued (s : State) (t : ThreadRef) : State :=
  ((List.range 4).filter fun k => decide (k ≠ t.thread)).foldl (fun s k =>
    updThr s { t with thread := k } fun u => match u.sleep with
      | .yield l =>
        let l := l.filter fun x => decide (x ≠ t.thread)
        { u with sleep := if l.isEmpty then .none else .yield l }
      | _ => u) { s with issue := Tab.set 0 s.issue (coreKey t) (t.thread + 1) }

/-- The row of an instruction that a ready thread stands before when its turn comes: `f` says what the row does with what the thread stands before,
none where that is another instruction. A row whose instruction the core does not issue next changes nothing. -/
def issueRow (t : ThreadRef) (s : State) (f : Meaning → Option (State → State)) : Host.Outcome State Fault Refusal :=
  onUnit (thrExists t) s fun s => if turn s t then (match f (standing s t) with | some g => g (issued s t) | none => s) else s

/-- The row of an Xtzgal instruction with its register fields (08 R187). -/
def tzRow (t : ThreadRef) (s : State) (op : TzOp) (rd rs1 rs2 : Nat) (f : State → State) : Host.Outcome State Fault Refusal :=
  issueRow t s fun
    | .tz op' rd' rs1' rs2' => need (decide (op' = op ∧ rd' = rd ∧ rs1' = rs1 ∧ rs2' = rs2)) f
    | _ => none

/-- The galley address of a local offset. -/
def localAddr (o : Nat) : Nat := 0x7FFF000000000000 + o

-- TZ.SUBMIT (08 R188)

/-- TZ.SUBMIT: the descriptor's address and the engine are checked; the thread sleeps until the engine's queue accepts (08 R188). -/
def tzSubmit (s : State) (t : ThreadRef) (a e : Nat) : State :=
  if 5 < e ∨ a % 64 ≠ 0 ∨ ¬ ownMem s t a 64 then threadFault s t 25 a else sleepIn s t (.submit e a)

def execTzSubmit (t : ThreadRef) (rs1 rs2 : Nat) (s : State) : Host.Outcome State Fault Refusal :=
  tzRow t s .submit 0 rs1 rs2 fun s => tzSubmit s t (getX s t rs1) (getX s t rs2)

-- TZ.SEND (08 R195)

/-- Read bytes for a thread: an uncorrectable error in the larder fails the block (10 R262), one in scratch or cluster memory is cause 29 (08 R191). -/
def thrRead (s : State) (t : ThreadRef) (a n : Nat) (ecc : Ecc) : Option (List Byte) × State :=
  match placeOf s t a with
  | .larder l _ => eccRead s l n (blockOfThr s t) ecc
  | p => if ecc = .uncorrectable then (none, threadFault s t 29 a) else (some (plainRead s p n), s)

/-- The header that TZ.SEND forms from a template (08 R195). -/
def sendHeader (s : State) (t : ThreadRef) (tmpl : Header) : Header :=
  { tmpl with
    src := BitVec.ofNat 16 (ownEpa s), epoch := stampOf s t.die, last := true, mark := false, resend := false, rsvd := 0, seq := 0,
    step := BitVec.ofNat 16 (blockOf s (blockOfThr s t)).step }

/-- Whether the target of a packet of a thread lies in its block; a packet to the own EPA is checked where it is decoded (02 R50). -/
def sendTarget (s : State) (b : Nat) (h : Header) : Bool :=
  let e := h.dst.toNat
  let v := b2n h.epoch
  if h.mcast then decide (e < 4096) && mcastValid s v e && decide (mcastOwner s v e = b)
  else if isAccel e then decide (blockOfEpa s e = some b)
  else decide (e = ownEpa s)

/-- Whether a count slot of this module that the packet names lies outside the block's range (03 R67). -/
def sendTagBad (s : State) (b : Nat) (h : Header) : Bool :=
  let t := h.typ.toNat
  decide (t = tREADREQ ∨ t = tATOMIC ∨ (t = tWRITE ∧ h.dst.toNat = ownEpa s ∧ h.mcast = false)) &&
    (match ctagSlot h.ctag.toNat with | some k => !slotInBlock s b k | none => false)

/-- The access-fault cause of a packet's target: 5 for a read, 7 for the others. -/
def sendCause (h : Header) : Nat := if h.typ.toNat = tREADREQ then 5 else 7

/-- Whether the window that a packet of block `b` names is another block's or does not take what the packet does (02 R34, R35, R50). -/
def sendBarred (w : Window) (b : Nat) (h : Header) : Bool :=
  let t := h.typ.toNat
  let k := bits h.op.toNat 0 4
  decide (winOwner w ≠ b) || (decide (t = tWRITE) && !winWrite w) ||
    ((decide (t = tATOMIC) || decide (t = tWRITE ∧ 1 ≤ k ∧ k ≤ 3)) && !winAtomic w)

/-- A packet of a thread to the module's own EPA: decoded locally (02 R39, 08 R196). DESIGN CHOICE: an operation word or an atomic's payload that
10 R250 or R255 refuses with BADOP raises cause 27; the spec gives no cause (log 18). -/
def sendOwn (s : State) (t : ThreadRef) (h : Header) (payload : List Byte) (rs2 : Nat) : State :=
  let b := blockOfThr s t
  let typ := h.typ.toNat
  let fault := threadFault s t (sendCause h) (h.dst.toNat * 2 ^ 48 + h.addr.toNat)
  if typ = tCALL then
    let img := h.op.toNat % 1024
    let entry := h.op.toNat / 1024
    let i := imgOf s img
    if i.st ≠ 0 ∧ i.owner ≠ b then fault
    else if i.st = 0 ∨ i.entries.length ≤ entry then faultBlock s b evPeerRefused []
    else
      let (n, s') := takeSeq s (ownEpa s)
      match queueCall s' img entry (mkPacket { h with seq := BitVec.ofNat 32 n } payload) with
      | some s' => retire s' t
      | none => s
  else
    let (n, s') := takeSeq s (ownEpa s)
    match lardDecode s 0 b (mkPacket { h with seq := BitVec.ofNat 32 n } payload) with
    | none => fault
    | some r =>
      if sendBarred (winOf s r.win) b h then fault
      else match lardCheck s h payload b with
        | some (.reason .badOp) => threadFault s t 27 (h.dst.toNat * 2 ^ 48 + h.addr.toNat)
        | some _ => fault
        | none => lardEnter (if typ = tWRITE then retire s' t else sleepIn s' t (.send (ownEpa s) n rs2)) { r with thread := some t }

/-- TZ.SEND (08 R195); it acts as FENCE W,W, so it waits while the thread has stores to perform (R204). -/
def tzSend (s : State) (t : ThreadRef) (rs1 rs2 : Nat) (ecc : Ecc) : State :=
  if rs1 % 32 ≠ 0 ∨ ¬ ownMem s t rs1 32 then threadFault s t 25 rs1
  else if ecc = .template then threadFault s t 29 rs1
  else
    let h := sendHeader s t (headerOf (plainRead s (placeOf s t rs1) 32))
    let typ := h.typ.toNat
    let b := blockOfThr s t
    if (typ ≠ tWRITE ∧ typ ≠ tREADREQ ∧ typ ≠ tATOMIC ∧ typ ≠ tCALL) ∨ ¬ headerOk h then threadFault s t 27 rs1
    else if ¬ sendTarget s b h ∨ sendTagBad s b h then threadFault s t (sendCause h) (h.dst.toNat * 2 ^ 48 + h.addr.toNat)
    else if (typ = tWRITE ∨ typ = tCALL) ∧ (rs2 % 32 ≠ 0 ∨ ¬ spanOk s t rs2 (32 * h.len.toNat) 0) then threadFault s t 25 rs2
    else if typ = tREADREQ ∧ ¬ spanOk s t rs2 (32 * h.chunk.toNat) 1 then threadFault s t 25 rs2
    else if typ = tATOMIC ∧ ¬ (spanOk s t rs2 32 0 ∧ spanOk s t rs2 32 1) then threadFault s t 25 rs2
    else if 0 < (thrOf s t).posted then s
    else match (if typ = tREADREQ then thrRead s t rs1 0 ecc else thrRead s t rs2 (32 * h.len.toNat) ecc) with
      | (none, s) => s
      | (some payload, s) =>
        if h.mcast = false ∧ h.dst.toNat = ownEpa s then sendOwn s t h payload rs2
        else
          let (n, s) := originate s t.die b h payload (.thread t) (pace := some (paceKey s t))
          if typ = tWRITE ∨ typ = tCALL then retire s t else sleepIn s t (.send h.dst.toNat n rs2)

def execTzSend (t : ThreadRef) (rs1 rs2 : Nat) (s : State) (ecc : Ecc := .ok) : Host.Outcome State Fault Refusal :=
  tzRow t s .send 0 rs1 rs2 fun s => tzSend s t (getX s t rs1) (getX s t rs2) ecc

-- TZ.WAIT (08 R188, R189)

/-- Whether a count slot meets a target: the selected field reaches it, or ovf is set. -/
def waitMet (s : State) (slot : Nat) (packets : Bool) (target : Nat) : Bool :=
  let c := slotOf s slot
  c.ovf || decide (target ≤ (if packets then c.packets else c.bytes))

/-- The end of a TZ.WAIT: rd receives the slot word. -/
def waitEnd (s : State) (t : ThreadRef) (rd slot : Nat) : State := retire (setX s t rd (cslotWord (slotOf s slot))) t

/-- TZ.WAIT (08 R188, R189). -/
def tzWait (s : State) (t : ThreadRef) (rd v target : Nat) : State :=
  let slot := v % 16384
  if bits v 14 49 ≠ 0 then threadFault s t 25 v
  else if ¬ slotInBlock s (blockOfThr s t) slot then threadFault s t 5 (localAddr (0x300000000 + 8 * slot))
  else if waitMet s slot (bit v 63) target then waitEnd s t rd slot
  else sleepIn s t (.wait rd slot (bit v 63) target)

def execTzWait (t : ThreadRef) (rd rs1 rs2 : Nat) (s : State) : Host.Outcome State Fault Refusal :=
  tzRow t s .wait rd rs1 rs2 fun s => tzWait s t rd (getX s t rs1) (getX s t rs2)

/-- TZ_WAIT_WAKE: the count slot that the thread sleeps on has met its target (08 R188). -/
def tzWaitWake (s : State) (t : ThreadRef) : State :=
  match (thrOf s t).sleep with
  | .wait rd slot packets target => if dpRuns s && waitMet s slot packets target then waitEnd s t rd slot else s
  | _ => s

def execTzWaitWake (t : ThreadRef) (s : State) : Host.Outcome State Fault Refusal :=
  onUnit (thrExists t) s fun s => tzWaitWake s t

/-- WAIT_LIMIT: a thread has slept in one TZ.WAIT longer than the image's wait_limit_us, its slot not meeting the target (08 R188, R189). -/
def waitLimit (s : State) (t : ThreadRef) : State :=
  let u := thrOf s t
  match u.sleep with
  | .wait _ slot packets target =>
    if dpRuns s && !waitMet s slot packets target then threadFault (waitUntil s (u.since + 1000 * (imgOf s u.image).waitUs + 1)) t 24 0 else s
  | _ => s

def execWaitLimit (t : ThreadRef) (s : State) : Host.Outcome State Fault Refusal :=
  onUnit (thrExists t) s fun s => waitLimit s t

-- TZ.TAKE (08 R199)

/-- The latest 48-bit step at or below base_step + 3 with given low bits (08 R199). -/
def takeStep (s : State) (h low : Nat) : Nat :=
  let top := (harnOf s h).base + 3
  (top + 2 ^ 48 - (top + 2 ^ 48 - low) % 65536) % 2 ^ 48

/-- The hold of a chunk's result that a rank has not taken. -/
def takeHold (s : State) (h step c rank : Nat) : Option RHold :=
  s.coll.holds.find? fun x => decide (x.h = h ∧ x.step = step ∧ x.chunk = c) && x.waiting.contains (65536 + rank, 0)

/-- Whether a chunk's result has been formed: it is among the formed of an open step, or its step lies below base_step (06 R147). -/
def chunkFormed (s : State) (h step c : Nat) : Bool :=
  (harnOf s h).formed.contains (step, c) || !decide ((step + 2 ^ 48 - (harnOf s h).base) % 2 ^ 48 < 4)

/-- Copy a result to the thread; the copy is the rank's acknowledgement (08 R199, 06 R151). -/
def takeCopy (s : State) (t : ThreadRef) (rd h step c rank dst : Nat) (x : RHold) : State :=
  if ¬ spanOk s t (localAddr dst) x.bytes.length 1 then threadFault s t 7 (localAddr dst)
  else
    let s := plainWrite s none (placeOf s t (localAddr dst)) x.bytes
    retire (setX (holdAcked s h step c (65536 + rank) 0) t rd x.bytes.length) t

/-- Take a formed chunk, or sleep until it is formed; a chunk that the rank has taken raises cause 26, an uncorrectable error in the result hold is
COLL_ECC (06 R160, 10 R262), a corrected one is counted (10 R261). -/
def takeNow (s : State) (t : ThreadRef) (rd h step c rank dst : Nat) (ecc : Ecc) : State :=
  match takeHold s h step c rank with
  | some x =>
    let s := regionEcc s (spillBase s) ecc
    if ecc = .uncorrectable then faultBlock s (harnOwner s h) evCollEcc [x.die, x.slot] else takeCopy s t rd h step c rank dst x
  | none => if chunkFormed s h step c then threadFault s t 26 0 else sleepIn s t (.take rd h step c rank dst)

/-- TZ.TAKE (08 R199). -/
def tzTake (s : State) (t : ThreadRef) (rd v w : Nat) (ecc : Ecc) : State :=
  let h := bits v 0 10
  let c := bits v 32 27
  let rank := bits w 56 8
  if bits v 10 6 ≠ 0 ∨ bits v 59 5 ≠ 0 ∨ bits w 48 8 ≠ 0 then threadFault s t 25 v
  else if ¬ harnLoadedBy s h (blockOfThr s t) ∨ harnMode s h ≠ 0 ∨ rank ∉ galleyRanks s h ∨ chunksOf s h ≤ c then threadFault s t 26 0
  else takeNow s t rd h (takeStep s h (bits v 16 16)) c rank (bits w 0 48) ecc

def execTzTake (t : ThreadRef) (rd rs1 rs2 : Nat) (s : State) (ecc : Ecc := .ok) : Host.Outcome State Fault Refusal :=
  tzRow t s .take rd rs1 rs2 fun s => tzTake s t rd (getX s t rs1) (getX s t rs2) ecc

/-- TZ_TAKE_WAKE: the chunk that the thread waits for has been formed (08 R199). -/
def tzTakeWake (s : State) (t : ThreadRef) (ecc : Ecc) : State :=
  match (thrOf s t).sleep with
  | .take rd h step c rank dst =>
    if dpRuns s && ((takeHold s h step c rank).isSome || chunkFormed s h step c) then takeNow s t rd h step c rank dst ecc else s
  | _ => s

def execTzTakeWake (t : ThreadRef) (s : State) (ecc : Ecc := .ok) : Host.Outcome State Fault Refusal :=
  onUnit (thrExists t) s fun s => tzTakeWake s t ecc

-- TZ.BRAKE, TZ.AXLE, TZ.STEP, TZ.YIELD (08 R188)

/-- TZ.BRAKE: the self-brake, 1 to 64. -/
def tzBrake (s : State) (t : ThreadRef) (v : Nat) : State :=
  if 1 ≤ v ∧ v ≤ 64 then retire (updHub s t.die fun h => { h with pace := Tab.upd {} h.pace (paceKey s t) fun u => { u with rate := v } }) t
  else threadFault s t 25 v

def execTzBrake (t : ThreadRef) (rs1 : Nat) (s : State) : Host.Outcome State Fault Refusal :=
  tzRow t s .brake 0 rs1 0 fun s => tzBrake s t (getX s t rs1)

def execTzAxle (t : ThreadRef) (rd : Nat) (s : State) : Host.Outcome State Fault Refusal :=
  tzRow t s .axle rd 0 0 fun s => retire (setX s t rd s.axle.value) t

def execTzStep (t : ThreadRef) (rd : Nat) (s : State) : Host.Outcome State Fault Refusal :=
  tzRow t s .step rd 0 0 fun s => retire (setX s t rd (blockOf s (blockOfThr s t)).step) t

/-- TZ.YIELD: no issue until every other ready thread of the core has issued once. -/
def tzYield (s : State) (t : ThreadRef) : State :=
  let others := (List.range 4).filter fun k => decide (k ≠ t.thread) && ready s { t with thread := k }
  let s := retire s t
  if others.isEmpty then s else sleepIn s t (.yield others)

/-- TZ_YIELD: TZ.YIELD, or WFI, which executes as it does (08 R186). -/
def execTzYield (t : ThreadRef) (s : State) : Host.Outcome State Fault Refusal := tzRow t s .yield 0 0 0 fun s => tzYield s t

-- Accesses by range (08 R186, R203)

/-- What a span of an access asks of its place: the kind of right (0 read, 1 write, 2 AMO), the alignment, whether it is scalar, the AMO. -/
structure Ask where
  kind   : Nat
  align  : Nat
  scalar : Bool
  op     : Option AmoOp

/-- LR and SC. -/
def Ask.pair (k : Ask) : Bool := decide (k.op = some .lr ∨ k.op = some .sc)

/-- Whether a count slot takes the form of an access: 8 B scalar loads and stores, AMOADD.D and AMOSWAP.D (08 R203). -/
def cslotForm (k : Ask) (n : Nat) : Bool := k.scalar && n == 8 && decide (k.op = none ∨ k.op = some .add ∨ k.op = some .swap)

/-- The fault cause of a span at a place: misaligned (4, 6), access fault (5, 7), memory error (29); none: it is allowed. Another EPA takes no span
on its own (08 R186, R203). -/
def spanFault (s : State) (t : ThreadRef) (a n : Nat) (k : Ask) (ecc : Ecc) : Option Nat :=
  let acc := if k.kind = 0 then 5 else 7
  let mis := if k.kind = 0 then 4 else 6
  let plain := fun (ok : Bool) => if !ok then some acc else if ecc = .uncorrectable then some 29 else none
  let strict := fun (ok : Bool) => if a % max 1 k.align ≠ 0 then some mis else if ok then none else some acc
  match placeOf s t a with
  | .scratch _ => plain (spanIn s t a n)
  | .cmem _ own => plain (spanIn s t a n && (own || !k.pair))
  | .slotMem _ _ _ | .portBuf _ => strict (decide (k.kind = 0) && k.op.isNone && spanIn s t a n)
  | .cslot c _ => strict (cslotForm k n && slotInBlock s (blockOfThr s t) c)
  | .larder l w => strict (!k.pair && (k.op.isNone || n == 4 || n == 8) && thrMay s t l n k.kind w)
  | .remote _ _ => strict false
  | .bad => some acc

/-- Read a span for a load: its bytes, free ones where the manual does not give them (log 7). -/
def spanRead (s : State) (t : ThreadRef) (a n : Nat) : List Byte × State :=
  match placeOf s t a with
  | .scratch k => (plainRead s (.scratch k) n, s)
  | .cmem k own => (plainRead s (.cmem k own) n, s)
  | .slotMem d m off => slotBytes s d m off n
  | .cslot k _ => (leBytes n (cslotWord (slotOf s k)), s)
  | _ => freeBytes s n

/-- Store a count slot word (03 R68, R69). -/
def cslotStore (s : State) (k w : Nat) : State := { s with cslots := Tab.set {} s.cslots k (cslotOfWord w) }

/-- Write a span of scratch, cluster memory or a count slot. -/
def spanWrite (s : State) (t : ThreadRef) (a : Nat) (bs : List Byte) : State :=
  match placeOf s t a with
  | .cslot k _ => cslotStore s k (ofLe bs)
  | p => plainWrite s (some t) p bs

/-- A larder request of a thread over spans: a load or an AMO blocks the thread, a store is posted (08 R203). -/
def thrRequest (s : State) (t : ThreadRef) (kind : LKind) (spans : List (Nat × Nat)) (data : List Byte) (sleep : Option Dest) : State :=
  let r : LReq :=
    { id := 0, kind := kind, pkt := mkPacket (ownHeader s t.die 0 2 (ownEpa s)) [], port := 0, thread := some t, block := blockOfThr s t, win := 64,
      addr := (spans.head?.map Prod.fst).getD 0, len := (spans.map Prod.snd).sum, data := data, left := 0, spans := spans }
  match sleep with
  | some d => lardEnter (sleepIn s t (.load d)) r
  | none => lardEnter (retire (updThr s t fun u => { u with posted := u.posted + 1 }) t) r

/-- The larder address of a span. -/
def spanLarder (s : State) (t : ThreadRef) (a : Nat) : Option Nat :=
  match placeOf s t a with
  | .larder l _ => some l
  | _ => none

/-- A scalar load. -/
def accLoad (s : State) (t : ThreadRef) (d : Dest) (a n : Nat) : State :=
  match spanLarder s t a with
  | some l => thrRequest s t (.gLoad d) [(l, n)] [] (some d)
  | none =>
    let (bs, s) := spanRead s t a n
    retire (loadDest s t d bs) t

/-- A scalar store. -/
def accStore (s : State) (t : ThreadRef) (a : Nat) (bs : List Byte) : State :=
  match spanLarder s t a with
  | some l => thrRequest s t .gStore [(l, bs.length)] bs none
  | none => retire (spanWrite s t a bs) t

/-- An AMO, LR or SC: on a reservation set of 8 B (08 R186). -/
def accAmo (s : State) (t : ThreadRef) (op : AmoOp) (rd a n : Nat) (data : List Byte) : State :=
  let key := resvKey (placeOf s t a)
  match spanLarder s t a with
  | some l => thrRequest s t (.gAmo op rd) [(l, n)] data (some (.x rd true))
  | none =>
    let old := (spanRead s t a n).1
    let back := fun s => retire (loadDest s t (.x rd true) old) t
    match op with
    | .lr => back (updThr s t fun u => { u with resv := key })
    | .sc =>
      let held := decide ((thrOf s t).resv = key ∧ key.isSome)
      let s := if held then spanWrite s t a data else s
      retire (setX (updThr s t fun u => { u with resv := none }) t rd (b2n !held)) t
    | _ => back (spanWrite s t a (leBytes n (atomicInt (amoCode op) (8 * n) (ofLe old) (ofLe data) 0)))

/-- The elements whose bytes go on from the element before, in memory and registers, joined to runs of (position, address, bytes). -/
def joinRuns (n : Nat) : List VElem → List (Nat × Nat × Nat)
  | [] => []
  | e :: es => match joinRuns n es with
    | (p, a, k) :: rs => if p = e.pos + n ∧ a = e.addr + n then (e.pos, e.addr, n + k) :: rs else (e.pos, e.addr, n) :: (p, a, k) :: rs
    | [] => [(e.pos, e.addr, n)]

/-- The elements of a vector access on places that answer at once. -/
def vecNow (s : State) (t : ThreadRef) (isLoad : Bool) (n : Nat) (es : List VElem) : State :=
  es.foldl (fun s e =>
    if isLoad then
      let (bs, s) := spanRead s t e.addr n
      loadDest s t (.v [(e.pos, n)]) bs
    else spanWrite s t e.addr (vecData (thrOf s t) n [e])) s

/-- A vector access to the module's memories: larder elements go as one request, the others at once. -/
def accVec (s : State) (t : ThreadRef) (isLoad : Bool) (n : Nat) (es : List VElem) : State :=
  let far := es.filter fun e => (spanLarder s t e.addr).isSome
  let s := vecNow s t isLoad n (es.filter fun e => (spanLarder s t e.addr).isNone)
  if far.isEmpty then retire s t
  else
    let runs := joinRuns n far
    let spans := runs.map fun r => ((spanLarder s t r.2.1).getD 0, r.2.2)
    if isLoad then
      let d := Dest.v (runs.map fun r => (r.1, r.2.2))
      thrRequest s t (.gLoad d) spans [] (some d)
    else thrRequest s t .gStore spans (vecData (thrOf s t) n far) none

/-- The address and length of an access to another EPA: vector, unit-stride, its elements in one run of addresses, multiples of 32, at most 2,048 B. -/
def remoteRun (a : Access) : Option (Nat × Nat) :=
  match a with
  | .vec _ n true _ (e :: es) =>
    let len := n * (es.length + 1)
    let row := (enum (e :: es)).all fun x => decide (x.2.addr = e.addr + n * x.1)
    need (row && decide (e.addr % 32 = 0 ∧ len % 32 = 0 ∧ len ≤ 2048)) (e.addr, len)
  | _ => none

/-- A vector access to another EPA: one READ_REQ, or one WRITE with tzctag (08 R203). -/
def accRemote (s : State) (t : ThreadRef) (e off len : Nat) (isLoad : Bool) (n : Nat) (es : List VElem) : State :=
  let b := blockOfThr s t
  let h := fun typ => { ownHeader s t.die typ 0 e with addr := BitVec.ofNat 48 off, step := BitVec.ofNat 16 (blockOf s b).step }
  if isLoad then
    let (_, s) := originate s t.die b { h tREADREQ with chunk := BitVec.ofNat 32 (len / 32) } [] (.thread t) (pace := some (paceKey s t))
    sleepIn s t (.load (.v (es.map fun x => (x.pos, n))))
  else
    let w := { h tWRITE with ctag := BitVec.ofNat 16 (thrOf s t).ctag }
    retire (originate s t.die b w (vecData (thrOf s t) n es) (.thread t) (pace := some (paceKey s t))).2 t

/-- The fault of an access to another EPA (08 R203, 02 R50). -/
def remoteFault (s : State) (t : ThreadRef) (e : Nat) (a : Access) (addr align : Nat) (isLoad : Bool) : Option Nat :=
  if addr % max 1 align ≠ 0 then some (if isLoad then 4 else 6)
  else if (remoteRun a).isSome && isAccel e && decide (blockOfEpa s e = some (blockOfThr s t)) then none
  else some (if isLoad then 5 else 7)

/-- The first element of a vector access that faults: its index, cause and address. -/
def vecFault (s : State) (t : ThreadRef) (a : Access) (isLoad : Bool) (n : Nat) (ecc : Ecc) (es : List VElem) : Option (Nat × Nat × Nat) :=
  es.findSome? fun e =>
    (match placeOf s t e.addr with
      | .remote epa _ => remoteFault s t epa a e.addr n isLoad
      | _ => spanFault s t e.addr n ⟨b2n !isLoad, n, false, none⟩ ecc).map fun c => (e.idx, c, e.addr)

/-- A vector access: its first fault, or all its elements; with a fault past element 0, a fault-only-first load ends there and vl is its index. -/
def accessVec (s : State) (t : ThreadRef) (isLoad : Bool) (n : Nat) (unit ff : Bool) (es : List VElem) (ecc : Ecc) : State :=
  let a := Access.vec isLoad n unit ff es
  match vecFault s t a isLoad n ecc es with
  | some (i, c, addr) =>
    if ff && decide (0 < i) then
      accVec (updThr s t fun u => { u with vl := i }) t isLoad n (es.filter fun e => decide (e.idx < i))
    else threadFault s t c addr
  | none =>
    match (es.head?).map fun e => placeOf s t e.addr with
    | some (.remote epa off) => accRemote s t epa off (n * es.length) isLoad n es
    | _ => accVec s t isLoad n es

/-- The fault cause of a scalar span: another EPA takes none. -/
def scalarFault (s : State) (t : ThreadRef) (a n : Nat) (kind : Nat) (op : Option AmoOp) (ecc : Ecc) : Option Nat :=
  spanFault s t a n ⟨kind, n, true, op⟩ ecc

/-- GALLEY_ACCESS (08 R203, R204). -/
def galleyAccess (s : State) (t : ThreadRef) (a : Access) (ecc : Ecc) : State :=
  let orFault := fun (addr : Nat) (c : Option Nat) (run : State) => match c with | some c => threadFault s t c addr | none => run
  match a with
  | .load d addr n => orFault addr (scalarFault s t addr n 0 none ecc) (accLoad s t d addr n)
  | .store addr bs => orFault addr (scalarFault s t addr bs.length 1 none ecc) (accStore s t addr bs)
  | .amo op rd addr n bs => orFault addr (scalarFault s t addr n (if op = .lr then 0 else 2) (some op) ecc) (accAmo s t op rd addr n bs)
  | .vec isLoad n unit ff es => accessVec s t isLoad n unit ff es ecc

/-- The address and the bytes of an access: of its first element and of all, where it has elements. -/
def accessSpan (a : Access) : Nat × Nat :=
  match a with
  | .load _ addr n | .amo _ _ addr n _ => (addr, n)
  | .store addr bs => (addr, bs.length)
  | .vec _ n _ _ es => (((es.head?).map VElem.addr).getD 0, n * es.length)

/-- The row of the access at a thread's pc, with its address and its bytes. -/
def execGalleyAccess (t : ThreadRef) (addr size : Nat) (ecc : Ecc) (s : State) : Host.Outcome State Fault Refusal :=
  issueRow t s fun
    | .mem a run => need (decide (accessSpan a = (addr, size))) fun s => galleyAccess (run s) t a ecc
    | _ => none

/-- FENCE: with W in its predecessor set it waits for the thread's larder stores (08 R204). -/
def execFence (t : ThreadRef) (predW : Bool) (s : State) : Host.Outcome State Fault Refusal :=
  issueRow t s fun
    | .fence w => need (decide (w = predW)) fun s => if predW ∧ 0 < (thrOf s t).posted then s else retire s t
    | _ => none

-- Services and exceptions (08 R191, R192)

/-- Remove one thread of a launch; the queue entry is freed with the last (08 R198). -/
def launchLeft (s : State) (img id : Nat) : State :=
  updImg s img fun i => { i with queue := (i.queue.map fun l => if l.started ∧ l.id = id then { l with left := l.left - 1 } else l).filter fun l =>
    !(l.started && decide (l.left = 0)) }

/-- EXIT (08 R191, R198): the exit code is recorded and the context is free; its posted stores are performed without it. -/
def exitThread (s : State) (t : ThreadRef) : State :=
  let u := thrOf s t
  let code := getX s t 10
  let s := updThr s t fun _ => { exitCode := some code }
  let free := fun (r : LReq) => if r.thread = some t ∧ r.kind = .gStore then { r with thread := none } else r
  let s := { s with lard := { s.lard with reqs := s.lard.reqs.map free } }
  launchLeft s u.image u.launch

/-- EXIT: ecall EXIT, or a return through ra. -/
def execExit (t : ThreadRef) (s : State) : Host.Outcome State Fault Refusal :=
  issueRow t s fun
    | .exit => some fun s => exitThread s t
    | _ => none

/-- LOG (08 R191): GALLEY_LOG with the 32 B at a0, at most one per image per 1 ms; a0 receives 0. -/
def logCall (s : State) (t : ThreadRef) (ecc : Ecc) : State :=
  let a := getX s t 10
  let i := (thrOf s t).image
  match placeOf s t a with
  | .larder _ _ => threadFault s t 5 a
  | p =>
    if ¬ spanOk s t a 32 0 then threadFault s t 5 a
    else if ecc = .uncorrectable then threadFault s t 29 a
    else
      let due := match (imgOf s i).logAt with | some x => decide (x + 1000000 ≤ s.now) | none => true
      let s := if due then emitX (updImg s i fun x => { x with logAt := some s.now }) evGalleyLog (blockOfThr s t) [] (plainRead s p 32)
               else updImg s i fun x => { x with logDrop := x.logDrop + 1 }
      resume (setX s t 10 0) t

def execLog (t : ThreadRef) (s : State) (ecc : Ecc := .ok) : Host.Outcome State Fault Refusal :=
  issueRow t s fun
    | .log => some fun s => logCall s t ecc
    | _ => none

/-- EBREAK (08 R191): the thread halts for the debugger of its image, or faults. -/
def ebreakCall (s : State) (t : ThreadRef) : State :=
  if (imgOf s (thrOf s t).image).st = 2 then updThr s t fun u => { u with halted := true } else threadFault s t 3 (thrOf s t).pc

def execEbreak (t : ThreadRef) (s : State) : Host.Outcome State Fault Refusal :=
  issueRow t s fun
    | .ebreak => some fun s => ebreakCall s t
    | _ => none

/-- The fault of an instruction fetch or of the instruction fetched: outside scratch and own cluster memory cause 1, an uncorrectable error in the
cache line cause 29, an illegal one cause 2 (08 R186, R187, R191). -/
def fetchCause (m : Meaning) (ecc : Ecc) : Option Nat :=
  match m with
  | .noFetch => some 1
  | .illegal => some (if ecc = .uncorrectable then 29 else 2)
  | _ => if ecc = .uncorrectable then some 29 else none

/-- ILLEGAL_INSTRUCTION, with the word at pc, 0 where none is fetched; the runtime's exit stub is no cache line of the program. -/
def execIllegalInstruction (t : ThreadRef) (word : Nat) (ecc : Ecc) (s : State) : Host.Outcome State Fault Refusal :=
  issueRow t s fun m => if word ≠ (fetchIns s t).getD 0 ∨ (thrOf s t).pc = (thrOf s t).stub then none else (fetchCause m ecc).map fun c s => threadFault s t c (thrOf s t).pc

-- Launch groups (08 R198, R201)

/-- The context `c` of a cluster key. -/
def ctxRef (cl c : Nat) : ThreadRef := ⟨cl / 98, cl % 98, c / 4, c % 4⟩

/-- The free contexts of a cluster in ascending order. -/
def freeCtx (s : State) (cl : Nat) : List Nat := (List.range 256).filter fun c => !(thrOf s (ctxRef cl c)).live

/-- The cluster that the head group takes, and whether more than one was eligible (08 R201). -/
def groupCluster (s : State) (i : Image) (l : Launch) (n : Nat) : Option (Nat × Bool) :=
  let ok := i.clusters.filter fun c => decide (n ≤ (freeCtx s c).length)
  if steady s then
    match i.clusters[l.key % max 1 i.clusters.length]? with
    | some c => if n ≤ (freeCtx s c).length then some (c, false) else none
    | none => none
  else (minBy (fun c => -((freeCtx s c).length : Int)) ok).map fun c => (c, decide (1 < ok.length))

/-- The registers of a starting thread (08 R198, table "Thread start state"); ra, the runtime's exit stub, is a free value (log 7). -/
def startRegs (i : Image) (l : Launch) (at_ ra c k n : Nat) : Tab U64 :=
  let set := fun (x : Tab U64) (r v : Nat) => Tab.set 0 x r (BitVec.ofNat 64 v)
  let pay := (l.payload.map List.length).getD 0
  [(1, ra), (2, localAddr 0x300000 - c * i.stack), (3, i.gp), (10, l.a0), (11, l.a1), (12, l.a2),
   (13, if l.payload.isSome then at_ else 0), (14, pay), (15, k), (16, n)].foldl (fun x e => set x e.1 e.2) []

/-- Start a group on a cluster: the lowest free contexts (08 R201). -/
def startGroup (s : State) (img : Nat) (i : Image) (l : Launch) (cl pc n : Nat) : State :=
  let (k, s) := draw s
  let ctxs := enum ((freeCtx s cl).take n)
  let s := ctxs.foldl (fun s e => updThr s (ctxRef cl e.2) fun _ =>
    { live := true, image := img, entry := l.entry, launch := l.id, run := k, pc := pc,
      stub := 2 * (Config.freeWord k % 2 ^ 63),
      x := startRegs i l (lardGalley (entryAddr i l.id + 32)) (2 * (Config.freeWord k % 2 ^ 63)) e.2 e.1 n }) s
  updImg s img fun i => { i with queue := i.queue.map fun x => if x.id = l.id then { x with started := true, left := n } else x }

/-- LAUNCH_GROUP_START (08 R201): the group at the head of an image's queue starts where a cluster has room for it; a placement with more than one
eligible cluster counts 1 in the galley choice counter. An uncorrectable error in a call's queue entry acts as a galley fault of the image, LARDER_UE
(10 R262). -/
def launchStart (s : State) (img : Nat) (ecc : Ecc) : State :=
  let i := imgOf s img
  match i.queue.find? fun l => !l.started with
  | none => s
  | some l =>
    match i.entries[l.entry]? with
    | none => s
    | some (pc, n) =>
      match groupCluster s i l n with
      | none => s
      | some (cl, many) =>
        match (if l.payload.isSome then eccRead s (entryAddr i l.id) (32 + (l.payload.map List.length).getD 0) i.owner ecc else (some [], s)) with
        | (none, s) => s
        | (some _, s) =>
          startGroup (if many then updHub s (cl / 98) fun h => { h with galley := (h.galley + 1) % 2 ^ 64 } else s) img i l cl pc n

def execLaunchGroupStart (image : Nat) (s : State) (ecc : Ecc := .ok) : Host.Outcome State Fault Refusal :=
  onUnit (decide (image < 1024)) s fun s => if dpRuns s then launchStart s image ecc else s

end Sys2Proof.Machine
end

