-- ==== Sys2Proof/Machine/Engines.lean ====
section
/-! DEFINITION. The fixed-function engines (09): acceptance, the wait pool, execution and completion of descriptors. An operation reads and
writes its data in its own row; its done slot is updated by DESCRIPTOR_COMPLETE (09 R214, R215). -/

namespace Sys2Proof.Machine

-- Places and fields (09 R209, R210)

/-- Whether a cluster lies on the descriptor's die and holds an image of its block (09 R210). -/
def engCluster (s : State) (d : Desc) (c : Nat) : Bool :=
  decide (c / 98 = d.t.die) && (match Tab.get none s.clusters c with | some i => decide ((imgOf s i).owner = d.block) | none => false)

/-- Whether a span lies where an engine may read (`wr` 0) or write (`wr` 1) for a descriptor; a global address never does (09 R210). -/
def engOk (s : State) (d : Desc) (a n wr : Nat) : Bool :=
  match placeOf s d.t a with
  | .scratch _ => spanIn s d.t a n
  | .cmem k _ => spanIn s d.t a n && (List.range ((k % 2097152 + (n - 1)) / 2097152 + 1)).all fun i => engCluster s d (k / 2097152 + i)
  | .larder l none => lardMay s d.block l n wr none
  | _ => false

/-- A little-endian field of a descriptor. -/
def fld (d : Desc) (off n : Nat) : Nat := getLe d.bytes off n

def opOf (d : Desc) : Nat := fld d 0 1
def doneEn (d : Desc) : Bool := bit (fld d 1 1) 0
def waitEn (d : Desc) : Bool := bit (fld d 1 1) 1

/-- Operations of each engine (09 R208). -/
def opCount (e : Nat) : Nat := match e with | 0 | 1 | 2 => 4 | 4 => 3 | _ => 1

/-- Whether the header's own fields break 09 R209. -/
def headBad (d : Desc) : Bool :=
  decide (opCount d.engine ≤ opOf d ∨ 8 ≤ fld d 1 1 ∨ 16384 ≤ fld d 2 2 ∨ 16384 ≤ fld d 4 2 ∨ fld d 6 2 ≠ 0 ∨ 2 ^ 40 ≤ fld d 8 8) ||
  (!doneEn d && decide (fld d 2 2 ≠ 0)) || (!waitEn d && decide (fld d 4 2 ≠ 0 ∨ fld d 8 8 ≠ 0))

/-- Bytes of a vector of `n` elements: MX under 06 R139 with its padding, the others dense (09 R222, R229). -/
def vecSize (f n : Nat) : Nat := if isMx f then chunkBytes f n else denseBytes f n

/-- Whether a format code is valid (06 R138). -/
def fmtOk (f : Nat) : Bool := decide (f ≤ 12)

-- CONTRIB (09 R219, R220)

def cHarn (d : Desc) : Nat := fld d 16 2 % 1024
def cDist (s : State) (d : Desc) : Nat := (fld d 20 2 + 65536 - (harnOf s (cHarn d)).base % 65536) % 65536

def contribBad (s : State) (d : Desc) : Bool :=
  let h := cHarn d
  decide (1024 ≤ fld d 16 2 ∨ fld d 19 1 ≠ 0 ∨ fld d 22 2 ≠ 0 ∨ fld d 32 8 % 32 ≠ 0) || !zeroAt d.bytes 40 24 ||
  !harnLoadedBy s h d.block || !(galleyRanks s h).contains (fld d 18 1) || decide (4 ≤ cDist s d ∨ chunksOf s h ≤ fld d 24 4) ||
  (!sumChecked s h && decide (fld d 28 4 ≠ 0))

-- ACC (09 R221)

def accN (d : Desc) : Nat := fld d 20 4
def accFmt (d : Desc) : Nat := fld d 16 1 % 16

def accBad (d : Desc) : Bool :=
  let op := opOf d
  let rnd := fld d 17 1
  decide (16 ≤ fld d 16 1 ∨ 2 ≤ rnd ∨ 1024 ≤ fld d 18 2 ∨ accN d = 0 ∨ 65536 < accN d ∨ fld d 40 8 % 8 ≠ 0 ∨ fld d 54 2 ≠ 0 ∨ 2 ^ 36 ≤ fld d 56 8) ||
  (if op = 1 then decide (fld d 16 1 ≠ 0) else !fmtOk (accFmt d) || (isMx (accFmt d) && decide (accN d % 32 ≠ 0))) ||
  decide (op ≠ 3 ∧ rnd ≠ 0) || decide (op ≠ 2 ∧ fld d 24 8 ≠ 0) || decide (op ≠ 3 ∧ fld d 32 8 ≠ 0) ||
  decide (rnd = 0 ∧ (fld d 18 2 ≠ 0 ∨ fld d 48 6 ≠ 0 ∨ fld d 56 8 ≠ 0))

-- Sieve (09 R225)

def sieveRec (d : Desc) : Nat := 4 * 2 ^ fld d 18 1
def keySize (kt : Nat) : Nat := if kt = 1 ∨ kt = 2 then 2 else 4
def sieveN (d : Desc) : Nat := fld d 20 4
def sieveK (d : Desc) : Nat := fld d 24 4

def sieveBad (d : Desc) : Bool :=
  let op := opOf d
  let kt := fld d 16 1
  let off := fld d 19 1
  !(kt == 0 || kt == 1 || kt == 2 || kt == 12 || kt == 13) ||
  decide (2 ≤ fld d 17 1 ∨ 4 ≤ fld d 18 1 ∨ off % keySize kt ≠ 0 ∨ sieveRec d < off + keySize kt ∨ sieveN d = 0 ∨ 65536 < sieveN d ∨
    2097152 < sieveN d * sieveRec d) || !zeroAt d.bytes 48 16 ||
  (if op = 0 then decide (sieveK d = 0 ∨ 1024 < sieveK d) else if op = 3 then decide (sieveN d ≤ sieveK d) else decide (sieveK d ≠ 0)) ||
  decide (op ≠ 2 ∧ fld d 28 4 ≠ 0)

-- Tongs (09 R227)

def tEl (d : Desc) : Nat := fld d 16 2
def tCount (d : Desc) : Nat := fld d 20 4
def tShift (d : Desc) : Nat := fld d 18 1
def tFirst (d : Desc) : Nat := fld d 48 4
def tTpp (d : Desc) : Nat := 2 ^ tShift d / max 1 (tEl d)

def tongsBad (d : Desc) : Bool :=
  decide (fld d 19 1 ≠ 0 ∨ tCount d = 0 ∨ 1048576 < tCount d ∨ tEl d = 0 ∨ fld d 52 4 ≠ 0) || !zeroAt d.bytes 56 8 ||
  (if opOf d < 2 then decide (2048 < tEl d ∨ tShift d ≠ 0 ∨ tFirst d = 0)
   else decide (tEl d % 32 ≠ 0 ∨ tShift d < 12 ∨ 21 < tShift d ∨ 2 ^ tShift d % max 1 (tEl d) ≠ 0 ∨ fld d 24 8 ≠ 0))

-- Whisk (09 R229)

def wIn (d : Desc) : Nat := fld d 16 1 % 16
def wOut (d : Desc) : Nat := fld d 16 1 / 16
def wShift (d : Desc) : Int := signed 16 (fld d 40 2)

def whiskBad (d : Desc) : Bool :=
  let n := fld d 20 4
  let rnd := fld d 17 1
  !fmtOk (wIn d) || !fmtOk (wOut d) || decide (2 ≤ rnd ∨ 1024 ≤ fld d 18 2 ∨ n = 0 ∨ 1048576 < n ∨ wShift d < -64 ∨ 64 < wShift d ∨
    fld d 42 6 ≠ 0 ∨ fld d 54 2 ≠ 0 ∨ 2 ^ 36 ≤ fld d 56 8) ||
  ((isMx (wIn d) || isMx (wOut d)) && decide (n % 32 ≠ 0)) ||
  decide (rnd = 0 ∧ (fld d 18 2 ≠ 0 ∨ fld d 48 6 ≠ 0 ∨ fld d 56 8 ≠ 0))

-- Check engine (09 R231)

def checkBad (d : Desc) : Bool :=
  let op := opOf d
  let n := fld d 20 4
  decide (fld d 18 2 ≠ 0 ∨ n = 0) || !zeroAt d.bytes 40 24 ||
  (if op = 2 then !fmtOk (fld d 16 1) || decide (n % 32 ≠ 0 ∨ 1024 < n) else decide (fld d 16 1 ≠ 0)) ||
  (if op = 1 then decide (fld d 17 1 = 0 ∨ 64 < fld d 17 1) else decide (fld d 17 1 ≠ 0))

-- PUT (09 R233, R235)

def putDst (d : Desc) : Nat := fld d 16 2
def putMcast (d : Desc) : Bool := decide (fld d 18 1 = 1)
def putBytes (d : Desc) : Nat := fld d 20 4

def putBad (s : State) (d : Desc) : Bool :=
  decide (2 ≤ fld d 18 1 ∨ fld d 19 1 ≠ 0 ∨ putBytes d % 32 ≠ 0 ∨ putBytes d = 0 ∨ 2 ^ 30 < putBytes d ∨ fld d 24 8 % 32 ≠ 0 ∨ fld d 32 6 % 32 ≠ 0) ||
  bit (fld d 38 2) 14 || !zeroAt d.bytes 40 24 ||
  (if putMcast d then decide (4096 ≤ putDst d) else decide (putDst d = ownEpa s))

-- Acceptance (09 R211, R212)

/-- Whether a descriptor's own fields break their ranges, alignments or rsvd bits (09 R211, cause 25). -/
def fieldsBad (s : State) (d : Desc) : Bool :=
  headBad d || (match d.engine, opOf d with
    | 0, 0 => contribBad s d
    | 0, _ => accBad d
    | 1, _ => sieveBad d
    | 2, _ => tongsBad d
    | 3, _ => whiskBad d
    | 4, _ => checkBad d
    | _, _ => putBad s d)

/-- The spans that a descriptor reads whatever its data; of a page list, the entries of its tokens. -/
def readSpans (s : State) (d : Desc) : List (Nat × Nat) :=
  let op := opOf d
  match d.engine with
  | 0 =>
    if op = 0 then [(fld d 32 8, contribBytes s (cHarn d) (fld d 24 4))]
    else if op = 1 then []
    else if op = 2 then [(fld d 24 8, vecSize (accFmt d) (accN d)), (fld d 40 8, 40 * accN d)]
    else [(fld d 40 8, 40 * accN d)]
  | 1 => [(fld d 32 8, sieveN d * sieveRec d)]
  | 2 =>
    (if op < 2 then [(fld d 32 8, 4 * tCount d)]
     else
      let j := tFirst d / max 1 (tTpp d)
      [(fld d 32 8 + 8 * j, 8 * ((tFirst d + tCount d - 1) / max 1 (tTpp d) + 1 - j))]) ++
    (if op = 1 ∨ op = 3 then [(fld d 40 8, tCount d * tEl d)] else [])
  | 3 => [(fld d 24 8, vecSize (wIn d) (fld d 20 4))]
  | 4 => [(fld d 24 8, if op = 2 then chunkBytes (fld d 16 1) (fld d 20 4) else fld d 20 4)]
  | _ => [(fld d 24 8, putBytes d)]

/-- The destinations whose extent a descriptor gives (09 R211); THRESH and SCATTER give their first byte. -/
def writeSpans (d : Desc) : List (Nat × Nat) :=
  let op := opOf d
  match d.engine with
  | 0 => if op = 3 then [(fld d 32 8, vecSize (accFmt d) (accN d))] else []
  | 1 =>
    [(fld d 40 8, if op = 0 then min (sieveK d) (sieveN d) * sieveRec d else if op = 1 then sieveN d * sieveRec d
      else if op = 2 then 1 else sieveRec d)]
  | 2 => if op = 1 then [(fld d 24 8, 1)] else if op = 3 then [] else [(fld d 40 8, tCount d * tEl d)]
  | 3 => [(fld d 32 8, vecSize (wOut d) (fld d 20 4))]
  | 4 => [(fld d 32 8, if op = 0 then 8 else if op = 1 then fld d 17 1 else 4)]
  | _ => []

/-- The sources, lists and accumulators that acceptance checks, each with the right it needs (09 R211, cause 5): a page list and a GATHER's base by
their first byte too, and an accumulator that is written for writing. -/
def sourceSpans (s : State) (d : Desc) : List (Nat × Nat × Nat) :=
  (readSpans s d).map (fun x => (x.1, x.2, 0)) ++
  (match d.engine, opOf d with
   | 0, 1 | 0, 2 => [(fld d 40 8, 40 * accN d, 1)]
   | 2, 0 => [(fld d 24 8, 1, 0)]
   | 2, 2 | 2, 3 => [(fld d 32 8, 8, 0)]
   | _, _ => [])

/-- Whether PUT's target lies outside the block (09 R235). -/
def putOutside (s : State) (d : Desc) : Bool :=
  decide (d.engine = 5) &&
    (let v := b2n (stampOf s d.t.die)
     if putMcast d then !mcastValid s v (putDst d) || decide (mcastOwner s v (putDst d) ≠ d.block)
     else decide (blockOfEpa s (putDst d) ≠ some d.block))

/-- The fault that validation of a descriptor raises: cause and address (09 R211, R235). -/
def acceptFault (s : State) (d : Desc) (at_ : Nat) : Option (Nat × Nat) :=
  if fieldsBad s d then some (25, at_)
  else match (sourceSpans s d).find? fun x => !engOk s d x.1 x.2.1 x.2.2 with
    | some x => some (5, x.1)
    | none => match (writeSpans d).find? fun x => !engOk s d x.1 x.2 1 with
      | some x => some (7, x.1)
      | none =>
        if putOutside s d then some (7, putDst d * 2 ^ 48 + fld d 32 6)
        else if (doneEn d ∧ ¬ slotInBlock s d.block (fld d 2 2)) ∨ (waitEn d ∧ ¬ slotInBlock s d.block (fld d 4 2)) then some (5, at_)
        else none

/-- Whether the place a descriptor needs has room (09 R212), and CONTRIB's hold at 90 % spill fill (06 R153). -/
def acceptRoom (s : State) (d : Desc) : Bool :=
  (if waitEn d then decide ((hubOf s d.t.die).waitPool.length < 256) else decide ((engOf s d.t.die d.engine).queue.length < 64)) &&
  !(decide (d.engine = 0 ∧ opOf d = 0) && decide (90 ≤ spillPct s))

/-- The descriptor that a thread submits to an engine, with its address; its PUTs leave under the self-brake of the group that submits it. -/
def submitted (s : State) (e : Nat) (t : ThreadRef) : Option (Desc × Nat) :=
  match (thrOf s t).sleep with
  | .submit e' a =>
    if e' = e ∧ (thrOf s t).posted = 0 then
      some ({ bytes := plainRead s (placeOf s t a) 64, engine := e, t := t, image := (thrOf s t).image, block := blockOfThr s t,
              at_ := s.now, id := s.descId, pace := paceKey s t }, a)
    else none
  | _ => none

/-- Threads of a die in order of submission, the lowest context first among equals (09 R212). -/
def submitters (s : State) (die : Nat) : List ThreadRef :=
  (sortBy (fun a b => decide (a.2.since ≤ b.2.since)) (s.thr.filter fun e => decide ((thrRef e.1).die = die))).map fun e => thrRef e.1

/-- DESCRIPTOR_ACCEPT (09 R211, R212): the first submitting thread whose place has room; it wakes or faults. The engine copies the 64 B; an
uncorrectable error there is a fault of the thread's (08 R191) or of the larder (10 R262). -/
def descAccept (s : State) (die e : Nat) (ecc : Ecc) : State :=
  match ((submitters s die).filterMap (submitted s e)).find? fun x => acceptRoom s x.1 with
  | none => s
  | some (d, a) =>
    match thrRead s d.t a 64 ecc with
    | (none, s) => s
    | (some _, s) =>
      match acceptFault s d a with
      | some (c, x) => threadFault s d.t c x
      | none =>
        let s := retire { s with descId := s.descId + 1 } d.t
        if waitEn d then updHub s die fun h => { h with waitPool := h.waitPool ++ [d] }
        else updEng s die e fun g => { g with queue := g.queue ++ [d] }

def execDescriptorAccept (die engine : Nat) (s : State) (ecc : Ecc := .ok) : Host.Outcome State Fault Refusal :=
  onUnit (decide (die < 4 ∧ engine < 6)) s fun s => if dpRuns s then descAccept s die engine ecc else s

-- The wait pool (09 R213, R217)

/-- Whether a waiting descriptor's slot has reached its value (09 R213). -/
def waitDone (s : State) (d : Desc) : Bool :=
  let c := slotOf s (fld d 4 2)
  decide (fld d 8 8 ≤ (if bit (fld d 1 1) 2 then c.packets else c.bytes))

/-- DESCRIPTOR_WAIT_RELEASE (09 R213): the first waiting descriptor whose slot has reached its value joins its engine's queue. -/
def waitRelease (s : State) (die : Nat) : State :=
  match (hubOf s die).waitPool.find? fun d => waitDone s d && decide ((engOf s die d.engine).queue.length < 64) with
  | none => s
  | some d =>
    let s := updHub s die fun h => { h with waitPool := h.waitPool.erase d }
    updEng s die d.engine fun g => { g with queue := g.queue ++ [d], released := (g.released + 1) % 2 ^ 32 }

def execDescriptorWaitRelease (die : Nat) (s : State) : Host.Outcome State Fault Refusal :=
  onUnit (decide (die < 4)) s fun s => if dpRuns s then waitRelease s die else s

/-- A fault found while a descriptor executes (09 R217). -/
def engFault (s : State) (d : Desc) (cause addr : Nat) : State :=
  let s := updEng s d.t.die d.engine fun g => { g with faults := satInc 16 g.faults }
  faultBlock s d.block evEngineFault [d.engine, d.t.die, opOf d, cause, d.t.die, d.t.cluster, d.t.core, d.t.thread, d.image, addr]

/-- ENGINE_WAIT_LIMIT (09 R217, cause 4): a descriptor has waited longer than its image's wait_limit_us. -/
def engWaitLimit (s : State) (die : Nat) : State :=
  match minBy (fun d => ((d.at_ + 1000 * (imgOf s d.image).waitUs : Nat) : Int)) ((hubOf s die).waitPool.filter fun d => !waitDone s d) with
  | some d => engFault (waitUntil s (d.at_ + 1000 * (imgOf s d.image).waitUs + 1)) d 4 0
  | none => s

def execEngineWaitLimit (die : Nat) (s : State) : Host.Outcome State Fault Refusal :=
  onUnit (decide (die < 4)) s fun s => if dpRuns s then engWaitLimit s die else s

-- Completion (09 R208, R215)

/-- Whether a PUT still has packets that await an acknowledgement. -/
def putPending (s : State) (die id : Nat) : Bool :=
  (hubOf s die).held.any (fun x => decide (x.purpose = .put die id)) || s.e2e.out.any fun o => decide (o.purpose = .put die id)

/-- DESCRIPTOR_COMPLETE (09 R215): the done slot is updated once; `cycles` is what the execution took (17 R423). -/
def descComplete (s : State) (die e cycles : Nat) : State :=
  match (engOf s die e).exec with
  | none => s
  | some (d, n) =>
    if putPending s die d.id then s
    else
      let s := updEng s die e fun g =>
        { g with exec := none, cycles := (g.cycles + cycles) % 2 ^ 64, done := (g.done + 1) % 2 ^ 32 }
      if doneEn d then countPlaced s d.block (fld d 2 2) n 1 else s

def execDescriptorComplete (die engine cycles : Nat) (s : State) : Host.Outcome State Fault Refusal :=
  onUnit (decide (die < 4 ∧ engine < 6)) s fun s => if dpRuns s then descComplete s die engine cycles else s

-- Execution

/-- The descriptor at the front of an idle engine's queue, where it has an operation. -/
def engTake (s : State) (die e op : Nat) : Option Desc :=
  let g := engOf s die e
  match g.exec, g.queue with
  | none, d :: _ => if opOf d = op ∧ dpRuns s then some d else none
  | _, _ => none

/-- The descriptor has been taken and writes `n` bytes that its completion counts. -/
def engRun (s : State) (d : Desc) (n : Nat) : State :=
  updEng s d.t.die d.engine fun g => { g with queue := g.queue.drop 1, exec := some (d, n) }

/-- Bytes that an engine reads. -/
def engRead (s : State) (d : Desc) (a n : Nat) : List Byte := plainRead s (placeOf s d.t a) n

/-- Store an engine's output. -/
def engWrite (s : State) (d : Desc) (a : Nat) (bs : List Byte) : State := plainWrite s none (placeOf s d.t a) bs

/-- The galley address of the first larder unit with an uncorrectable error that a span of `n` bytes from `a` meets. -/
def engBad (s : State) (d : Desc) (x : Nat × Nat) : Option Nat :=
  match placeOf s d.t x.1 with
  | .larder l _ => (badIn s l x.2).map fun u => x.1 + (u - l)
  | _ => none

/-- Count what ECC found at a galley address; an uncorrectable error of the larder is reported with LARDER_UE (10 R261, R262). -/
def engEcc (s : State) (d : Desc) (a : Nat) (ecc : Ecc) : State :=
  match placeOf s d.t a, ecc with
  | .larder l _, .corrected => ceCount s l
  | .larder l _, .uncorrectable => emitB (ueCount s l) d.block evLarderUe (ueItems s (l / 32 * 32))
  | _, _ => s

/-- An uncorrectable error at an address that an engine reads (09 R217, cause 1). -/
def engUe (s : State) (d : Desc) (a : Nat) : State := engFault (engEcc s d a .uncorrectable) d 1 a

/-- An operation on the front descriptor: uncorrectable data read faults (09 R217, cause 1), else `body` runs. A new error of the row stands in the
first byte that the operation reads (log 13). -/
def engTurn (die e op : Nat) (ecc : Ecc) (body : State → Desc → State) (s : State) : State :=
  match engTake s die e op with
  | none => s
  | some d =>
    let rs := readSpans s d
    match rs.findSome? (engBad s d), rs with
    | some a, _ => engUe s d a
    | none, [] => body s d
    | none, x :: _ => if ecc = .uncorrectable then engUe s d x.1 else body (engEcc s d x.1 ecc) d

/-- The row of an operation. -/
def engRow (die e op : Nat) (ecc : Ecc) (s : State) (body : State → Desc → State) : Host.Outcome State Fault Refusal :=
  onUnit (decide (die < 4)) s (engTurn die e op ecc body)

-- Ladle (09 R220, R222)

/-- CONTRIB (09 R220): an arrival at the root of the chunk's tree; it waits while the spill region has no room for it. -/
def runContrib (s : State) (d : Desc) (checks : List LadleCheck) : State :=
  let h := cHarn d
  let c := fld d 24 4
  let rank := fld d 18 1
  let n := contribBytes s h c
  let payload := engRead s d (fld d 32 8) n
  let k : CKey := { die := treeRoot c, h := h, step := ((harnOf s h).base + cDist s d) % 2 ^ 48, chunk := c }
  let i := itemOf s h c rank (fld d 28 4) payload
  if 4 ≤ cDist s d ∨ (harnOf s h).formed.contains (k.step, c) then faultBlock s d.block evCollDuplicate []
  else if harnFast s h ∧ sumChecked s h ∧ sumCheck (decodeChunk 0 (elemsOf s h c) payload) ≠ fld d 28 4 then faultBlock s d.block evCollSumcheck []
  else if needsSpill s k && !spillRoom s i then s
  else enterItem (engRun s d n) k checks i

def execContrib (die : Nat) (ecc : Ecc) (checks : List LadleCheck) (s : State) : Host.Outcome State Fault Refusal :=
  engRow die 0 0 ecc s fun s d => runContrib s d checks

/-- The outcome of an accumulator operation under the Ladle's own checks (09 R217): the first element that fails its residue check (cause 5), a failed
memory (cause 1), else the states are written. -/
def accDone (s : State) (d : Desc) (check : LadleCheck) (miss : Option Nat) (new : List Acc) : State :=
  if check = .memory then engFault s d 1 (fld d 40 8)
  else match miss with
    | some j => engFault s d 5 (fld d 40 8 + 40 * j)
    | none => engRun (engWrite s d (fld d 40 8) (new.flatMap accBytes)) d (40 * accN d)

/-- ACC_INIT: the negative-zero state in n elements (09 R222). The spec names its residue check (09 R217) and no operands of it: an upset of one of its
elements fails it (DESIGN CHOICE, log 13). -/
def execAccInit (die : Nat) (check : LadleCheck) (s : State) : Host.Outcome State Fault Refusal :=
  engRow die 0 1 .ok s fun s d =>
    accDone s d check (match check with | .upset j x => if j < accN d ∧ x ≠ 0 then some j else none | _ => none)
      (List.replicate (accN d) .negZero)

/-- The accumulator states of a descriptor, or the address of the first that breaks 07 R165 (09 R222). -/
def accStates (s : State) (d : Desc) : List Acc ⊕ Nat :=
  let bs := engRead s d (fld d 40 8) (40 * accN d)
  let st := (List.range (accN d)).map fun i => accOf (getLe bs (40 * i) 40)
  match (enum st).find? fun e => e.2.isNone with
  | some e => .inr (fld d 40 8 + 40 * e.1)
  | none => .inl (st.filterMap id)

/-- ACC_ADD (09 R222): inputs are converted and added exactly, with residue checks (07 R180). -/
def runAccAdd (s : State) (d : Desc) (check : LadleCheck) : State :=
  match accStates s d with
  | .inr a => engFault s d 1 a
  | .inl old =>
    let new := decodeChunk (accFmt d) (accN d) (engRead s d (fld d 24 8) (vecSize (accFmt d) (accN d)))
    let adds := enum (old.zip new)
    accDone s d check ((adds.find? fun e => residueMiss check e.1 e.2.1 e.2.2).map Prod.fst) (adds.map fun e => ladleSum check e.1 e.2.1 e.2.2)

def execAccAdd (die : Nat) (ecc : Ecc) (check : LadleCheck) (s : State) : Host.Outcome State Fault Refusal :=
  engRow die 0 2 ecc s fun s d => runAccAdd s d check

/-- The drawn value of element `i` of a descriptor under stochastic rounding (09 R222, R230). -/
def engDraw (s : State) (d : Desc) (i : Nat) : Option Nat :=
  if fld d 17 1 = 1 then some (rand32 (blockOf s d.block).seed (fld d 48 6) (fld d 18 2 % 1024) (fld d 56 8 + i)) else none

/-- A vector as it is written: MX under 06 R139, the others dense. -/
def vecOut (f n : Nat) (bs : List Byte) : List Byte := bs.take (vecSize f n)

/-- ACC_ROUND (09 R222): each state rounded once, written densely; the accumulator is unchanged. -/
def runAccRound (s : State) (d : Desc) : State :=
  match accStates s d with
  | .inr a => engFault s d 1 a
  | .inl st =>
    let out := vecOut (accFmt d) (accN d) (encodeChunk (accFmt d) st (engDraw s d))
    engRun (engWrite s d (fld d 32 8) out) d out.length

def execAccRound (die : Nat) (ecc : Ecc) (s : State) : Host.Outcome State Fault Refusal :=
  engRow die 0 3 ecc s fun s d => runAccRound s d

-- Sieve (09 R226)

/-- A key's value; none for NaN. Key type 0xD is unsigned. -/
def sieveKey (kt w : Nat) : Option Int := if kt = 13 then some (w : Int) else keyVal kt w

/-- Whether key `a` ranks before or with `b` (09 R226). -/
def keyLe (low : Bool) (a b : Option Int) : Bool :=
  match a, b with
  | _, none => true
  | none, some _ => false
  | some x, some y => if low then decide (x ≤ y) else decide (y ≤ x)

/-- The records at src with their keys, in element order. -/
def sieveRecs (s : State) (d : Desc) : List (Option Int × List Byte) :=
  let bs := engRead s d (fld d 32 8) (sieveN d * sieveRec d)
  let kt := fld d 16 1
  (List.range (sieveN d)).map fun i =>
    let r := slice bs (i * sieveRec d) (sieveRec d)
    (sieveKey kt (getLe r (fld d 19 1) (keySize kt)), r)

/-- The ranking of the records: equals keep their element order (09 R226). -/
def sieveRank (s : State) (d : Desc) : List (Option Int × List Byte) :=
  sortBy (fun a b => keyLe (decide (fld d 17 1 = 1)) a.1 b.1) (sieveRecs s d)

/-- Write whole records to dst. -/
def sieveOut (s : State) (d : Desc) (rs : List (Option Int × List Byte)) : State :=
  let out := rs.flatMap Prod.snd
  engRun (engWrite s d (fld d 40 8) out) d out.length

def execTopk (die : Nat) (ecc : Ecc) (s : State) : Host.Outcome State Fault Refusal :=
  engRow die 1 0 ecc s fun s d => sieveOut s d ((sieveRank s d).take (sieveK d))

def execSort (die : Nat) (ecc : Ecc) (s : State) : Host.Outcome State Fault Refusal :=
  engRow die 1 1 ecc s fun s d => sieveOut s d (sieveRank s d)

/-- THRESH: the records that meet the threshold, in element order; an output that leaves 09 R210 faults (log 18). -/
def runThresh (s : State) (d : Desc) : State :=
  let kt := fld d 16 1
  let thr := sieveKey kt (fld d 28 4 % 2 ^ (8 * keySize kt))
  let hit := (sieveRecs s d).filter fun r => match r.1, thr with
    | some x, some y => if fld d 17 1 = 1 then decide (x ≤ y) else decide (y ≤ x)
    | _, _ => false
  if engOk s d (fld d 40 8) (hit.length * sieveRec d) 1 then sieveOut s d hit else engFault s d 3 (fld d 40 8)

def execThresh (die : Nat) (ecc : Ecc) (s : State) : Host.Outcome State Fault Refusal :=
  engRow die 1 2 ecc s fun s d => runThresh s d

def execSelectRank (die : Nat) (ecc : Ecc) (s : State) : Host.Outcome State Fault Refusal :=
  engRow die 1 3 ecc s fun s d => sieveOut s d (((sieveRank s d).drop (sieveK d)).take 1)

-- Tongs (09 R228)

/-- The place of element `i` of an index operation. -/
def idxPlace (s : State) (d : Desc) (i : Nat) : Nat := fld d 24 8 + getLe (engRead s d (fld d 32 8 + 4 * i) 4) 0 4 * tFirst d

/-- Copy one element; the answer is the address of an uncorrectable error, if any. -/
def moveEl (s : State) (d : Desc) (src dst n : Nat) : State ⊕ Nat :=
  match engBad s d (src, n) with
  | some a => .inr a
  | none => .inl (engWrite s d dst (engRead s d src n))

/-- An index operation from element `i` on, in index order; `n` elements are left (09 R228). -/
def idxMove (d : Desc) (scatter : Bool) : Nat → Nat → State → State
  | 0, _, s => engRun s d (tCount d * tEl d)
  | n + 1, i, s =>
    let p := idxPlace s d i
    let buf := fld d 40 8 + i * tEl d
    if !engOk s d p (tEl d) (b2n scatter) then engFault s d 3 p
    else match (if scatter then moveEl s d buf p (tEl d) else moveEl s d p buf (tEl d)) with
      | .inl s => idxMove d scatter n (i + 1) s
      | .inr a => engUe s d a

def execGather (die : Nat) (ecc : Ecc) (s : State) : Host.Outcome State Fault Refusal :=
  engRow die 2 0 ecc s fun s d => idxMove d false (tCount d) 0 s

def execScatter (die : Nat) (ecc : Ecc) (s : State) : Host.Outcome State Fault Refusal :=
  engRow die 2 1 ecc s fun s d => idxMove d true (tCount d) 0 s

/-- Whether a page entry may be used: non-zero, aligned, in the larder where the descriptor may reach it (09 R217, R228). -/
def pageOk (s : State) (d : Desc) (e wr : Nat) : Bool :=
  decide (e ≠ 0 ∧ e % 2 ^ tShift d = 0) &&
    (match placeOf s d.t e with | .larder l none => lardMay s d.block l (2 ^ tShift d) wr none | _ => false)

/-- A page operation from token `i` on; `cur` is the page index read last and its entry, each entry read once (09 R228). -/
def pageMove (d : Desc) (scatter : Bool) : Nat → Nat → Option (Nat × Nat) → State → State
  | 0, _, _, s => engRun s d (tCount d * tEl d)
  | n + 1, i, cur, s =>
    let t := tFirst d + i
    let j := t / max 1 (tTpp d)
    let e := match cur with
      | some (k, e) => if k = j then e else getLe (engRead s d (fld d 32 8 + 8 * j) 8) 0 8
      | none => getLe (engRead s d (fld d 32 8 + 8 * j) 8) 0 8
    let p := e + t % max 1 (tTpp d) * tEl d
    let buf := fld d 40 8 + i * tEl d
    if !pageOk s d e (b2n scatter) then engFault s d 2 e
    else match (if scatter then moveEl s d buf p (tEl d) else moveEl s d p buf (tEl d)) with
      | .inl s => pageMove d scatter n (i + 1) (some (j, e)) s
      | .inr a => engUe s d a

def execPageGather (die : Nat) (ecc : Ecc) (s : State) : Host.Outcome State Fault Refusal :=
  engRow die 2 2 ecc s fun s d => pageMove d false (tCount d) 0 none s

def execPageScatter (die : Nat) (ecc : Ecc) (s : State) : Host.Outcome State Fault Refusal :=
  engRow die 2 3 ecc s fun s d => pageMove d true (tCount d) 0 none s

-- Whisk (09 R230)

/-- An exact value times 2^shift, in units of 2^-213; beyond the range of 07 R165 it is infinite (09 R230). -/
def whiskScale (sh : Int) : Acc → Acc
  | .fin a =>
    let v := a * 2 ^ (sh + 64).toNat
    if (2 ^ 374 : Int) ≤ v then .pInf else if v < -(2 ^ 374 : Int) then .nInf else .fin v
  | x => x

def runConvert (s : State) (d : Desc) : State :=
  let n := fld d 20 4
  let el := (decodeChunk (wIn d) n (engRead s d (fld d 24 8) (vecSize (wIn d) n))).map (whiskScale (wShift d))
  let out := vecOut (wOut d) n (encodeChunk (wOut d) el (engDraw s d) 213)
  engRun (engWrite s d (fld d 32 8) out) d out.length

def execConvert (die : Nat) (ecc : Ecc) (s : State) : Host.Outcome State Fault Refusal :=
  engRow die 3 0 ecc s fun s d => runConvert s d

-- Check engine (09 R232)

/-- Write a check engine's result. -/
def checkOut (s : State) (d : Desc) (out : List Byte) : State := engRun (engWrite s d (fld d 32 8) out) d out.length

def execCrc64 (die : Nat) (ecc : Ecc) (s : State) : Host.Outcome State Fault Refusal :=
  engRow die 4 0 ecc s fun s d => checkOut s d (leBytes 8 (crc64 (engRead s d (fld d 24 8) (fld d 20 4))))

def execShake256 (die : Nat) (ecc : Ecc) (s : State) : Host.Outcome State Fault Refusal :=
  engRow die 4 1 ecc s fun s d => checkOut s d (shake256 (engRead s d (fld d 24 8) (fld d 20 4)) (fld d 17 1))

def execSumcheck (die : Nat) (ecc : Ecc) (s : State) : Host.Outcome State Fault Refusal :=
  engRow die 4 2 ecc s fun s d =>
    checkOut s d (leBytes 4 (sumCheck (decodeChunk (fld d 16 1) (fld d 20 4) (engRead s d (fld d 24 8) (chunkBytes (fld d 16 1) (fld d 20 4))))))

-- PUT (09 R234)

/-- The header of a PUT's packet `j`. -/
def putHeader (s : State) (d : Desc) (j : Nat) : Header :=
  { ownHeader s d.t.die tWRITE 0 (putDst d) with
    mcast := putMcast d, ctag := BitVec.ofNat 16 (fld d 38 2), addr := BitVec.ofNat 48 (fld d 32 6 + 2048 * j),
    step := BitVec.ofNat 16 (blockOf s d.block).step }

/-- PUT (09 R234): the buffer as WRITEs in address order, at the Brake; it completes when every packet is acknowledged. -/
def runPut (s : State) (d : Desc) : State :=
  let data := engRead s d (fld d 24 8) (putBytes d)
  let parts := enum (partsOfResult (putBytes d / 2048 + 1) data)
  let s := parts.foldl (fun s p =>
    (originate s d.t.die d.block (putHeader s d p.1) p.2 (.put d.t.die d.id) (pace := some d.pace)).2) s
  engRun s d (putBytes d)

def execPut (die : Nat) (ecc : Ecc) (s : State) : Host.Outcome State Fault Refusal :=
  engRow die 5 0 ecc s fun s d => runPut s d

end Sys2Proof.Machine
end

