-- ==== Sys2Proof/Machine/Telemetry.lean ====
section
/-! DEFINITION. The telemetry stream, sampling and captures as commands (17 R424 to R434), ring allocation (10 R246), the larder commands
(14, "Commands of this chapter"). -/

namespace Sys2Proof.Machine

-- Telemetry (17 R424 to R427)

/-- The ports of part `k` of a set 2 or 3 frame (17 R425). -/
def partPorts (s : State) (k : Nat) : List Nat := ((allPorts s).drop (128 * k)).take 128

/-- Words 0 to 15 of a function. -/
def words16 (f : Nat → Nat) : List Byte := words ((List.range 16).map f)

/-- The body of a set (17, table "Telemetry sets"). -/
def setBody (s : State) (n part : Nat) : List Byte :=
  match n with
  | 0 => words ([0x500, 0x504, 0x508, 0x510, 0x210, 0x400].map (modWord s) ++ [axleWord s 1, axleWord s 2, epochWord s 0, epochWord s 1,
           epochWord s 2, modWord s 0x304]) ++ leBytes 16 0
  | 1 => thermalBody s
  | 2 => (partPorts s part).flatMap fun p => words16 (cntWord (portOf s p).cnt)
  | 3 => (partPorts s part).flatMap fun p => words16 fun i => Tab.get 0 (portOf s p).hist i % 2 ^ 32
  | 4 => (List.range 512).flatMap fun l => words [laneWord s l, (laneOf s l).ce, (laneOf s l).ue, 0]
  | _ => (List.range 4).flatMap (fun d => words16 (telemWord (hubOf s d))) ++
         (List.range 24).flatMap (fun e => words ((List.range 4).map fun w => regWord s 0 (.engCnt (e / 6) (e % 6) w))) ++
         (List.range 6).flatMap (fun n => words [lardWord s n 0x28, lardWord s n 0x2C]) ++
         words ((List.range 128).map fun b => stepWord s b 3)

/-- What a set header counts: ports, lanes or die positions (17 R426). -/
def setCount (s : State) (n part : Nat) : Nat :=
  match n with | 1 => 40 | 2 | 3 => (partPorts s part).length | 4 => 512 | _ => 0

/-- Form one TELEMETRY frame (17 R426; the reads lie within 2 µs of one another, log 24); dropped while no session is open (14 R352). -/
def telemFrame (s : State) (n part period due : Nat) (snap : Bool) : State :=
  let (k, s) := draw s
  let first := s.axle.value + Config.freeWord k % 2001
  let last := first + Config.freeWord (k + 1) % 2001
  let s := { s with freeCtr := s.freeCtr + 1 }
  let fl := fields [(0, 1, b2n snap), (1, 1, b2n (s.mod.frozen && decide (2 ≤ n))), (2, 1, part)]
  let body := leBytes 1 n ++ leBytes 1 fl ++ leBytes 2 (setCount s n part) ++ leBytes 4 period ++ leBytes 8 due ++ leBytes 8 first ++
    leBytes 8 last ++ setBody s n part
  let f : StreamFrame := { code := n, seq := s.lonus.strSeq, gap := s.lonus.gapT, payload := body, axle := s.axle.value }
  updLonus s fun l =>
    let l := { l with strSeq := (l.strSeq + 1) % 2 ^ 64 }
    if l.opened then { l with telemQ := l.telemQ ++ [f], gapT := false } else streamDrop l true 1

/-- The frames of every set of a mask, in ascending order, with their second parts (17 R424, R425); sets 2 to 5 need a powered data plane (18 R450). -/
def telemFrames (s : State) (sets period due : Nat) (snap : Bool) : State :=
  ((List.range 6).filter fun n => bit sets n && (decide (n < 2) || !s.mod.dpOff)).foldl (fun s n =>
    let s := telemFrame s n 0 period due snap
    if (n = 2 ∨ n = 3) ∧ 128 < portCount s then telemFrame s n 1 period due snap else s) s

/-- A mask: some of bits 0 to 5 (17 R424). -/
def maskOk (sets : Nat) : Bool := within 1 sets 63

/-- The first boundary after an axle value. -/
def boundaryAfter (axle periodMs : Nat) : Nat := (axle / (periodMs * 1000000) + 1) * (periodMs * 1000000)

/-- TELEM_START (17 R424): a running stream is replaced at the new one's first boundary. -/
def telemStart (sets period : Nat) (s : State) : State × Option Reply :=
  if maskOk sets && within 1 period 10000 then
    let n := boundaryAfter s.axle.value period
    let t := if s.telem.running then { s.telem with repl := some (sets, period, n) }
             else { s.telem with running := true, sets := sets, period := period, next := n, repl := none }
    answer { s with telem := t } (rep .ok)
  else fail s .badParam

def execTelemStart (tag sets periodMs : Nat) (s : State) : Host.Outcome State Fault Refusal := lonusCmd tag 0x0801 [(2, sets), (2, periodMs)] s (telemStart sets periodMs)

def execTelemStop (tag : Nat) (s : State) : Host.Outcome State Fault Refusal :=
  lonusCmd tag 0x0802 [] s fun s => answer { s with telem := { s.telem with running := false, repl := none } } (rep .ok)

/-- TELEM_SNAPSHOT (17 R424). -/
def execTelemSnapshot (tag sets : Nat) (s : State) : Host.Outcome State Fault Refusal :=
  lonusCmd tag 0x0803 [(2, sets)] s fun s =>
    if maskOk sets then answer (telemFrames s sets 0 s.axle.value true) (rep .ok) else fail s .badParam

/-- Put a replacing stream in place when its first boundary comes no later than the running one's next. -/
def telemSwap (t : Telem) : Telem :=
  match t.repl with
  | some (a, p, n) => if n ≤ t.next then { t with sets := a, period := p, next := n, repl := none } else t
  | none => t

/-- The frames of the last period that are not sent are dropped (14 R367; log 24). -/
def dropUnsent (s : State) : State := updLonus s fun l => { streamDrop l true l.telemQ.length with telemQ := [] }

/-- TELEMETRY_BOUNDARY (17 R424): what is not sent is dropped, of a stream that TELEM_STOP has ended too, and a running stream's next frames are formed. -/
def telemBoundary (s : State) : State :=
  if !s.telem.running then
    if s.lonus.telemQ.isEmpty || s.telem.next = 0 then s else dropUnsent (elapse s (s.telem.next - s.axle.value))
  else if ctrlRuns s then
    let t := telemSwap s.telem
    let s := dropUnsent (elapse { s with telem := t } (t.next - s.axle.value))
    let s := telemFrames s t.sets t.period t.next false
    { s with telem := { s.telem with next := t.next + t.period * 1000000 } }
  else s

def execTelemetryBoundary (s : State) : Host.Outcome State Fault Refusal := done s (telemBoundary s)

-- Sampling (17 R428, R430)

/-- Whether a port operand is a port or 0xFFFF. -/
def portOrAll (s : State) (p : Nat) : Bool := decide (p = 0xFFFF) || portExists s p

/-- SAMPLE_START (17 R428): each sampled port counts from acceptance. -/
def sampleStart (port n trunc : Nat) (s : State) : State × Option Reply :=
  if portOrAll s port && within 16 n 65535 && within 64 trunc 256 && decide (trunc % 32 = 0) then
    answer { s with telem := { s.telem with smpOn := true, smpPort := port, smpN := n, smpTrunc := trunc },
                    ports := Tab.mapV {} s.ports fun q => { q with smpCount := 0 } } (rep .ok)
  else fail s .badParam

def execSampleStart (tag port oneInN trunc : Nat) (s : State) : Host.Outcome State Fault Refusal :=
  lonusCmd tag 0x0810 [(2, port), (2, oneInN), (2, trunc)] s (sampleStart port oneInN trunc)

def execSampleStop (tag : Nat) (s : State) : Host.Outcome State Fault Refusal :=
  lonusCmd tag 0x0811 [] s fun s => answer { s with telem := { s.telem with smpOn := false } } (rep .ok)

-- Allocation (10 R246)

/-- The lowest-addressed free range of `n` bytes between `lo` and `hi`, clear of the used ranges. -/
def allocIn (used : List (Nat × Nat)) (lo hi n : Nat) : Option Nat :=
  let free := fun a => decide (a + n ≤ hi) && used.all fun u => decide (a + n ≤ u.1 ∨ u.1 + u.2 ≤ a)
  minBy (fun a => (a : Int)) ((lo :: used.map fun u => u.1 + u.2).filter fun a => decide (lo ≤ a) && free a)

/-- A range of the heap region in whole MiB; the ranges in use are grants and launch queues. -/
def heapAlloc (s : State) (n : Nat) : Option Nat :=
  allocIn (s.lard.grants.map Prod.snd) (heapBase s) (ringsBase s) (alignUp n mib)

/-- A ring of `m` MiB in the rings region. -/
def ringAlloc (s : State) (m : Nat) : Option Nat :=
  allocIn (s.lard.rings.map Prod.snd) (ringsBase s) (spillBase s) (m * mib)

/-- The lowest free ring number. -/
def freeRing (s : State) : Option Nat := (List.range 16).find? fun k => decide ((ringOf s k).st = 0)

/-- Rings that record, or capture, now. -/
def ringsOn (s : State) (capture : Bool) : Nat :=
  ((List.range 16).filter fun k => decide ((ringOf s k).st = 1) && ((ringOf s k).capture == capture)).length

/-- Take a free ring number and a range for a ring; none: NOSPACE (11 R283, 17 R431). -/
def takeRing (s : State) (m : Nat) (place : Bool) (r : Ring) : Option (Nat × State) :=
  match freeRing s, ringAlloc s m with
  | some k, some a =>
    if place then
      let s := { s with lard := { s.lard with rings := s.lard.rings ++ [(k, a, m * mib)] } }
      some (k, ringSync (updRing s k fun _ => { r with mib := m, base := a }) k)
    else none
  | _, _ => none

-- Captures (17 R431 to R434)

/-- CAPTURE_START (17 R431). -/
def captureStart (m port : Nat) (s : State) : State × Option Reply :=
  if m = 0 ∨ ¬ portOrAll s port then fail s .badParam
  else
    let r : Ring := { st := 1, capture := true, port := port, wrap := true, begun := true, set := ((activeSet s).map FwSet.set).getD 0,
                      plane := s.mod.plane, steady := steady s, startAxle := s.axle.value, startAt := xTime s 0 }
    match takeRing s m (decide (ringsOn s true < 2)) r with
    | some (k, s) => answer s (okItems (leBytes 2 k))
    | none => fail s .noSpace

def execCaptureStart (tag ringMib port : Nat) (s : State) : Host.Outcome State Fault Refusal :=
  lonusCmd tag 0x0820 [(2, ringMib), (2, port)] s (captureStart ringMib port)

/-- Stop a recording or capture: BADPARAM where ring `k` is none. -/
def ringStop (capture : Bool) (k : Nat) (s : State) : State × Option Reply :=
  let r := ringOf s k
  if 16 ≤ k ∨ r.st = 0 ∨ r.capture ≠ capture then fail s .badParam
  else answer (if r.st = 1 then ringEnd s k else s) (rep .ok)

def execCaptureStop (tag ring : Nat) (s : State) : Host.Outcome State Fault Refusal := lonusCmd tag 0x0821 [(2, ring)] s (ringStop true ring)

/-- Dump a range of a ring (11 R283, 14, 17 R434): BADSTATE while it records, FAULTED on an uncorrectable error (10 R262). -/
def ringDump (capture : Bool) (k off len : Nat) (ecc : Ecc) (s : State) : State × Option Reply :=
  let r := ringOf s k
  if 16 ≤ k ∨ off % 32 ≠ 0 ∨ len % 32 ≠ 0 ∨ ¬ within 32 len (64 * mib) then fail s .badParam
  else if r.st = 0 ∨ r.capture ≠ capture then fail s .notFound
  else if r.mib * mib ≤ off ∨ r.mib * mib < off + len then fail s .badParam
  else if r.st = 1 then fail s .badState
  else match eccRead s (r.base + off) len 0xFFFF ecc with
    | (some b, s) => answer s (okBulk b)
    | (none, s) => fail s .faulted

def execCaptureDump (tag ring offset length : Nat) (ecc : Ecc) (s : State) : Host.Outcome State Fault Refusal :=
  lonusCmd tag 0x0822 [(2, ring), (8, offset), (4, length)] s (ringDump true ring offset length ecc)

-- The larder commands (14)

/-- Whether a span lies in the pool and heap regions. -/
def hostSpan (s : State) (a n : Nat) : Bool := decide (a + n ≤ ringsBase s)

/-- LARDER_READ (14, 10 R262). -/
def larderRead (a n : Nat) (ecc : Ecc) (s : State) : State × Option Reply :=
  if n % 32 ≠ 0 ∨ ¬ within 32 n (64 * mib) ∨ ¬ hostSpan s a n then fail s .badParam
  else match eccRead s a n 0xFFFF ecc with
    | (some b, s) => answer s (okBulk b)
    | (none, s) => fail s .faulted

def execLarderRead (tag addr length : Nat) (ecc : Ecc) (s : State) : Host.Outcome State Fault Refusal :=
  lonusCmd tag 0x0501 [(8, addr), (4, length)] s (larderRead addr length ecc)

/-- The larder ranges of an Active block: its windows and its images' heap grants (14). -/
def activeSpans (s : State) : List (Nat × Nat) :=
  let act := fun b => decide ((blockOf s b).st = .active)
  ((List.range 64).filterMap fun k =>
    let w := winOf s k
    if winEnable w && act (winOwner w) then some (winLarder w * gib, winSize w * gib) else none) ++
  (s.img.filter fun e => decide (e.2.st ≠ 0) && act e.2.owner).map fun e => (e.2.heapBase, e.2.heapBytes)

/-- LARDER_WRITE (14): DENIED where one byte lies in a window or heap grant of an Active block. -/
def larderWrite (tag a : Nat) (own : List Byte) (s : State) : State × Option Reply :=
  let d := bulkOf s tag own
  if d.isEmpty || !hostSpan s a d.length then fail s .badParam
  else if (activeSpans s).any fun g => decide (a < g.1 + g.2 ∧ g.1 < a + d.length) then fail s .denied
  else answer (lardStore s a d) (rep .ok)

def execLarderWrite (tag addr : Nat) (data : List Byte) (s : State) : Host.Outcome State Fault Refusal :=
  lonusCmd tag 0x0502 [(8, addr)] s (larderWrite tag addr data)

/-- LARDER_STATUS (14). -/
def execLarderStatus (tag : Nat) (s : State) : Host.Outcome State Fault Refusal :=
  lonusCmd tag 0x0503 [] s fun s => answer s (okItems (words [modWord s 0x208, modWord s 0x210, modWord s 0x214, modWord s 0x218]))

end Sys2Proof.Machine
end

