-- ==== Sys2Proof/Machine/GalleyLoad.lean ====
section
/-! DEFINITION. Galley images: the file conditions of 08 R193 (the ELF layout is the standard's, log 10) and the galley commands (08 R194). -/

namespace Sys2Proof.Machine

-- The file (08 R193)

/-- A program header: type, flags, offset, address, file and memory sizes. -/
structure Seg where
  typ    : Nat
  flags  : Nat
  off    : Nat
  vaddr  : Nat
  filesz : Nat
  memsz  : Nat

/-- A section header: type, offset, size, link. -/
structure Sect where
  typ  : Nat
  off  : Nat
  size : Nat
  link : Nat

/-- The program headers of a file. -/
def segments (f : List Byte) : List Seg :=
  let base := getLe f 32 8
  let step := getLe f 54 2
  (List.range (getLe f 56 2)).map fun i =>
    let o := base + step * i
    { typ := getLe f o 4, flags := getLe f (o + 4) 4, off := getLe f (o + 8) 8, vaddr := getLe f (o + 16) 8,
      filesz := getLe f (o + 32) 8, memsz := getLe f (o + 40) 8 }

/-- The section headers of a file. -/
def sections (f : List Byte) : List Sect :=
  let base := getLe f 40 8
  let step := getLe f 58 2
  (List.range (getLe f 60 2)).map fun i =>
    let o := base + step * i
    { typ := getLe f (o + 4) 4, off := getLe f (o + 24) 8, size := getLe f (o + 32) 8, link := getLe f (o + 40) 4 }

/-- The bytes of an ASCII name. -/
def ascii (t : String) : List Byte := t.toList.map fun c => BitVec.ofNat 8 c.toNat

/-- The notes of a note segment as (name, type, descriptor); `n` bounds their number. -/
def notesIn : Nat → List Byte → List (List Byte × Nat × List Byte)
  | 0, _ => []
  | n + 1, b =>
    if b.length < 12 then []
    else
      let ns := getLe b 0 4
      let ds := getLe b 4 4
      let o := 12 + alignUp ns 4
      (slice b 12 ns, getLe b 8 4, slice b o ds) :: notesIn n (b.drop (o + alignUp ds 4))

/-- The descriptors of the notes named TZGAL of type 1 (08 R193 condition 4). -/
def tzNotes (f : List Byte) : List (List Byte) :=
  ((segments f).filter fun g => decide (g.typ = 4)).flatMap fun g =>
    ((notesIn g.filesz (slice f g.off (min g.filesz f.length))).filter fun x => decide (x.1 = ascii "TZGAL" ++ [0] ∧ x.2.1 = 1)).map fun x => x.2.2

/-- The fields of a TZGAL note (08, table "TZGAL note"). -/
structure TzNote where
  stack   : Nat
  waitUs  : Nat
  depth   : Nat
  heap    : Nat
  entries : List (Nat × Nat)

/-- The note that a descriptor holds, where it has the layout. -/
def tzNote (d : List Byte) : Option TzNote :=
  let n := getLe d 2 2
  let x : TzNote := { stack := getLe d 4 4, waitUs := getLe d 8 4, depth := getLe d 12 4, heap := getLe d 16 8,
                      entries := (List.range (min n 64)).map fun i => (getLe d (32 + 16 * i) 8, getLe d (40 + 16 * i) 2) }
  if getLe d 0 2 = 1 ∧ within 1 n 64 ∧ 32 + 16 * n ≤ d.length ∧ x.stack % 256 = 0 ∧ within 256 x.stack 4096 ∧ within 1 x.waitUs 1000000 ∧
      within 16 x.depth 4096 ∧ x.heap % mib = 0 ∧ x.heap ≤ 64 * gib ∧ x.entries.all (fun e => within 1 e.2 256) then some x
  else none

/-- The loaded segments. -/
def loadSegs (f : List Byte) : List Seg := (segments f).filter fun g => decide (g.typ = 1)

def scratchVa : Nat := 0x7FFF000000000000
def clusterVa : Nat := 0x7FFF000000110000
def stackTopVa : Nat := 0x7FFF000000300000

/-- Condition 3 of 08 R193. -/
def segOk (stack : Nat) (g : Seg) : Bool :=
  decide ((scratchVa ≤ g.vaddr ∧ g.vaddr + g.memsz ≤ scratchVa + 0x4000) ∨
    (clusterVa ≤ g.vaddr ∧ g.vaddr + g.memsz ≤ stackTopVa - 256 * stack))

/-- Condition 5 of 08 R193. -/
def entryOk (f : List Byte) (e : Nat × Nat) : Bool :=
  decide (e.1 % 2 = 0) && (loadSegs f).any fun g => bit g.flags 0 && decide (g.vaddr ≤ e.1 ∧ e.1 < g.vaddr + g.memsz)

/-- The note of a file, or the number of the first condition of 08 R193 that it breaks. -/
def fileCheck (f : List Byte) : Except Nat TzNote :=
  let one := match tzNotes f with | [d] => tzNote d | _ => none
  let stack := (one.map TzNote.stack).getD 0
  if 4 * mib < f.length ∨ slice f 0 4 ≠ [0x7F, 0x45, 0x4C, 0x46] ∨ getLe f 4 1 ≠ 2 ∨ getLe f 5 1 ≠ 1 ∨ getLe f 18 2 ≠ 243 ∨
      getLe f 16 2 ≠ 2 ∨ getLe f 48 4 ≠ 5 then .error 1
  else if (segments f).any (fun g => decide (g.typ = 2 ∨ g.typ = 3 ∨ g.typ = 7)) ||
      (sections f).any (fun x => decide (x.typ = 4 ∨ x.typ = 9 ∨ x.typ = 19)) then .error 2
  else if !(loadSegs f).all (segOk stack) then .error 3
  else match one with
    | none => .error 4
    | some n => if n.entries.all (entryOk f) then .ok n else .error 5

/-- The value of the symbol __global_pointer$ where the file defines it, else 0 (08 R198). -/
def globalPointer (f : List Byte) : Nat :=
  let secs := sections f
  let name := ascii "__global_pointer$" ++ [0]
  ((secs.filter fun x => decide (x.typ = 2)).findSome? fun x =>
    let strs := ((secs[x.link]?).map Sect.off).getD 0
    (List.range (x.size / 24)).findSome? fun i =>
      let o := x.off + 24 * i
      if slice f (strs + getLe f o 4) name.length = name ∧ getLe f (o + 6) 2 ≠ 0 then some (getLe f (o + 8) 8) else none).getD 0

-- Clusters (08 R194)

/-- The free clusters of a die in ascending order, those already taken for this load aside. -/
def freeClusters (s : State) (taken : List Nat) (d : Nat) : List Nat :=
  ((List.range 98).map fun c => clusterKey d c).filter fun k => (Tab.get none s.clusters k).isNone && !taken.contains k

/-- The clusters granted for a load: the i-th on die i mod 4, or on the next die that has one free. -/
def grantClusters (s : State) : Nat → List Nat → Option (List Nat)
  | 0, taken => some taken
  | n + 1, taken =>
    match ([0, 1, 2, 3].findSome? fun j => (freeClusters s taken ((taken.length + j) % 4)).head?) with
    | some k => grantClusters s n (taken ++ [k])
    | none => none

/-- The segments of one range as (offset, bytes). -/
def segBytes (f : List Byte) (va len : Nat) : List (Nat × List Byte) :=
  ((loadSegs f).filter fun g => decide (va ≤ g.vaddr ∧ g.vaddr < va + len)).map fun g => (g.vaddr - va, slice f g.off (min g.filesz g.memsz))

/-- Zero-fill a cluster's memory and the scratch of its cores. -/
def wipeCluster (s : State) (k : Nat) : State :=
  clusterSync { s with cmem := memClear s.cmem (k * 2097152) 2097152, scratch := memClear s.scratch (k * 1048576) 1048576 } k

/-- Copy a file's segments into cluster `k` and the scratch of its 64 cores; the rest is zero (08 R194). -/
def fillCluster (f : List Byte) (i : Nat) (s : State) (k : Nat) : State :=
  let s := wipeCluster s k
  let put := fun (base : Nat) (m : Mem) (g : Nat × List Byte) => Mem.write m (base + g.1) g.2
  clusterSync { s with
    clusters := Tab.set none s.clusters k (some i),
    cmem := (segBytes f (scratchVa + 0x100000) 0x200000).foldl (put (k * 2097152)) s.cmem,
    scratch := (List.range 64).foldl (fun m c => (segBytes f scratchVa 0x4000).foldl (put ((k * 64 + c) * 16384)) m) s.scratch } k

/-- Grant a heap range to an image; an empty grant has base 0. -/
def heapGrant (s : State) (i n : Nat) : Option (Nat × State) :=
  if n = 0 then some (0, s)
  else (heapAlloc s n).map fun a => (a, { s with lard := { s.lard with grants := s.lard.grants ++ [(i, a, alignUp n mib)] } })

/-- Load a checked file: clusters, heap grant, launch queue; none where one does not suffice (08 R194). -/
def loadImage (s : State) (i b item n : Nat) (f : List Byte) (x : TzNote) : Option State := do
  let ks ← grantClusters s n []
  let (heap, s) ← heapGrant s i x.heap
  let (queue, s) ← heapGrant s i (2112 * x.depth)
  let s := ks.foldl (fillCluster f i) s
  let im : Image := { st := 1, owner := b, item := item, clusters := ks, entries := x.entries, stack := x.stack, waitUs := x.waitUs,
                      depth := x.depth, heapBase := heap, heapBytes := x.heap, queueBase := queue,
                      queueMib := alignUp (2112 * x.depth) mib / mib, gp := globalPointer f }
  pure (updImg s i fun _ => im)

/-- GALLEY_LOAD (08 R194): the checks in order, after the one for a missing bulk payload (14 R359). -/
def galleyLoad (tag i b source item n : Nat) (own : List Byte) (s : State) : State × Option Reply :=
  let st := (blockOf s b).st
  let bulk := bulkOf s tag own
  if source = 1 ∧ bulk.isEmpty then fail s .badParam
  else if (imgOf s i).st ≠ 0 ∨ st = .unloaded ∨ st = .faulted then fail s .badState
  else if 1024 ≤ i ∨ 2 ≤ source ∨ (source = 0 ∧ 64 ≤ item) ∨ ¬ within 1 n 392 then fail s .badParam
  else
    let file := if source = 1 then some bulk else ((activeSet s).bind fun x => x.library.find? fun e => e.1 == item).map Prod.snd
    match file with
    | none => fail s .notFound
    | some f =>
      match fileCheck f with
      | .error k => answer s (.badParam, leBytes 2 k, [])
      | .ok x =>
        match loadImage s i b (if source = 0 then item else 65535) n f x with
        | some s' => answer s' (rep .ok)
        | none => fail s .noSpace

def execGalleyLoad (tag image block source item clusters : Nat) (elf : List Byte) (s : State) : Host.Outcome State Fault Refusal :=
  lonusCmd tag 0x0601 [(2, image), (2, block), (2, source), (2, item), (2, clusters)] s (galleyLoad tag image block source item clusters elf)

-- Unload, launch, status (08 R194, R197)

/-- Zero-fill a larder range for reuse. -/
def lardZero (s : State) (a n : Nat) : State :=
  let s := unitsHeal (cellsDrop s a n) a n
  { s with lard := { s.lard with mem := memClear s.lard.mem a n } }

/-- Zero-fill and free all that an image holds; its threads end (08 R194). -/
def freeImage (s : State) (i : Nat) : State :=
  let x := imgOf s i
  let s := x.clusters.foldl (fun s k => { wipeCluster s k with clusters := Tab.set none s.clusters k none }) s
  let s := (s.lard.grants.filter fun g => decide (g.1 = i)).foldl (fun s g => lardZero s g.2.1 g.2.2) s
  let s := { s with lard := { s.lard with grants := s.lard.grants.filter fun g => decide (g.1 ≠ i) },
                    thr := s.thr.filter fun e => !(e.2.live && decide (e.2.image = i)) }
  updImg s i fun _ => {}

/-- Whether an enabled bind names an image. -/
def boundTo (s : State) (i : Nat) : Bool :=
  (List.range 1024).any fun h => bit (bindWord s h) 0 && decide (bits (bindWord s h) 16 10 = i)

/-- GALLEY_UNLOAD (08 R194). -/
def galleyUnload (i : Nat) (s : State) : State × Option Reply :=
  let x := imgOf s i
  if 1024 ≤ i then fail s .badParam
  else if x.st = 0 ∨ (s.thr.any fun e => e.2.live && decide (e.2.image = i)) ∨ ¬ x.queue.isEmpty ∨ boundTo s i then fail s .badState
  else answer (freeImage s i) (rep .ok)

def execGalleyUnload (tag image : Nat) (s : State) : Host.Outcome State Fault Refusal := lonusCmd tag 0x0602 [(2, image)] s (galleyUnload image)

/-- GALLEY_LAUNCH (08 R194, R197): the image is loaded for an Active block (01 R22; log 18). -/
def galleyLaunch (i entry a0 a1 : Nat) (s : State) : State × Option Reply :=
  let x := imgOf s i
  if 1024 ≤ i ∨ 2 ^ 48 ≤ a0 ∨ 2 ^ 32 ≤ a1 then fail s .badParam
  else if x.st = 0 ∨ (blockOf s x.owner).st ≠ .active then fail s .badState
  else if x.entries.length ≤ entry then fail s .badParam
  else match queueLaunch s i { id := 0, entry := entry, a0 := a0, a1 := a1, a2 := ownEpa s, key := a0 } with
    | some s' => answer s' (rep .ok)
    | none => fail s .noSpace

def execGalleyLaunch (tag image entry arg0 arg1 : Nat) (s : State) : Host.Outcome State Fault Refusal :=
  lonusCmd tag 0x0603 [(2, image), (2, entry), (8, arg0), (4, arg1)] s (galleyLaunch image entry arg0 arg1)

def execGalleyStatus (tag image : Nat) (s : State) : Host.Outcome State Fault Refusal :=
  lonusCmd tag 0x0604 [(2, image)] s fun s =>
    if 1024 ≤ image then fail s .badParam else answer s (okItems (words ((List.range 4).map (galImgWord s image))))

end Sys2Proof.Machine
end

