-- ==== Sys2Proof/Machine/Harnesses.lean ====
section
/-! DEFINITION. The harness commands (06 R142 to R144). -/

namespace Sys2Proof.Machine

/-- The largest chunk_elems of a format (06 R138). -/
def maxElems (f : Nat) : Nat := if f = 0 ∨ f = 0xC then 512 else 1024

/-- The member list of 06 R137: entries past n_members are 0, accelerators appear once and belong to the owner block. -/
def membersOk (s : State) (h : Nat) : Bool :=
  let n := harnN s h
  let acc := (accelMembers s h).map Prod.snd
  let gal := (galleyRanks s h).length
  decide (1 ≤ n ∧ n ≤ 256 ∧ 1 ≤ acc.length ∧ acc.length ≤ 128 ∧ gal ≤ 128 ∧ acc.length + gal = n ∧ acc.Nodup) &&
    acc.all (fun e => inBox (blockOf s (harnOwner s h)) e) && (List.range 256).all fun r => decide (r < n ∨ harnMember s h r = 0)

/-- The ranges of the configuration fields (06 R141); chunk_elems fits both formats (log 26). -/
def harnRanges (s : State) (h : Nat) : Bool :=
  decide (harnOp s h ≤ 1 ∧ harnMode s h ≤ 2 ∧ harnIn s h ≤ 0xC ∧ harnOut s h ≤ 0xC ∧ harnRnd s h ≤ 1) &&
  decide (harnElems s h % 32 = 0 ∧ 32 ≤ harnElems s h ∧ harnElems s h ≤ min (maxElems (harnIn s h)) (maxElems (harnOut s h))) &&
  decide (harnCount s h % 32 = 0 ∧ 32 ≤ harnCount s h ∧ harnBudget s h % 4 = 0 ∧ 4 ≤ harnBudget s h ∧ harnBudget s h ≤ 6400) &&
  decide (1 ≤ harnTimeout s h ∧ harnResBase s h % 32 = 0)

/-- The conditions on SELECT, ROOT, SCATTER and fast (06 R143 step 2). -/
def harnShape (s : State) (h : Nat) : Bool :=
  let acc := accelMembers s h
  let last := harnCount s h - (chunksOf s h - 1) * harnElems s h
  (!harnFast s h || decide (harnOp s h = 0 ∧ harnIn s h = 0 ∧ harnOut s h = 0)) &&
  (decide (harnOp s h ≠ 1) ||
    decide ((harnIn s h ≤ 2 ∨ harnIn s h = 0xC) ∧ harnElems s h ≤ 256 ∧ harnN s h * harnElems s h ≤ 1024 ∧ 1 ≤ harnK s h ∧
      harnK s h ≤ 1024 ∧ harnK s h ≤ harnN s h * last)) &&
  (decide (harnMode s h ≠ 1) || acc.any fun e => decide (e.1 = harnRoot s h)) &&
  (decide (harnMode s h ≠ 2) || decide (chunksOf s h % max 1 acc.length = 0))

/-- The budgets of the loaded harnesses. -/
def budgetsUsed (s : State) : Nat := ((s.harn.filter fun e => e.2.loaded).map fun e => harnBudget s e.1).sum

/-- Whether an accelerator's planned ports are Up and verified. -/
def memberUp (s : State) (e : Nat) : Bool := !(portsOfEpa s e).isEmpty && (portsOfEpa s e).all (portOk s)

/-- HARNESS_LOAD (06 R143): the checks in order. -/
def harnessLoad (h : Nat) (s : State) : State × Option Reply :=
  let st := (blockOf s (harnOwner s h)).st
  if 1024 ≤ h then fail s .badParam
  else if (harnOf s h).loaded ∨ st = .unloaded ∨ st = .faulted then fail s .badState
  else if ¬ (harnRanges s h && membersOk s h && harnShape s h) then fail s .badParam
  else if ¬ (accelMembers s h).all (fun e => memberUp s e.2) then fail s .notFound
  else if harnFast s h ∧ steady s then fail s .denied
  else if 6400 < budgetsUsed s + harnBudget s h then fail s .noSpace
  else
    let on := fun d => ((accelMembers s h).filter fun e => decide (dieOfEpa s e.2 = some d)).length
    answer (updHarn s h fun _ => { loaded := true, base := harnFirst s h, expect := (List.range 4).map on }) (rep .ok)

def execHarnessLoad (tag harness : Nat) (s : State) : Host.Outcome State Fault Refusal := lonusCmd tag 0x0410 [(2, harness)] s (harnessLoad harness)

/-- Whether a harness holds a slot, an entry or an unacknowledged result (06 R144). -/
def harnBusy (s : State) (h : Nat) : Bool :=
  let c := s.coll
  c.slots.any (fun x => decide (x.key.h = h)) || c.spills.any (fun x => decide (x.key.h = h)) ||
    c.early.any (fun x => decide (x.key.h = h)) || c.flight.any (fun x => decide (x.2.1.h = h)) || c.holds.any fun x => decide (x.h = h)

/-- Make a harness Free and discard its state (06 R144). -/
def freeHarness (s : State) (h : Nat) : State :=
  updHarn (clearColl s fun k => decide (k = h)) h fun x => { x with loaded := false, formed := [] }

/-- HARNESS_UNLOAD (06 R144). -/
def harnessUnload (h : Nat) (s : State) : State × Option Reply :=
  if 1024 ≤ h then fail s .badParam
  else if ¬ (harnOf s h).loaded ∨ harnBusy s h then fail s .badState
  else answer (freeHarness s h) (rep .ok)

def execHarnessUnload (tag harness : Nat) (s : State) : Host.Outcome State Fault Refusal := lonusCmd tag 0x0411 [(2, harness)] s (harnessUnload harness)

def execHarnessStatus (tag harness : Nat) (s : State) : Host.Outcome State Fault Refusal :=
  lonusCmd tag 0x0412 [(2, harness)] s fun s =>
    if 1024 ≤ harness then fail s .badParam else answer s (okItems (words ((List.range 4).map (harnStatWord s harness))))

end Sys2Proof.Machine
end

