-- ==== Sys2Proof/Machine/Identity.lean ====
section
/-! DEFINITION. Identity, measurements and quotes (15 R390 to R394), the owner record (R392), firmware staging and arming (R385, R386).
What SLH-DSA or the fuses decide is a fact of the staged set or a free value (log 8). -/

namespace Sys2Proof.Machine

def gradeCode (s : State) : Nat := match s.fixed.grade with | .h12 => 0 | .h6 => 1

/-- ID_READ's payload (14 R474). DESIGN CHOICE: the label's country of origin (00 R5) is no part of it: the layouts of 14 R474 and 15 R391 give it no
field, so this model neither holds nor reports it (log 8). -/
def idBytes (s : State) : List Byte :=
  leBytes 1 (gradeCode s) ++ leBytes 1 0xB1 ++ leBytes 2 s.fixed.dateCode ++ leBytes 2 s.fixed.factorySet ++ leBytes 2 (setNow s) ++
  leBytes 8 s.fixed.serial ++ leBytes 1 3 ++ leBytes 1 s.mod.plane ++ leBytes 1 s.mod.rackPos ++ leBytes 13 0

def execIdRead (tag : Nat) (s : State) : Host.Outcome State Fault Refusal :=
  lonusCmd tag 0x0101 [] s fun s => answer s (okItems (idBytes s))

/-- The identity public key: FIPS 205 key generation over the 32 B seed of the fuses, expanded with SHAKE256 (15 R390; log 8). -/
def deviceKey (s : State) : List Byte := slice (Config.identityKey (shake256 (slice s.fixed.seed 0 32) 96)) 0 64

/-- The identity digest on the label (00 R5, 15 R390); no command returns it. -/
def identityDigest (s : State) : List Byte := shake256 (deviceKey s) 8

/-- The identity certificate (15 R391): issuer_id and signature are free (log 8). -/
def certBytes (s : State) : List Byte :=
  let b := leBytes 2 1 ++ leBytes 1 (gradeCode s) ++ leBytes 1 0xB1 ++ leBytes 8 s.fixed.serial ++ leBytes 2 s.fixed.dateCode ++
    leBytes 2 s.fixed.factorySet ++ deviceKey s
  b ++ slice (Config.certTail b) 0 16 ++ List.replicate 160 0 ++ slice (Config.certTail b) 16 29792

def execIdCert (tag : Nat) (s : State) : Host.Outcome State Fault Refusal :=
  lonusCmd tag 0x0102 [] s fun s => answer s (okBulk (certBytes s))

-- Measurements (15 R393)

/-- Entries 0 to 5 of a set. -/
def setMeasures (f : FwSet) : List Byte :=
  slice f.manifestDigest 0 64 ++ (List.range 5).flatMap fun i =>
    slice (((f.images.find? fun m => decide (m.typ = i + 1)).map FwImage.digest).getD []) 0 64

/-- Entries 0 to 5 of a slot that holds a staged, armed or active set. -/
def slotMeasures (x : Slot) : List Byte :=
  match x.state, x.set with
  | .staged, some f | .armed, some f | .active, some f => setMeasures f
  | _, _ => []

/-- Entry 6, over what the model holds of the fuses but the identity seed: floor, serial, the digests of the four keys, keys revoked (free, log 8). -/
def fuseEntry (s : State) : List Byte :=
  slice (Config.fuseMeasure (s.nv.floor :: s.fixed.serial :: (s.fixed.keyDigests.map ofLe ++ s.fixed.revoked))) 0 64

/-- Entry 7: plan, STEADY and owner record, or 256 zero bytes (free, log 8). -/
def configEntry (s : State) : List Byte :=
  slice (Config.configMeasure ((s.nv.plan.map planBytes).getD []) s.nv.steady (s.nv.owner.getD (List.replicate 256 0))) 0 64

/-- ID_MEASURE (15 R393). -/
def execIdMeasure (tag : Nat) (s : State) : Host.Outcome State Fault Refusal :=
  lonusCmd tag 0x0104 [] s fun s =>
    let m := slotMeasures (currentSlot s) ++ slotMeasures (nextSlot s)
    if m.isEmpty then fail s .notFound else answer s (okItems (m ++ fuseEntry s ++ configEntry s))

/-- The quote body (15, table "Quote body"). -/
def quoteBody (s : State) (nonce : List Byte) : List Byte :=
  leBytes 2 1 ++ leBytes 1 (gradeCode s) ++ leBytes 1 0xB1 ++ leBytes 1 3 ++
  leBytes 1 (fields [(0, 1, b2n s.nv.steady), (1, 1, b2n s.mgmt.debug), (2, 1, b2n s.mgmt.opened),
    (3, 1, b2n (s.mgmt.sealA || s.mgmt.sealB)), (4, 1, b2n s.mod.fellBack), (5, 1, b2n s.nv.owner.isSome)]) ++
  leBytes 2 (setNow s) ++ leBytes 8 s.fixed.serial ++ leBytes 8 s.axle.value ++ leBytes 4 s.nv.cycles ++ leBytes 4 0 ++
  slice nonce 0 32 ++ slice (slotMeasures (currentSlot s)) 0 384 ++ fuseEntry s ++ configEntry s

/-- ID_QUOTE (15 R394): the signature is free (log 8). -/
def execIdQuote (tag : Nat) (nonce : List Byte) (s : State) : Host.Outcome State Fault Refusal :=
  lonusCmd tag 0x0103 [(32, ofLe nonce)] s fun s =>
    answer s (okBulk (quoteBody s nonce ++ slice (Config.quoteSignature (quoteBody s nonce)) 0 49856))

-- The owner record (15 R392)

/-- The continuation bytes that a lead byte of UTF-8 asks for, with the bounds of the first of them; none where the byte leads nothing. -/
def utf8Lead (b : Nat) : Option (Nat × Nat × Nat) :=
  if b < 0x80 then some (0, 0, 0)
  else if within 0xC2 b 0xDF then some (1, 0x80, 0xBF)
  else if within 0xE0 b 0xEF then some (2, if b = 0xE0 then 0xA0 else 0x80, if b = 0xED then 0x9F else 0xBF)
  else if within 0xF0 b 0xF4 then some (3, if b = 0xF0 then 0x90 else 0x80, if b = 0xF4 then 0x8F else 0xBF)
  else none

/-- Whether bytes are UTF-8, `n` continuation bytes still due and the first of them between `lo` and `hi`. -/
def utf8From (n lo hi : Nat) : List Byte → Bool
  | [] => decide (n = 0)
  | b :: bs =>
    if n = 0 then match utf8Lead b.toNat with
      | some (k, l, h) => utf8From k l h bs
      | none => false
    else within lo b.toNat hi && utf8From (n - 1) 0x80 0xBF bs

/-- A name in UTF-8, zero-padded: no byte but 0 follows a 0. -/
def nameOk (bs : List Byte) : Bool :=
  utf8From 0 0 0 bs && (bs.dropWhile fun b => decide (b ≠ 0)).all fun b => decide (b = 0)

/-- The layout of an owner record (15 R392). -/
def ownerOk (r : List Byte) : Bool :=
  decide (r.length = 256 ∧ getLe r 0 2 = 1) && nameOk (slice r 68 64) && (slice r 2 2 ++ slice r 132 124).all fun b => decide (b = 0)

/-- ID_OWNER_SET (15 R392). -/
def ownerSet (tag : Nat) (own : List Byte) (s : State) : State × Option Reply :=
  let r := bulkOf s tag own
  if !ownerOk r || s.nv.owner.isSome then fail s .badParam
  else answer (disarmNext (updNv s fun nv => { nv with owner := some r })) (rep .ok)

def execIdOwnerSet (tag : Nat) (record : List Byte) (s : State) : Host.Outcome State Fault Refusal :=
  lonusCmd tag 0x0110 [] s (ownerSet tag record)

/-- ID_OWNER_CLEAR (15 R392). -/
def execIdOwnerClear (tag : Nat) (s : State) : Host.Outcome State Fault Refusal :=
  lonusCmd tag 0x0111 [] s fun s =>
    if s.nv.owner.isNone then fail s .notFound
    else answer (disarmNext (updNv s fun nv => { nv with owner := none })) (rep .ok)

-- Firmware (15 R385, R386)

/-- The digest of the stored owner key, 64 bytes of SHAKE256. -/
def ownerDigest (s : State) : Option (List Byte) := s.nv.owner.map fun r => shake256 (slice r 4 64) 64

/-- Slot next is disarmed and being written; the set it held is gone (15 R385, R386). -/
def beginStage (s : State) : State := updNext s fun x => { x with state := .writing, set := none, ownerDigest := none, reachedReady := false }

/-- The status that the checks of a set being staged give, by its first bytes `b` of `total` (15 R385): conditions 1 to 6 once the head has arrived, then
condition 7 of each image that has arrived whole. -/
def stageFails (s : State) (b : List Byte) (total : Nat) : Option Status :=
  if b.length < setHeadBytes then none
  else
    let x := parseSet b total
    match fwHead s x (ownerDigest s) with
    | 0 => if (List.range 5).all fun i => decide (b.length < imageEnd b i) || fwImage x i then none else some .badParam
    | 5 | 6 => some .version
    | _ => some .badParam

/-- FW_STAGE (15 R385): the slot ends staged, or bad by `complete`. A set whose bulk had no byte is no set (14 R359). -/
def fwStage (tag : Nat) (own : List Byte) (s : State) : State × Option Reply :=
  let b := bulkOf s tag own
  if b.isEmpty then fail s .badParam
  else
    let x := parseSet b b.length
    let key := ownerDigest s
    let s := updNext (beginStage s) fun p => { p with set := some x, ownerDigest := key, reachedReady := false }
    match (if b.length < setHeadBytes then some .badParam else stageFails s b b.length) with
    | some st => fail s st
    | none => answer (emit (updNext s fun p => { p with state := .staged }) evFwStaged [x.set]) (rep .ok)

def execFwStage (tag : Nat) (data : List Byte) (s : State) : Host.Outcome State Fault Refusal := lonusCmd tag 0x0A01 [] s (fwStage tag data)

/-- FW_ARM (15 R386). -/
def execFwArm (tag : Nat) (s : State) : Host.Outcome State Fault Refusal :=
  lonusCmd tag 0x0A02 [] s fun s =>
    if (nextSlot s).state = .staged then answer (updNext s fun x => { x with state := .armed }) (rep .ok) else fail s .notFound

/-- FW_DISARM (15 R386). -/
def execFwDisarm (tag : Nat) (s : State) : Host.Outcome State Fault Refusal :=
  lonusCmd tag 0x0A03 [] s fun s => answer (disarmNext s) (rep .ok)

/-- FW_STATUS (14 R474). -/
def execFwStatus (tag : Nat) (s : State) : Host.Outcome State Fault Refusal :=
  lonusCmd tag 0x0A04 [] s fun s => answer s (okItems (words [modWord s 0x410, modWord s 0x414, modWord s 0x418]))

end Sys2Proof.Machine
end

