-- ==== Sys2Proof/Machine/Jobs.lean ====
section
/-! DEFINITION. The job-block commands (01 R22, 02 R40 to R44, 03 R65, R67, 11 R272). -/

namespace Sys2Proof.Machine

-- JOB_LOAD (02 R42)

/-- The block that JOB_LOAD's parameters define. -/
def blockFor (p : JobParams) : Block :=
  { st := .loaded, x0 := p.x0, y0 := p.y0, z0 := p.z0, dx := p.dx, dy := p.dy, dz := p.dz, seed := p.seed.toNat, step := p.firstStep,
    slotBase := p.cslotBase, slotCnt := p.cslotCount }

/-- Ranges, R40's definition and R67's bounds (02 R42 check 1). -/
def jobRanges (p : JobParams) : Bool :=
  decide (p.block < 128 ∧ p.x0 < 8 ∧ p.y0 < 4 ∧ p.z0 < 4) && within 1 p.dx 8 && within 1 p.dy 4 && within 1 p.dz 4 &&
  decide ((p.dx = 8 → p.x0 = 0) ∧ (p.dy = 4 → p.y0 = 0) ∧ (p.dz = 4 → p.z0 = 0)) &&
  decide (p.firstStep < 2 ^ 48 ∧ p.cslotBase < 16384 ∧ p.cslotBase + p.cslotCount ≤ 16384)

/-- The members of a box. -/
def membersOf (b : Block) : List Nat := (List.range 128).filter (inBox b)

/-- Whether a box shares an accelerator with a loaded block (02 R42 check 3). -/
def boxMeets (s : State) (b : Block) : Bool := (membersOf b).any fun e => (blockOfEpa s e).isSome

/-- Whether a count-slot range meets a loaded block's (02 R42 check 4); an empty range meets none. -/
def slotsMeet (s : State) (b : Block) : Bool :=
  (loadedBlocks s).any fun k =>
    let x := blockOf s k
    decide (max b.slotBase x.slotBase < min (b.slotBase + b.slotCnt) (x.slotBase + x.slotCnt))

/-- The ports whose plan entry names an accelerator, with the entry's state. -/
def portsNaming (s : State) (e : Nat) : List (Nat × Nat) :=
  (allPorts s).filterMap fun p => match planEntry s p with
    | some x => if x.epa = e ∧ (x.state = 1 ∨ x.state = 2) then some (p, x.state) else none
    | none => none

/-- Whether a member has a planned port, none vacant, all Up with plan check PASS (02 R42 check 5). -/
def memberReady (s : State) (e : Nat) : Bool :=
  let l := portsNaming s e
  !l.isEmpty && l.all fun x => decide (x.2 = 1) && portOk s x.1

/-- The sequence state of a block's members and groups starts afresh (03 R62, R65). DESIGN CHOICE: the module's pair with itself, which no block's load
names, never does (log 27). -/
def clearPairs (s : State) (b : Nat) (mem : List Nat) : State :=
  let v := b2n s.epoch.active
  { s with e2e := { s.e2e with
      recv := s.e2e.recv.filter fun r => !mem.contains r.1,
      txSeq := s.e2e.txSeq.filter fun r => !(mem.contains r.1 || (decide (65536 ≤ r.1) && decide (mcastOwner s v (r.1 - 65536) = b))) } }

/-- The effect of a JOB_LOAD that passed: idle ports of members wake (12 R313), STEPSRC resets (11 R294). -/
def loadBlock (s : State) (b : Nat) (x : Block) : State :=
  let mem := membersOf x
  let ports := (allPorts s).filter fun p => (plannedEpa s p).any mem.contains
  let s := ports.foldl wakeLine s
  let s := clearPairs { s with regs := Tab.set none s.regs (0x50006008 + 0x10 * b) none } b mem
  updBlock s b fun _ => x

/-- JOB_LOAD (02 R42). -/
def jobLoad (p : JobParams) (s : State) : State × Option Reply :=
  let x := blockFor p
  if ¬ jobRanges p then fail s .badParam
  else if isLoaded s p.block then fail s .badState
  else if boxMeets s x ∨ slotsMeet s x then fail s .badParam
  else if ¬ (membersOf x).all (memberReady s) then fail s .notFound
  else answer (loadBlock s p.block x) (rep .ok)

/-- The parameters of JOB_LOAD as its table lists them. -/
def jobItems (p : JobParams) : List Item :=
  [(2, p.block), (2, p.x0), (2, p.y0), (2, p.z0), (2, p.dx), (2, p.dy), (2, p.dz), (8, p.seed.toNat), (8, p.firstStep), (2, p.cslotBase),
   (2, p.cslotCount)]

def execJobLoad (tag : Nat) (p : JobParams) (s : State) : Host.Outcome State Fault Refusal := lonusCmd tag 0x0401 (jobItems p) s (jobLoad p)

-- Activation, pause, resume (01 R22)

/-- A block becomes Active; the module goes from Ready to Run (01, table "Module transitions"). -/
def activate (s : State) (b : Nat) : State :=
  let s := updBlock s b fun x => { x with st := .active, pause := false }
  if s.mod.st = .ready then updMod s fun m => { m with st := .run } else s

/-- Move a block from `st` to Active: BADSTATE during a transition (18 R453) and below the operating floor (16 R404). -/
def toActive (st : BlockState) (b : Nat) (s : State) : State × Option Reply :=
  if s.mod.trans.isSome then fail s .badState
  else if ¬ isLoaded s b then fail s .notFound
  else if (blockOf s b).st ≠ st ∨ (capNow s).1 < 900 then fail s .badState
  else answer (activate s b) (rep .ok)

def execJobActivate (tag block : Nat) (s : State) : Host.Outcome State Fault Refusal := lonusCmd tag 0x0402 [(2, block)] s (toActive .loaded block)

def execJobResume (tag block : Nat) (s : State) : Host.Outcome State Fault Refusal := lonusCmd tag 0x0404 [(2, block)] s (toActive .paused block)

/-- JOB_PAUSE (01 R22): pending until the next step boundary. -/
def jobPause (b : Nat) (s : State) : State × Option Reply :=
  if ¬ isLoaded s b then fail s .notFound
  else if (blockOf s b).st ≠ .active then fail s .badState
  else answer (updBlock s b fun x => { x with pause := true }) (rep .ok)

def execJobPause (tag block : Nat) (s : State) : Host.Outcome State Fault Refusal := lonusCmd tag 0x0403 [(2, block)] s (jobPause block)

-- JOB_UNLOAD (01 R22, 06 R144, 08 R194, 11 R289)

/-- End the recordings of a block at its unload, with RECORD_END (11 R289). -/
def endRecords (s : State) (b : Nat) : State :=
  (List.range 16).foldl (fun s k =>
    let r := ringOf s k
    if r.st = 1 ∧ ¬ r.capture ∧ r.block = b then emitB (ringEnd s k) b evRecordEnd [] else s) s

/-- Unload a block: its recordings, packets, images and harnesses go with it. The counters that are cleared at load stay (02 R51, 11 R294, 13 R346). -/
def unloadBlock (s : State) (b : Nat) : State :=
  let mem := membersOf (blockOf s b)
  let s := clearLarder (clearGalley (dropBlock (endRecords s b) b none) b) b
  let s := ((List.range 1024).filter fun i => decide ((imgOf s i).st ≠ 0 ∧ (imgOf s i).owner = b)).foldl freeImage s
  let s := ((List.range 1024).filter fun h => harnLoadedBy s h b).foldl freeHarness s
  let s := clearPairs s b mem
  settle (winRelease (updBlock s b fun x => { refuse := x.refuse, choice := x.choice, skew := x.skew }) b)

/-- JOB_UNLOAD (01 R22). -/
def jobUnload (b : Nat) (s : State) : State × Option Reply :=
  if ¬ isLoaded s b then fail s .notFound
  else if (blockOf s b).st = .active then fail s .badState
  else answer (unloadBlock s b) (rep .ok)

def execJobUnload (tag block : Nat) (s : State) : Host.Outcome State Fault Refusal := lonusCmd tag 0x0405 [(2, block)] s (jobUnload block)

/-- JOB_STATUS (14, 02 R51): STAT, STEP_LO, STEP_HI, CHOICE. -/
def execJobStatus (tag block : Nat) (s : State) : Host.Outcome State Fault Refusal :=
  lonusCmd tag 0x0406 [(2, block)] s fun s =>
    if 128 ≤ block then fail s .badParam
    else answer s (okItems (words [jblkWord s block 1, stepWord s block 0, stepWord s block 1, stepWord s block 3]))

/-- JOB_STEP_CLOSE (11 R272): a v of more than 48 bits is no parameter (14 R358 check 6). -/
def jobStepClose (b v : Nat) (s : State) : State × Option Reply :=
  if 2 ^ 48 ≤ v then fail s .badParam
  else if ¬ isLoaded s b then fail s .notFound
  else if (blockOf s b).st ≠ .active then fail s .badState
  else if v < (blockOf s b).step ∨ bit (stepSrc s b) 0 then fail s .badParam
  else answer (closeReq s b v) (rep .ok)

def execJobStepClose (tag block v : Nat) (s : State) : Host.Outcome State Fault Refusal := lonusCmd tag 0x0420 [(2, block), (8, v)] s (jobStepClose block v)

end Sys2Proof.Machine
end

