-- ==== Sys2Proof/Machine/Management.lean ====
section
/-! DEFINITION. Presence, seals and debug (14 R368 to R370), the I3C sideband (R371, R372), the Lonus port: frames, sessions, output
(R347 to R367). -/

namespace Sys2Proof.Machine

-- Debug (14 R370)

/-- Resume the halted threads that satisfy `p`. -/
def resumeThreads (s : State) (p : Thread → Bool) : State :=
  { s with thr := Tab.mapV {} s.thr fun t => if p t then { t with halted := false } else t }

/-- Lock debug: every session is detached, every halted thread resumes (14 R370). -/
def debugLock (s : State) : State :=
  if s.mgmt.debug then
    let s := resumeThreads { s with mgmt := { s.mgmt with debug := false } } fun _ => true
    emit { s with img := Tab.mapV {} s.img fun i => if i.st = 2 then { i with st := 1 } else i } evDebugLocked []
  else s

/-- DEBUG_UNLOCK (14 R370). -/
def debugUnlock (s : State) : State :=
  if s.mgmt.debug then s else emit { s with mgmt := { s.mgmt with debug := true } } evDebugUnlocked []

def execDebugUnlock (tag : Nat) (s : State) : Host.Outcome State Fault Refusal :=
  lonusCmd tag 0x0C01 [] s fun s => answer (debugUnlock s) (rep .ok)

def execDebugLock (tag : Nat) (s : State) : Host.Outcome State Fault Refusal :=
  lonusCmd tag 0x0C02 [] s fun s => answer (debugLock s) (rep .ok)

/-- DEBUG_ATTACH (14). -/
def execDebugAttach (tag image : Nat) (s : State) : Host.Outcome State Fault Refusal :=
  lonusCmd tag 0x0C10 [(2, image)] s fun s =>
    if !s.mgmt.debug then fail s .denied
    else if (imgOf s image).st = 0 then fail s .notFound
    else answer (updImg s image fun i => { i with st := 2 }) (rep .ok)

/-- DEBUG_DETACH (14): the session's halted threads resume. -/
def execDebugDetach (tag image : Nat) (s : State) : Host.Outcome State Fault Refusal :=
  lonusCmd tag 0x0C11 [(2, image)] s fun s =>
    if (imgOf s image).st ≠ 2 then fail s .notFound
    else answer (resumeThreads (updImg s image fun i => { i with st := 1 }) fun t => decide (t.image = image)) (rep .ok)

/-- A running or sleeping thread of an image. -/
def imageThread (s : State) (image : Nat) (t : ThreadRef) : Bool :=
  decide ((imgOf s image).st ≠ 0) && thrExists t && (thrOf s t).live && decide ((thrOf s t).image = image)

/-- The parameters of DEBUG_THREAD and DEBUG_RESUME. -/
def threadItems (image : Nat) (t : ThreadRef) : List Item := [(2, image), (2, t.die), (2, t.cluster), (2, t.core), (2, t.thread)]

/-- DEBUG_THREAD (14 R474). -/
def execDebugThread (tag image : Nat) (t : ThreadRef) (s : State) : Host.Outcome State Fault Refusal :=
  lonusCmd tag 0x0C12 (threadItems image t) s fun s =>
    if !s.mgmt.debug then fail s .denied
    else if !imageThread s image t then fail s .notFound
    else
      let u := thrOf s t
      answer s (okItems (leBytes 4 (b2n u.halted) ++ leBytes 4 0 ++ leBytes 8 u.pc ++
        (List.range 31).flatMap fun i => leBytes 8 (Tab.get 0 u.x (i + 1)).toNat))

/-- DEBUG_RESUME (14). -/
def execDebugResume (tag image : Nat) (t : ThreadRef) (s : State) : Host.Outcome State Fault Refusal :=
  lonusCmd tag 0x0C13 (threadItems image t) s fun s =>
    if !s.mgmt.debug then fail s .denied
    else if !imageThread s image t then fail s .notFound
    else if !(thrOf s t).halted then fail s .badState
    else answer (updThr s t fun u => { u with halted := false }) (rep .ok)

-- Presence and seals (14 R368, R369)

/-- PRESENCE_OPEN (14 R368): a button pulse opens the window for 300 s or restarts it, a jumper opens it until its release. -/
def presenceOpen (s : State) (jumper : Bool) : State :=
  if alive s then
    let was := s.mgmt.opened
    let m := { s.mgmt with opened := true, jumper := s.mgmt.jumper || jumper, closeAt := if jumper then s.mgmt.closeAt else s.now + 300000000000 }
    if was then { s with mgmt := m } else emit { s with mgmt := m } evPresenceOpen []
  else s

def execPresenceOpen (jumper : Bool) (s : State) : Host.Outcome State Fault Refusal := done s (presenceOpen s jumper)

/-- PRESENCE_CLOSE (14 R368): at a button window's end, or at the jumper's release; debug locks (R370). -/
def presenceClose (s : State) : State :=
  if s.mgmt.opened then
    let s := if s.mgmt.jumper then s else waitUntil s s.mgmt.closeAt
    debugLock (emit { s with mgmt := { s.mgmt with opened := false, jumper := false } } evPresenceClose [])
  else s

def execPresenceClose (s : State) : Host.Outcome State Fault Refusal := done s (presenceClose s)

def execPresenceStatus (tag : Nat) (s : State) : Host.Outcome State Fault Refusal :=
  lonusCmd tag 0x0A10 [] s fun s => answer s (okItems (words [presenceWord s]))

/-- Whether a seal loop is open. -/
def loopOpen (s : State) (b : Bool) : Bool := if b then s.mgmt.sealB else s.mgmt.sealA

/-- A seal loop changes: logged, with its event (14 R369). -/
def sealChange (s : State) (b : Bool) (opens : Bool) : State :=
  let s := { s with mgmt := if b then { s.mgmt with sealB := opens } else { s.mgmt with sealA := opens } }
  emit (sealLogAdd s (b2n b) (b2n (!opens))) (if opens then evSealOpen else evSealClose) [b2n b]

/-- SEAL_OPEN (14 R369, R370). -/
def execSealOpen (loopB : Bool) (s : State) : Host.Outcome State Fault Refusal :=
  done s (if alive s && !loopOpen s loopB then debugLock (sealChange s loopB true) else s)

/-- SEAL_CLOSE (14 R369). -/
def execSealClose (loopB : Bool) (s : State) : Host.Outcome State Fault Refusal :=
  done s (if alive s && loopOpen s loopB then sealChange s loopB false else s)

/-- SEAL_LOG_READ's bulk (14 R369). -/
def sealLogBytes (s : State) : List Byte :=
  leBytes 2 s.nv.sealLog.length ++ leBytes 2 (min 63 s.nv.sealOverflow) ++ leBytes 4 0 ++
    s.nv.sealLog.flatMap fun e => leBytes 8 e.axle ++ leBytes 4 e.cycle ++ leBytes 1 e.loop ++ leBytes 1 e.kind ++ leBytes 2 0

def execSealLogRead (tag : Nat) (s : State) : Host.Outcome State Fault Refusal :=
  lonusCmd tag 0x0A11 [] s fun s => answer s (okBulk (sealLogBytes s))

def execSealLogClear (tag : Nat) (s : State) : Host.Outcome State Fault Refusal :=
  lonusCmd tag 0x0A12 [] s fun s => answer (updNv s fun nv => { nv with sealLog := [], sealOverflow := 0 }) (rep .ok)

-- I3C (14 R371, R372)

/-- The target works from Standby onward. -/
def i3cUpd (s : State) (f : I3c → I3c) : Host.Outcome State Fault Refusal := done s (if alive s then { s with i3c := f s.i3c } else s)

/-- What a CCC that reads returns. -/
def i3cOut (s : State) (b : List Byte) : Host.Outcome State Fault Refusal := i3cUpd s fun t => { t with out := t.out ++ [b] }

/-- The 48-bit provisional ID, most significant byte first: its unstated fields are free (14 R371; log 11). -/
def i3cPid (s : State) : List Byte :=
  let f := slice (Config.i3cPid s.fixed.serial) 0 4
  slice f 0 2 ++ [0x91, 0x28, BitVec.ofNat 8 (16 * s.mod.plane + getLe f 2 1 % 16)] ++ slice f 3 1

/-- BCR: IBI requests with a mandatory byte (14 R371; log 11). -/
def i3cBcr : Byte := 0x06

/-- ENTDAA: a target without a dynamic address sends PID, BCR and DCR and takes one. -/
def execEntdaa (addr : Nat) (s : State) : Host.Outcome State Fault Refusal :=
  let b := i3cPid s ++ [i3cBcr, 0]
  i3cUpd s fun t => if t.dyn.isNone ∧ addr < 128 then { t with dyn := some addr, out := t.out ++ [b] } else t

/-- The static address (14 R371). -/
def i3cStatic (s : State) : Nat := 0x30 + s.mod.plane % 2

/-- SETDASA. -/
def execSetdasa (staticAddr addr : Nat) (s : State) : Host.Outcome State Fault Refusal :=
  let ok := decide (staticAddr = i3cStatic s ∧ addr < 128)
  i3cUpd s fun t => if ok ∧ t.dyn.isNone then { t with dyn := some addr } else t

/-- SETNEWDA. -/
def execSetnewda (addr : Nat) (s : State) : Host.Outcome State Fault Refusal :=
  i3cUpd s fun t => if t.dyn.isSome ∧ addr < 128 then { t with dyn := some addr } else t

def execRstdaa (s : State) : Host.Outcome State Fault Refusal := i3cUpd s fun t => { t with dyn := none }

/-- ENEC and DISEC: bit 0 enables or disables IBI (log 11). -/
def execEnec (events : Byte) (s : State) : Host.Outcome State Fault Refusal :=
  i3cUpd s fun t => { t with ibi := t.ibi || events.getLsbD 0 }

def execDisec (events : Byte) (s : State) : Host.Outcome State Fault Refusal :=
  i3cUpd s fun t => { t with ibi := t.ibi && !events.getLsbD 0 }

def execGetpid (s : State) : Host.Outcome State Fault Refusal := i3cOut s (i3cPid s)
def execGetbcr (s : State) : Host.Outcome State Fault Refusal := i3cOut s [i3cBcr]
def execGetdcr (s : State) : Host.Outcome State Fault Refusal := i3cOut s [0]

/-- Return free bytes (log 11). -/
def i3cFree (s : State) (f : Nat → List Byte) : Host.Outcome State Fault Refusal :=
  done s (if alive s then let (k, s) := draw s; { s with i3c := { s.i3c with out := s.i3c.out ++ [f k] } } else s)

def execGetstatus (s : State) : Host.Outcome State Fault Refusal := i3cFree s Config.i3cStatus
def execGetmwl (s : State) : Host.Outcome State Fault Refusal := i3cFree s Config.i3cMwl
def execGetmrl (s : State) : Host.Outcome State Fault Refusal := i3cFree s Config.i3cMrl

/-- RSTACT: the action is kept (log 11). -/
def execRstact (action : Byte) (s : State) : Host.Outcome State Fault Refusal := i3cUpd s fun t => { t with rstAct := action.toNat }

/-- The byte map of the sideband (14, table "I3C map"). -/
def i3cMap (s : State) : List Byte :=
  leBytes 2 0x9128 ++ leBytes 1 (gradeCode s) ++ leBytes 1 0xB1 ++ leBytes 8 s.fixed.serial ++ leBytes 1 (stateCode s.mod.st) ++
  leBytes 1 (fields [(0, 1, b2n s.mgmt.opened), (1, 1, b2n s.lonus.orphan), (2, 1, b2n s.axle.locked)]) ++
  leBytes 2 s.pwr.draw ++ leBytes 2 (capNow s).1 ++ leBytes 2 s.pwr.trayCap ++ leBytes 1 (alertByte s) ++
  leBytes 1 (((diePositions s).map fun p => governAt s.therm p / 10).foldl max 0).toNat ++ leBytes 2 0

/-- Count an ignored I3C write. -/
def i3cDropped (s : State) : State := updLonus s fun l => { l with i3cDrop := satInc 8 l.i3cDrop }

/-- One data byte of a private write at the current offset: the two bytes of tray_cap_w gather in `acc`, any other byte is ignored and counted. -/
def i3cByte (acc : State × List Byte × Bool) (b : Byte) : State × List Byte × Bool :=
  let (s, cap, hit) := acc
  let o := s.i3c.offset
  let s := { s with i3c := { s.i3c with offset := (o + 1) % 24 } }
  if o = 0x12 ∨ o = 0x13 then (s, cap.set (o - 0x12) b, true) else (i3cDropped s, cap, hit)

/-- I3C_PRIVATE_WRITE (14 R372): the tray cap of the whole transfer takes effect where it is in range (log 11). -/
def i3cWrite (s : State) : List Byte → State
  | [] => s
  | o :: data =>
    let s := { s with i3c := { s.i3c with offset := o.toNat % 24 } }
    let (s, cap, hit) := data.foldl i3cByte (s, leBytes 2 s.pwr.trayCap, false)
    let v := ofLe cap
    if !hit then s
    else if v = 0 ∨ within 900 v (sustained s) then capChanged (updPwr s fun p => { p with trayCap := v })
    else i3cDropped s

/-- A private read of `n` bytes from the offset where the last transfer ended (14 R372). -/
def i3cRead (s : State) (n : Nat) : State :=
  let o := s.i3c.offset
  let b := (List.range n).map fun i => ((i3cMap s)[(o + i) % 24]?).getD 0
  if n = 0 then s else { s with i3c := { s.i3c with offset := (o + n) % 24, out := s.i3c.out ++ [b] } }

/-- A private transfer: the bytes written, then the bytes read, of which a plain write has none (14 R372). -/
def execI3cPrivateWrite (bytes : List Byte) (s : State) (reads : Nat := 0) : Host.Outcome State Fault Refusal :=
  done s (if alive s then i3cRead (i3cWrite s bytes) reads else s)

-- Sessions (14 R351, R352)

/-- End the open session: commands that wait for bulk are dropped, kept and queued responses are discarded,
stream frames not sent are dropped and counted. -/
def endSession (s : State) : State :=
  let staging := s.lonus.outstanding.any fun c => decide (c.op = 0x0A01) && !c.bulkDone
  let s := if staging then stageAbort s else s
  let drop := fun (l : Lonus) => streamDrop (streamDrop l true l.telemQ.length) false l.mirrorQ.length
  updLonus s fun l => { drop l with opened := false, closing := none, outstanding := l.outstanding.filter fun c => c.bulkDone,
                                    kept := [], respQ := [], bulkQ := [], telemQ := [], mirrorQ := [] }

/-- SESSION_OPEN (14 R351): the next number, 0 skipped; the first after a stop or pin reset forms its event (16 R398, 18 R445). -/
def sessionOpen (tag rx : Nat) (s : State) : State × Option Reply :=
  if within 1 rx 25 then
    let s := if s.lonus.opened then endSession s else s
    let n := if (s.lonus.session + 1) % 65536 = 0 then 1 else (s.lonus.session + 1) % 65536
    let s := updLonus (stopEvent s) fun l => { l with
      opened := true, session := n, rxRate := rx,
      outstanding := l.outstanding.map fun c => if c.tag = tag ∧ c.op = 0x0240 then { c with session := n } else c }
    answer s (okItems (leBytes 2 n))
  else fail s .badParam

def execSessionOpen (tag rxRate : Nat) (s : State) : Host.Outcome State Fault Refusal := lonusCmd tag 0x0240 [(2, rxRate)] s (sessionOpen tag rxRate)

/-- SESSION_CLOSE (14 R352): the session ends when its response has been sent. -/
def execSessionClose (tag : Nat) (s : State) : Host.Outcome State Fault Refusal :=
  lonusCmd tag 0x0241 [] s fun s =>
    answer (if s.lonus.opened then updLonus s fun l => { l with closing := some tag } else s) (rep .ok)

-- Frames in (14 R349 to R359)

/-- Whether a host frame is good (14 R350) and carries its session's number (R351). -/
def frameOk (s : State) (f : Frame) : Bool :=
  decide (f.payload.length = f.length.toNat ∧ f.trailer.toNat = frameCrc f ∧ (f.ftype = 1 ∨ f.ftype = 5) ∧ f.length.toNat ≤ 16384 ∧
    f.flagsRsvd = 0 ∧ f.rsvd = 0 ∧ f.status = 0) &&
  (if f.ftype = 1 ∧ f.code.toNat = 0x0240 then decide (f.session = 0) else s.lonus.opened && decide (f.session.toNat = s.lonus.session))

/-- Discard a host frame without answer (14 R350, R351). -/
def frameBad (s : State) : State := updLonus s fun l => { l with bad := satInc 12 l.bad }

/-- Answer a command that is not executed: its response is kept and queued; while no session is open a SESSION_OPEN is answered too (14 R354). -/
def refuseNow (s : State) (tag op : Nat) (st : Status) : State :=
  let x : Response := { tag := tag, op := op, status := statusCode st, payload := [], bulk := [], axle := s.axle.value }
  if s.lonus.opened then queueResponse (updLonus s fun l => { l with kept := keepResponse l x }) x
  else if op = 0x0240 then queueResponse s x
  else s

/-- Steps 1 and 2 of 14 R358, with the boot ROM's rule (R364), made as a command arrives. -/
def arriveCheck (s : State) (op : Nat) : Option Status :=
  match cmdRow op with
  | none => some .notFound
  | some (_, _, orph) => if (s.mod.bootRom ∧ op ∉ bootCmds) ∨ (s.lonus.orphan ∧ ¬ orph) then some .denied else none

/-- A new command: NOSPACE beyond 64 outstanding; a transfer of more than 256 MiB is out of range (14 R354, R359). -/
def newCommand (s : State) (f : Frame) : State :=
  let tag := f.tag.toNat
  let op := f.code.toNat
  let s := updLonus s fun l => { l with kept := l.kept.filter fun r => decide (r.tag ≠ tag) }
  if 64 ≤ s.lonus.outstanding.length then refuseNow s tag op .noSpace
  else match arriveCheck s op with
    | some st => refuseNow s tag op st
    | none =>
      if 2 ^ 28 < f.word.toNat then refuseNow s tag op .badParam
      else updLonus s fun l => { l with outstanding := l.outstanding ++
        [{ tag := tag, session := f.session.toNat, op := op, word := f.word.toNat, payload := f.payload, bulk := [],
           bulkDone := decide (f.word.toNat = 0), lastAt := s.now, late := decide (op = 0x0201) && s.mod.trans.isSome }] }

/-- The outstanding command of a frame's tag and session. -/
def frameCmd (s : State) (f : Frame) : Option Cmd :=
  s.lonus.outstanding.find? fun c => decide (c.tag = f.tag.toNat ∧ c.session = f.session.toNat)

/-- A good COMMAND frame by its tag (14 R353). -/
def commandIn (s : State) (f : Frame) : State :=
  let tag := f.tag.toNat
  if (frameCmd s f).isSome then (if f.resend then s else emit s evTagReuse [])
  else match (if f.resend then s.lonus.kept.find? fun r => decide (r.tag = tag) else none) with
    | some r => queueResponse s { r with resend := true }
    | none => newCommand s f

/-- Replace an outstanding command. -/
def setCmd (s : State) (c d : Cmd) : State :=
  updLonus s fun l => { l with outstanding := l.outstanding.map fun x => if x = c then d else x }

/-- Bytes of FW_STAGE's 256 KiB buffer in use when a frame arrives: the flash takes 4 bytes per µs (15 R385). -/
def stageBuf (s : State) (c : Cmd) : Nat := c.buf - 4 * (s.now - c.lastAt) / 1000

/-- A good BULK frame (14 R359; 15 R385: a set is checked as it arrives): offsets run contiguously to the announced length, the final frame carries last. -/
def bulkIn (s : State) (f : Frame) : State :=
  match frameCmd s f with
  | none => s
  | some c =>
    if c.bulkDone then s
    else
      let stage := decide (c.op = 0x0A01)
      let s := if stage && c.bulk.isEmpty && (precheck s c.op).isNone then beginStage (disarmNext s) else s
      let all := c.bulk ++ f.payload
      let full := stage && decide (262144 ≤ stageBuf s c)
      if c.lastAt + 1000000000 < s.now then completeAs s (some c) c.tag c.op (rep .timeout)
      else if f.word.toNat ≠ c.bulk.length ∨ f.code.toNat ≠ c.op ∨ c.word < all.length ∨ (f.last ≠ decide (all.length = c.word)) ∨ full then
        completeAs s (some c) c.tag c.op (rep .badParam)
      else match (if stage then stageFails s all c.word else none) with
      | some st => completeAs s (some c) c.tag c.op (rep st)
      | none => setCmd s c { c with bulk := all, bulkDone := f.last, lastAt := s.now, buf := stageBuf s c + f.payload.length }

/-- A host frame arrives on a line that is up (14 R350). -/
def frameIn (s : State) (f : Frame) : State :=
  if !alive s || !s.lonus.lineUp then s
  else if !frameOk s f then frameBad s
  else if f.ftype = 1 then commandIn s f else bulkIn s f

def execCommandFrame (f : Frame) (s : State) (words : List (List Nat) := []) (start : Nat := 0) : Host.Outcome State Fault Refusal :=
  done s (frameIn s (rowFrame f words start))

def execBulkFrame (f : Frame) (s : State) (words : List (List Nat) := []) (start : Nat := 0) : Host.Outcome State Fault Refusal :=
  done s (frameIn s (rowFrame f words start))

/-- BULK_TIMEOUT (14 R359): more than 1 s since the last frame of the transfer. -/
def bulkTimeout (s : State) (tag : Nat) : State :=
  match s.lonus.outstanding.find? fun c => decide (c.tag = tag) && !c.bulkDone with
  | some c => completeAs (waitUntil s (c.lastAt + 1000000001)) (some c) tag c.op (rep .timeout)
  | none => s

def execBulkTimeout (tag : Nat) (s : State) : Host.Outcome State Fault Refusal := done s (bulkTimeout s tag)

-- Frames out (14 R367)

/-- Send a response; the session ends after SESSION_CLOSE's own (14 R352). -/
def sendResponse (s : State) (r : Response) : State :=
  let s := sendFrame (updLonus s fun l => { l with respQ := l.respQ.erase r }) (respFrame s r)
  if s.lonus.closing = some r.tag then endSession s else s

/-- Send the next frame of the bulk at the front. -/
def sendBulk (s : State) (tag op off : Nat) (b : List Byte) (rest : List (Nat × Nat × Nat × List Byte)) : State :=
  let n := bulkPart s.lonus
  let left := b.drop n
  let s := updLonus s fun l => { l with bulkQ := if left.isEmpty then rest else (tag, op, off + n, left) :: rest }
  sendFrame s (bulkOut s tag op off (b.take n) left.isEmpty)

/-- The next frame (14 R359, R367): RESPONSE (its bulk sent first), EVENT, BULK, TELEMETRY, MIRROR. -/
def sendNextFrame (s : State) : State :=
  let l := s.lonus
  match l.respQ.find? fun r => !(l.bulkQ.any fun b => decide (b.1 = r.tag)) with
  | some r => sendResponse s r
  | none => match l.events with
    | e :: es => sendFrame (updLonus s fun l => { l with events := es }) (eventFrame s e)
    | [] => match l.bulkQ with
      | (tag, op, off, b) :: rest => sendBulk s tag op off b rest
      | [] => match l.telemQ with
        | f :: fs => sendFrame (updLonus s fun l => { l with telemQ := fs }) (streamOut s 4 f)
        | [] => match l.mirrorQ with
          | f :: fs => sendFrame (updLonus s fun l => { l with mirrorQ := fs }) (streamOut s 6 f)
          | [] => s

/-- OUTPUT_FRAME_SEND: where no frame follows, a fill word ends the codeword (14 R347). While no session is open only an answer to SESSION_OPEN is sent. -/
def sendOut (s : State) : State :=
  let s := sendNextFrame s
  let l := s.lonus
  if l.respQ.isEmpty && l.events.isEmpty && l.bulkQ.isEmpty && l.telemQ.isEmpty && l.mirrorQ.isEmpty then updLTx s (txClose lonusLine) else s

def execOutputFrameSend (s : State) : Host.Outcome State Fault Refusal :=
  done s (if alive s && s.lonus.lineUp && (s.lonus.opened || !s.lonus.respQ.isEmpty) then sendOut s else s)

def execLonusLineUp (s : State) : Host.Outcome State Fault Refusal :=
  done s (if alive s && !s.mod.refBad then updLonus (lonusFill s) fun l => { l with lineUp := true } else s)

def execLonusLineDown (s : State) : Host.Outcome State Fault Refusal :=
  done s (updLonus (lonusFill s) fun l => { l with lineUp := false, refCut := false })

end Sys2Proof.Machine
end

