-- ==== Sys2Proof/Machine/Recording.lean ====
section
/-! DEFINITION. The recording and replay commands and the injection of a replay (11 R283 to R293). -/

namespace Sys2Proof.Machine

/-- A ring that begins to record block `b` now. -/
def freshRing (s : State) (b : Nat) : Ring :=
  { st := 1, block := b, begun := true, set := setNow s, plane := s.mod.plane, steady := steady s, startStep := (blockOf s b).step,
    startAxle := s.axle.value, startAt := xTime s 0, winStart := s.axle.value / 1000 }

/-- RECORD_START (11 R283): with a later start_step the recording begins at that boundary. -/
def recordStart (p : RecordParams) (s : State) : State × Option Reply :=
  let b := blockOf s p.block
  if 1 < p.wrap ∨ 1 < p.digest ∨ 1 < p.egress ∨ p.startStep.any (fun v => decide (2 ^ 48 ≤ v)) then fail s .badParam
  else if ¬ isLoaded s p.block then fail s .notFound
  else if p.ringMib = 0 ∨ p.startStep.any (fun v => decide (v < b.step)) then fail s .badParam
  else
    let r := { freshRing s p.block with egress := decide (p.egress = 1), wrap := decide (p.wrap = 1), digest := decide (p.digest = 1) }
    let r := match p.startStep with
      | some v => if b.step < v then { r with begun := false, waitStep := some v, startAxle := 0, startStep := 0 } else r
      | none => r
    match takeRing s p.ringMib (decide (ringsOn s false < 8)) r with
    | some (k, s) => answer s (okItems (leBytes 2 k))
    | none => fail s .noSpace

/-- The parameters of RECORD_START as its table lists them; a start_step of all ones is at once. -/
def recordItems (p : RecordParams) : List Item :=
  [(2, p.block), (2, p.ringMib), (2, p.wrap), (2, p.digest), (2, p.egress), (8, p.startStep.getD (2 ^ 64 - 1))]

def execRecordStart (tag : Nat) (p : RecordParams) (s : State) : Host.Outcome State Fault Refusal := lonusCmd tag 0x0B01 (recordItems p) s (recordStart p)

def execRecordStop (tag ring : Nat) (s : State) : Host.Outcome State Fault Refusal := lonusCmd tag 0x0B02 [(2, ring)] s (ringStop false ring)

/-- RECORD_STATUS (11 R283): the ring header. -/
def recordStatus (k : Nat) (s : State) : State × Option Reply :=
  let r := ringOf s k
  if 16 ≤ k then fail s .badParam
  else if r.st = 0 ∨ r.capture then fail s .notFound
  else answer s (okItems (ringHeader r))

def execRecordStatus (tag ring : Nat) (s : State) : Host.Outcome State Fault Refusal := lonusCmd tag 0x0B03 [(2, ring)] s (recordStatus ring)

def execRecordDump (tag ring offset length : Nat) (ecc : Ecc) (s : State) : Host.Outcome State Fault Refusal :=
  lonusCmd tag 0x0B04 [(2, ring), (8, offset), (4, length)] s (ringDump false ring offset length ecc)

/-- RING_FREE (11 R283): recordings, captures and loaded rings alike. -/
def ringFree (k : Nat) (s : State) : State × Option Reply :=
  let r := ringOf s k
  if 16 ≤ k ∨ r.st = 0 then fail s .notFound
  else if r.st = 1 ∨ r.st = 3 then fail s .badState
  else
    let s := updRing s k fun _ => {}
    answer { s with lard := { s.lard with rings := s.lard.rings.filter fun g => decide (g.1 ≠ k) } } (rep .ok)

def execRingFree (tag ring : Nat) (s : State) : Host.Outcome State Fault Refusal := lonusCmd tag 0x0B05 [(2, ring)] s (ringFree ring)

/-- The ring that a 64 B header describes (11, table "Ring header"). -/
def ringOfHeader (bs : List Byte) : Ring :=
  let f := getLe bs 5 1
  { st := 2, begun := true, set := getLe bs 0 4, arithRev := getLe bs 4 1, steady := bit f 0, egress := bit f 1, wrap := bit f 2,
    digest := bit f 3, complete := bit f 4, replayOut := bit f 5, capture := bit f 6, block := getLe bs 6 1, plane := getLe bs 7 1,
    startStep := getLe bs 8 6, startAxle := getLe bs 16 8, records := getLe bs 24 4, lost := getLe bs 28 4, crcSkip := getLe bs 32 4,
    first := getLe bs 40 8, used := getLe bs 48 8 }

/-- REPLAY_LOAD (11 R283): the bulk becomes a ring, as its header describes it (log 21). -/
def replayLoad (tag m : Nat) (own : List Byte) (s : State) : State × Option Reply :=
  let d := bulkOf s tag own
  if m = 0 ∨ d.length < 64 ∨ m * mib < d.length then fail s .badParam
  else match takeRing s m true (ringOfHeader d) with
    | some (k, s) => answer (lardStore s (ringOf s k).base d) (okItems (leBytes 2 k))
    | none => fail s .noSpace

def execReplayLoad (tag ringMib : Nat) (data : List Byte) (s : State) : Host.Outcome State Fault Refusal :=
  lonusCmd tag 0x0B10 [(2, ringMib)] s (replayLoad tag ringMib data)

-- Walking the records of a ring (11 R286, R287, R291)

/-- One record of a ring: its place, header fields, packet header and payload. -/
structure RingRec where
  pos    : Nat
  seq    : Nat
  axle   : Nat
  port   : Nat
  flags  : Nat
  lost   : Nat
  cyc    : Nat
  size   : Nat
  packet : Packet

/-- The record at a place of ring `r` (11 R286). -/
def recordAt (s : State) (r : Ring) (pos : Nat) : RingRec :=
  let h := lardRead s (r.base + pos) 32
  let f := getLe h 13 1
  let hdr := headerOf (lardRead s (r.base + pos + 32) 32)
  let n := if bit f 5 ∨ hdr.len = 0 then 0 else if bit f 0 then 32 else 32 * hdr.len.toNat
  { pos := pos, seq := getLe h 8 4, axle := getLe h 0 8, port := getLe h 12 1, flags := f, lost := getLe h 28 2, cyc := getLe h 24 4,
    size := if bit f 5 then 32 else 64 + n,
    packet := { hdr := hdr, payload := lardRead s (r.base + pos + 64) n, trailer := BitVec.ofNat 64 (getLe h 16 8) } }

/-- The record with number `seq`: at `pos`, or at the ring's start where the ring wrapped before it. -/
def recordFrom (s : State) (r : Ring) (pos seq : Nat) : RingRec :=
  let x := recordAt s r pos
  if x.seq = seq ∧ pos + x.size ≤ r.mib * mib then x else recordAt s r 64

/-- What stands next in a replay: an ingress record, a lost record, a digest with payload, or nothing (11 R293). -/
inductive ReplayNext where
  | inject (x : RingRec)
  | gap
  | digest (seq : Nat)
  | ended

/-- The next ingress record from `pos` with number `seq`, at most `n` records on (11 R291, R293). -/
def replayFind (s : State) (r : Ring) : Nat → Nat → Nat → ReplayNext
  | 0, _, _ => .ended
  | n + 1, pos, seq =>
    let x := recordFrom s r pos seq
    if x.lost ≠ 0 then .gap
    else if bit x.flags 1 ∨ bit x.flags 5 then replayFind s r n (x.pos + x.size) (seq + 1)
    else if bit x.flags 0 ∧ x.packet.hdr.len ≠ 0 then .digest seq
    else .inject x

/-- What the running replay does next. -/
def replayNext (s : State) : ReplayNext :=
  let r := ringOf s s.replay.inRing
  replayFind s r (r.records - s.replay.nextSeq) s.replay.pos s.replay.nextSeq

/-- The replay names the next record that it injects, if it has one (11 R294). -/
def replaySeek (s : State) : State :=
  match replayNext s with
  | .inject x => { s with replay := { s.replay with pos := x.pos, nextSeq := x.seq } }
  | _ => s

/-- End a replay that has nothing to inject next; one that has names its record (11 R293). -/
def replaySettle (s : State) : State :=
  if s.replay.running then
    match replayNext s with
    | .inject _ => replaySeek s
    | .gap => endReplay s (some evReplayGap) []
    | .digest n => endReplay s (some evReplayDigest) [n]
    | .ended => endReplay s (some evReplayDone) []
  else s

/-- REPLAY_START (11 R290): valid parameters (14 R358), then the checks in order. -/
def replayStart (k outMib start : Nat) (s : State) : State × Option Reply :=
  let r := ringOf s k
  if 16 ≤ k ∨ outMib = 0 then fail s .badParam
  else if s.replay.running ∨ r.st ≠ 2 ∨ ¬ r.complete ∨ r.capture ∨ (blockOf s r.block).st ≠ .active ∨ (blockOf s r.block).step ≠ r.startStep then
    fail s .badState
  else if start ≠ 0 ∧ start < s.axle.value then fail s .badParam
  else if r.set ≠ setNow s ∨ r.arithRev ≠ 3 ∨ r.plane ≠ s.mod.plane ∨ r.steady ≠ steady s then fail s .version
  else
    match takeRing s outMib (decide (ringsOn s false < 8)) { freshRing s r.block with egress := true, replayOut := true } with
    | some (o, s) =>
      let x := recordAt s r r.first
      let s := updRing s k fun r => { r with st := 3 }
      let s := { s with replay := { running := true, inRing := k, outRing := o, pos := r.first, nextSeq := x.seq,
                                    t0 := if start = 0 then s.axle.value + 100000 else start } }
      answer (replaySeek s) (okItems (leBytes 2 o))
    | none => fail s .noSpace

def execReplayStart (tag ring outMib startAxle : Nat) (s : State) : Host.Outcome State Fault Refusal :=
  lonusCmd tag 0x0B11 [(2, ring), (2, outMib), (8, startAxle)] s (replayStart ring outMib startAxle)

def execReplayStop (tag : Nat) (s : State) : Host.Outcome State Fault Refusal :=
  lonusCmd tag 0x0B12 [] s fun s => if s.replay.running then answer (endReplay s none []) (rep .ok) else fail s .badState

def execReplayStatus (tag : Nat) (s : State) : Host.Outcome State Fault Refusal :=
  lonusCmd tag 0x0B13 [] s fun s => answer s (okItems (words ((List.range 3).map (replayWord s))))

/-- Wait until the axle counter reads `v`. -/
def axleUntil (s : State) (v : Nat) : State := elapse s (v - s.axle.value)

/-- The crossbar cycles from the first ingress record to one, the wraps of 2^32 taken from the axle difference (11 R291). -/
def replayCycles (s : State) (axle0 : Nat) (x : RingRec) : Nat :=
  let c := (x.cyc + 2 ^ 32 - s.replay.cyc0 % 2 ^ 32) % 2 ^ 32
  c + ((x.axle - axle0) * 8 / 5 + 2 ^ 31 - c) / 2 ^ 32 * 2 ^ 32

/-- Wait until record `x` is due: in crossbar cycles where the recording counted them, a stretched cycle being one (01 R15, 11 R291). -/
def replayDue (s : State) (x : RingRec) : State :=
  match s.replay.axle0 with
  | none =>
    let s := axleUntil s s.replay.t0
    { s with replay := { s.replay with axle0 := some x.axle, cyc0 := x.cyc, n0 := xTime s 0 } }
  | some a =>
    if bit x.flags 4 then
      let left := s.replay.n0 + replayCycles s a x * 5 / 8 - xTime s 0
      elapse s (if (hubOf s 0).stretch then 2 * left else left)
    else axleUntil s (s.replay.t0 + (x.axle - a))

/-- REPLAY_INJECT (11 R291): the recorded packet meets every rule as if it had arrived, the Ladle's checks of a contribution (`checks`) included. An
uncorrectable error in it ends the replay (10 R262). -/
def replayInject (s : State) (checks : List LadleCheck) : State :=
  match if s.replay.running then replayNext s else .ended with
  | .inject x =>
    match badIn s ((ringOf s s.replay.inRing).base + x.pos) x.size with
    | some u => endReplay (ueFail s u 0xFFFF) none []
    | none =>
      let s := replayDue s x
      let s := { s with replay := { s.replay with pos := x.pos + x.size, nextSeq := x.seq + 1 } }
      replaySettle (if dpRuns s && decide ((portOf s x.port).stage = .up) then process (countArrival s x.port x.packet) x.port x.packet checks else s)
  | _ => replaySettle s

def execReplayInject (s : State) (checks : List LadleCheck := []) : Host.Outcome State Fault Refusal := done s (replayInject s checks)

end Sys2Proof.Machine
end

