-- ==== Sys2Proof/Machine/Tables.lean ====
section
/-! DEFINITION. The table commands (05 R122 to R130). -/

namespace Sys2Proof.Machine

/-- Whether a valid coordinate entry names a port of the configured width that the plan in force assigns to its EPA; way 1 only in x2 mode beside a
valid way 0 of the same lane chiplet (05 R124). -/
def coordOk (s : State) (v i : Nat) : Bool :=
  let c := coordEntry s v i
  let p := bits c 0 8
  !bit c 8 ||
    (portExists s p &&
     (match planEntry s p with
      | some e => decide ((e.state = 1 ∨ e.state = 2) ∧ e.epa = i / 2)
      | none => false) &&
     (decide (i % 2 = 0) ||
      (let c0 := coordEntry s v (i - 1)
       bit c0 8 && decide (portW s p = 0 ∧ chipletOf s (bits c0 0 8) = chipletOf s p))))

/-- Whether a valid group has a member (05 R124). -/
def groupOk (s : State) (v g : Nat) : Bool :=
  !mcastValid s v g || (List.range 4).any fun w => decide (regAt s (maskAddr v g w) 0 ≠ 0)

/-- The first failing entry of a version: its table and index (05 R124). -/
def tableFault (s : State) (v : Nat) : Option (Nat × Nat) :=
  match (List.range 256).find? fun i => !coordOk s v i with
  | some i => some (0, i)
  | none => ((List.range 4096).find? fun g => !groupOk s v g).map fun g => (1, g)

def setVer (s : State) (v : Nat) (x : VerState) : State :=
  { s with epoch := if v = 0 then { s.epoch with verA := x } else { s.epoch with verB := x } }

/-- The effect of a flip that passed (05 R126, R127): each die stamps the new epoch from the next exchange. -/
def flipTo (s : State) (v : Nat) : State :=
  if s.mod.st = .setup then { s with epoch := { s.epoch with active := decide (v = 1), loaded := true } }
  else
    let s := setVer (setVer s v .active) (1 - v) .draining
    { s with epoch := { s.epoch with active := decide (v = 1), sealed := false } }

/-- TABLE_FLIP (05 R124 to R127): unequal copies send the module to Hold (R125). -/
def tableFlip (v : Nat) (agree : Bool) (s : State) : State × Option Reply :=
  if 2 ≤ v then fail s .badParam
  else if s.mod.st ≠ .setup ∧ (verOf s v ≠ .writable ∨ verOf s (1 - v) = .draining) then fail s .badState
  else match tableFault s v with
    | some (t, i) => answer s (.badParam, leBytes 2 t ++ leBytes 2 i, [])
    | none => if agree then answer (flipTo s v) (rep .ok) else fail (enterHold s 2 none) .faulted

def execTableFlip (tag version : Nat) (copiesAgree : Bool) (s : State) : Host.Outcome State Fault Refusal :=
  lonusCmd tag 0x0301 [(2, version)] s (tableFlip version copiesAgree)

/-- TABLE_SEAL (05 R128). -/
def tableSeal (s : State) : State × Option Reply :=
  if (verOf s 0 = .draining ∨ verOf s 1 = .draining) ∧ ¬ s.epoch.sealed then
    answer { s with epoch := { s.epoch with sealed := true, sealedAt := s.now, slow := false } } (rep .ok)
  else fail s .badState

def execTableSeal (tag : Nat) (s : State) : Host.Outcome State Fault Refusal := lonusCmd tag 0x0302 [] s tableSeal

/-- The address of the other version's copy of a table word. -/
def otherTable (v a : Nat) : Nat :=
  if a < coordAddr v 256 then a - coordAddr v 0 + coordAddr (1 - v) 0 else a - maskAddr v 0 0 + maskAddr (1 - v) 0 0

/-- Copy version `v` over the other. -/
def copyTable (s : State) (v : Nat) : State :=
  { s with regs := (s.regs.filter fun e => inTable v e.1).foldl (fun r e => Tab.set none r (otherTable v e.1) e.2) (wipeTable s (1 - v)).regs }

/-- TABLE_COPY (05 R123): the Active version into the Writable one. -/
def tableCopy (s : State) : State × Option Reply :=
  let v := b2n s.epoch.active
  if verOf s (1 - v) = .writable then answer (copyTable s v) (rep .ok) else fail s .badState

def execTableCopy (tag : Nat) (s : State) : Host.Outcome State Fault Refusal := lonusCmd tag 0x0303 [] s tableCopy

/-- TABLE_CLEAR (05 R123, R126): in Setup, clearing the selected version clears loaded. -/
def tableClear (v : Nat) (s : State) : State × Option Reply :=
  if 2 ≤ v then fail s .badParam
  else if verOf s v ≠ .writable then fail s .badState
  else
    let s := wipeTable s v
    answer (if s.mod.st = .setup ∧ b2n s.epoch.active = v then { s with epoch := { s.epoch with loaded := false } } else s) (rep .ok)

def execTableClear (tag version : Nat) (s : State) : Host.Outcome State Fault Refusal := lonusCmd tag 0x0304 [(2, version)] s (tableClear version)

/-- TABLE_STATUS (05 R122). -/
def execTableStatus (tag : Nat) (s : State) : Host.Outcome State Fault Refusal :=
  lonusCmd tag 0x0305 [] s fun s => answer s (okItems (words ((List.range 3).map (epochWord s))))

end Sys2Proof.Machine
end

