-- ==== Sys2Proof/Machine/Dispatch.lean ====
section
/-! DEFINITION. The meaning of each command: one arm per row of spec/opcode_table.json. -/

namespace Sys2Proof.Machine

-- The effect of a command on everything but the queue.
def exec (i : Instr) (s : State) : Host.Outcome State Fault Refusal :=
  match i with
  | .idRead tag => Sys2Proof.Machine.execIdRead tag s
  | .idCert tag => Sys2Proof.Machine.execIdCert tag s
  | .idQuote tag nonce => Sys2Proof.Machine.execIdQuote tag nonce s
  | .idMeasure tag => Sys2Proof.Machine.execIdMeasure tag s
  | .idOwnerSet tag record => Sys2Proof.Machine.execIdOwnerSet tag record s
  | .idOwnerClear tag => Sys2Proof.Machine.execIdOwnerClear tag s
  | .stateSet tag target => Sys2Proof.Machine.execStateSet tag target s
  | .stateGet tag => Sys2Proof.Machine.execStateGet tag s
  | .regRead tag addr count view => Sys2Proof.Machine.execRegRead tag addr count view s
  | .regWrite tag addr count words => Sys2Proof.Machine.execRegWrite tag addr count words s
  | .commit tag => Sys2Proof.Machine.execCommit tag s
  | .repairMark tag unit => Sys2Proof.Machine.execRepairMark tag unit s
  | .repairRead tag => Sys2Proof.Machine.execRepairRead tag s
  | .sessionOpen tag rxRate => Sys2Proof.Machine.execSessionOpen tag rxRate s
  | .sessionClose tag => Sys2Proof.Machine.execSessionClose tag s
  | .jobLoad tag p => Sys2Proof.Machine.execJobLoad tag p s
  | .jobActivate tag block => Sys2Proof.Machine.execJobActivate tag block s
  | .jobPause tag block => Sys2Proof.Machine.execJobPause tag block s
  | .jobResume tag block => Sys2Proof.Machine.execJobResume tag block s
  | .jobUnload tag block => Sys2Proof.Machine.execJobUnload tag block s
  | .jobStatus tag block => Sys2Proof.Machine.execJobStatus tag block s
  | .larderRead tag addr length ecc => Sys2Proof.Machine.execLarderRead tag addr length ecc s
  | .larderWrite tag addr data => Sys2Proof.Machine.execLarderWrite tag addr data s
  | .larderStatus tag => Sys2Proof.Machine.execLarderStatus tag s
  | .telemStart tag sets periodMs => Sys2Proof.Machine.execTelemStart tag sets periodMs s
  | .telemStop tag => Sys2Proof.Machine.execTelemStop tag s
  | .telemSnapshot tag sets => Sys2Proof.Machine.execTelemSnapshot tag sets s
  | .sampleStart tag port oneInN trunc => Sys2Proof.Machine.execSampleStart tag port oneInN trunc s
  | .sampleStop tag => Sys2Proof.Machine.execSampleStop tag s
  | .captureStart tag ringMib port => Sys2Proof.Machine.execCaptureStart tag ringMib port s
  | .captureStop tag ring => Sys2Proof.Machine.execCaptureStop tag ring s
  | .captureDump tag ring offset length ecc => Sys2Proof.Machine.execCaptureDump tag ring offset length ecc s
  | .capSet tag capW => Sys2Proof.Machine.execCapSet tag capW s
  | .powerStatus tag => Sys2Proof.Machine.execPowerStatus tag s
  | .shedSet tag pct => Sys2Proof.Machine.execShedSet tag pct s
  | .orphanSet tag pct => Sys2Proof.Machine.execOrphanSet tag pct s
  | .heartbeat tag sequence => Sys2Proof.Machine.execHeartbeat tag sequence s
  | .thermalStatus tag => Sys2Proof.Machine.execThermalStatus tag s
  | .coolantStatus tag => Sys2Proof.Machine.execCoolantStatus tag s
  | .fwStage tag data => Sys2Proof.Machine.execFwStage tag data s
  | .fwArm tag => Sys2Proof.Machine.execFwArm tag s
  | .fwDisarm tag => Sys2Proof.Machine.execFwDisarm tag s
  | .fwStatus tag => Sys2Proof.Machine.execFwStatus tag s
  | .presenceStatus tag => Sys2Proof.Machine.execPresenceStatus tag s
  | .sealLogRead tag => Sys2Proof.Machine.execSealLogRead tag s
  | .sealLogClear tag => Sys2Proof.Machine.execSealLogClear tag s
  | .debugUnlock tag => Sys2Proof.Machine.execDebugUnlock tag s
  | .debugLock tag => Sys2Proof.Machine.execDebugLock tag s
  | .debugAttach tag image => Sys2Proof.Machine.execDebugAttach tag image s
  | .debugDetach tag image => Sys2Proof.Machine.execDebugDetach tag image s
  | .debugThread tag image t => Sys2Proof.Machine.execDebugThread tag image t s
  | .debugResume tag image t => Sys2Proof.Machine.execDebugResume tag image t s
  | .steadySet tag value => Sys2Proof.Machine.execSteadySet tag value s
  | .tableFlip tag version copiesAgree => Sys2Proof.Machine.execTableFlip tag version copiesAgree s
  | .tableSeal tag => Sys2Proof.Machine.execTableSeal tag s
  | .tableCopy tag => Sys2Proof.Machine.execTableCopy tag s
  | .tableClear tag version => Sys2Proof.Machine.execTableClear tag version s
  | .tableStatus tag => Sys2Proof.Machine.execTableStatus tag s
  | .harnessLoad tag harness => Sys2Proof.Machine.execHarnessLoad tag harness s
  | .harnessUnload tag harness => Sys2Proof.Machine.execHarnessUnload tag harness s
  | .harnessStatus tag harness => Sys2Proof.Machine.execHarnessStatus tag harness s
  | .jobStepClose tag block v => Sys2Proof.Machine.execJobStepClose tag block v s
  | .galleyLoad tag image block source item clusters elf => Sys2Proof.Machine.execGalleyLoad tag image block source item clusters elf s
  | .galleyUnload tag image => Sys2Proof.Machine.execGalleyUnload tag image s
  | .galleyLaunch tag image entry arg0 arg1 => Sys2Proof.Machine.execGalleyLaunch tag image entry arg0 arg1 s
  | .galleyStatus tag image => Sys2Proof.Machine.execGalleyStatus tag image s
  | .linkStatus tag port => Sys2Proof.Machine.execLinkStatus tag port s
  | .linkReset tag port => Sys2Proof.Machine.execLinkReset tag port s
  | .linkDisable tag port => Sys2Proof.Machine.execLinkDisable tag port s
  | .linkEnable tag port => Sys2Proof.Machine.execLinkEnable tag port s
  | .linkIdle tag port => Sys2Proof.Machine.execLinkIdle tag port s
  | .linkWake tag port => Sys2Proof.Machine.execLinkWake tag port s
  | .lanePrbsStart tag lane pattern direction => Sys2Proof.Machine.execLanePrbsStart tag lane pattern direction s
  | .lanePrbsStop tag lane => Sys2Proof.Machine.execLanePrbsStop tag lane s
  | .lanePrbsRead tag lane => Sys2Proof.Machine.execLanePrbsRead tag lane s
  | .laneInject tag lane kind n count intervalUs => Sys2Proof.Machine.execLaneInject tag lane kind n count intervalUs s
  | .laneBitslip tag lane => Sys2Proof.Machine.execLaneBitslip tag lane s
  | .laneEyeScan tag lane eye => Sys2Proof.Machine.execLaneEyeScan tag lane eye s
  | .eyeScanDone chiplet counts => Sys2Proof.Machine.execEyeScanDone chiplet counts s
  | .planInstall tag plan => Sys2Proof.Machine.execPlanInstall tag plan s
  | .planEdit tag port state => Sys2Proof.Machine.execPlanEdit tag port state s
  | .planRead tag => Sys2Proof.Machine.execPlanRead tag s
  | .certRun tag port mode dwellS => Sys2Proof.Machine.execCertRun tag port mode dwellS s
  | .recordStart tag p => Sys2Proof.Machine.execRecordStart tag p s
  | .recordStop tag ring => Sys2Proof.Machine.execRecordStop tag ring s
  | .recordStatus tag ring => Sys2Proof.Machine.execRecordStatus tag ring s
  | .recordDump tag ring offset length ecc => Sys2Proof.Machine.execRecordDump tag ring offset length ecc s
  | .ringFree tag ring => Sys2Proof.Machine.execRingFree tag ring s
  | .replayLoad tag ringMib data => Sys2Proof.Machine.execReplayLoad tag ringMib data s
  | .replayStart tag ring outMib startAxle => Sys2Proof.Machine.execReplayStart tag ring outMib startAxle s
  | .replayStop tag => Sys2Proof.Machine.execReplayStop tag s
  | .replayStatus tag => Sys2Proof.Machine.execReplayStatus tag s
  | .entdaa addr => Sys2Proof.Machine.execEntdaa addr s
  | .setdasa staticAddr addr => Sys2Proof.Machine.execSetdasa staticAddr addr s
  | .setnewda addr => Sys2Proof.Machine.execSetnewda addr s
  | .rstdaa => Sys2Proof.Machine.execRstdaa s
  | .enec events => Sys2Proof.Machine.execEnec events s
  | .disec events => Sys2Proof.Machine.execDisec events s
  | .getpid => Sys2Proof.Machine.execGetpid s
  | .getbcr => Sys2Proof.Machine.execGetbcr s
  | .getdcr => Sys2Proof.Machine.execGetdcr s
  | .getstatus => Sys2Proof.Machine.execGetstatus s
  | .getmwl => Sys2Proof.Machine.execGetmwl s
  | .getmrl => Sys2Proof.Machine.execGetmrl s
  | .rstact action => Sys2Proof.Machine.execRstact action s
  | .i3cPrivateWrite bytes reads => Sys2Proof.Machine.execI3cPrivateWrite bytes s reads
  | .commandFrame f words start => Sys2Proof.Machine.execCommandFrame f s words start
  | .bulkFrame f words start => Sys2Proof.Machine.execBulkFrame f s words start
  | .bulkTimeout tag => Sys2Proof.Machine.execBulkTimeout tag s
  | .outputFrameSend => Sys2Proof.Machine.execOutputFrameSend s
  | .lonusLineUp => Sys2Proof.Machine.execLonusLineUp s
  | .lonusLineDown => Sys2Proof.Machine.execLonusLineDown s
  | .tableEntryWrite tag addr word => Sys2Proof.Machine.execTableEntryWrite tag addr word s
  | .stgE2eCtlWrite tag word => Sys2Proof.Machine.execStgE2eCtlWrite tag word s
  | .stgGalBindWrite tag harness word => Sys2Proof.Machine.execStgGalBindWrite tag harness word s
  | .stgJblkStepsrcWrite tag block word => Sys2Proof.Machine.execStgJblkStepsrcWrite tag block word s
  | .hubPortWidthWrite tag die word => Sys2Proof.Machine.execHubPortWidthWrite tag die word s
  | .modDrainCtlWrite tag word => Sys2Proof.Machine.execModDrainCtlWrite tag word s
  | .modLardLayoutWrite tag second word => Sys2Proof.Machine.execModLardLayoutWrite tag second word s
  | .write port p => Sys2Proof.Machine.execWrite port p s
  | .readReq port p => Sys2Proof.Machine.execReadReq port p s
  | .readRsp port p => Sys2Proof.Machine.execReadRsp port p s
  | .atomic port p => Sys2Proof.Machine.execAtomic port p s
  | .atomicRsp port p => Sys2Proof.Machine.execAtomicRsp port p s
  | .collContrib port p checks => Sys2Proof.Machine.execCollContrib port p checks s
  | .galleyCall port p => Sys2Proof.Machine.execGalleyCall port p s
  | .ack port p => Sys2Proof.Machine.execAck port p s
  | .nack port p => Sys2Proof.Machine.execNack port p s
  | .sync port p rxAxle => Sys2Proof.Machine.execSync port p rxAxle s
  | .crossbarCellTime die => Sys2Proof.Machine.execCrossbarCellTime die s
  | .packetTransmit port => Sys2Proof.Machine.execPacketTransmit port s
  | .brakeRelease die ecc => Sys2Proof.Machine.execBrakeRelease die s ecc
  | .queueStateExchange => Sys2Proof.Machine.execQueueStateExchange s
  | .tableDrainSlow => Sys2Proof.Machine.execTableDrainSlow s
  | .overflowDrain port eccs => Sys2Proof.Machine.execOverflowDrain port s eccs
  | .ovfExhausted => Sys2Proof.Machine.execOvfExhausted s
  | .markDepthWindow => Sys2Proof.Machine.execMarkDepthWindow s
  | .brakeIncrease die epa => Sys2Proof.Machine.execBrakeIncrease die epa s
  | .queueHistogramSample => Sys2Proof.Machine.execQueueHistogramSample s
  | .ackDelayExpiry src => Sys2Proof.Machine.execAckDelayExpiry src s
  | .resendTimeout dst group seq => Sys2Proof.Machine.execResendTimeout dst group seq s
  | .portFlushed port => Sys2Proof.Machine.execPortFlushed port s
  | .leafStateSend die harness step chunk ecc checks => Sys2Proof.Machine.execLeafStateSend die harness step chunk s ecc checks
  | .leafStateArrival die harness step chunk checks => Sys2Proof.Machine.execLeafStateArrival die harness step chunk checks s
  | .collTimeout die harness step chunk => Sys2Proof.Machine.execCollTimeout die harness step chunk s
  | .spillExhausted port => Sys2Proof.Machine.execSpillExhausted port s
  | .larderRequestPart ld ecc check => Sys2Proof.Machine.execLarderRequestPart ld ecc s check
  | .refreshSlot stack pc waiting scrubAddr ecc => Sys2Proof.Machine.execRefreshSlot stack pc waiting scrubAddr ecc s
  | .tzSubmit t rs1 rs2 => Sys2Proof.Machine.execTzSubmit t rs1 rs2 s
  | .descriptorAccept die engine ecc => Sys2Proof.Machine.execDescriptorAccept die engine s ecc
  | .tzSend t rs1 rs2 ecc => Sys2Proof.Machine.execTzSend t rs1 rs2 s ecc
  | .tzWait t rd rs1 rs2 => Sys2Proof.Machine.execTzWait t rd rs1 rs2 s
  | .tzWaitWake t => Sys2Proof.Machine.execTzWaitWake t s
  | .waitLimit t => Sys2Proof.Machine.execWaitLimit t s
  | .tzTake t rd rs1 rs2 ecc => Sys2Proof.Machine.execTzTake t rd rs1 rs2 s ecc
  | .tzTakeWake t ecc => Sys2Proof.Machine.execTzTakeWake t s ecc
  | .tzBrake t rs1 => Sys2Proof.Machine.execTzBrake t rs1 s
  | .tzAxle t rd => Sys2Proof.Machine.execTzAxle t rd s
  | .tzStep t rd => Sys2Proof.Machine.execTzStep t rd s
  | .tzYield t => Sys2Proof.Machine.execTzYield t s
  | .galleyAccess t addr size ecc => Sys2Proof.Machine.execGalleyAccess t addr size ecc s
  | .fence t predW => Sys2Proof.Machine.execFence t predW s
  | .exit t => Sys2Proof.Machine.execExit t s
  | .log t ecc => Sys2Proof.Machine.execLog t s ecc
  | .ebreak t => Sys2Proof.Machine.execEbreak t s
  | .launchGroupStart image ecc => Sys2Proof.Machine.execLaunchGroupStart image s ecc
  | .descriptorWaitRelease die => Sys2Proof.Machine.execDescriptorWaitRelease die s
  | .engineWaitLimit die => Sys2Proof.Machine.execEngineWaitLimit die s
  | .descriptorComplete die engine cycles => Sys2Proof.Machine.execDescriptorComplete die engine cycles s
  | .contrib die ecc checks => Sys2Proof.Machine.execContrib die ecc checks s
  | .accInit die check => Sys2Proof.Machine.execAccInit die check s
  | .accAdd die ecc check => Sys2Proof.Machine.execAccAdd die ecc check s
  | .accRound die ecc => Sys2Proof.Machine.execAccRound die ecc s
  | .topk die ecc => Sys2Proof.Machine.execTopk die ecc s
  | .sort die ecc => Sys2Proof.Machine.execSort die ecc s
  | .thresh die ecc => Sys2Proof.Machine.execThresh die ecc s
  | .selectRank die ecc => Sys2Proof.Machine.execSelectRank die ecc s
  | .gather die ecc => Sys2Proof.Machine.execGather die ecc s
  | .scatter die ecc => Sys2Proof.Machine.execScatter die ecc s
  | .pageGather die ecc => Sys2Proof.Machine.execPageGather die ecc s
  | .pageScatter die ecc => Sys2Proof.Machine.execPageScatter die ecc s
  | .convert die ecc => Sys2Proof.Machine.execConvert die ecc s
  | .crc64 die ecc => Sys2Proof.Machine.execCrc64 die ecc s
  | .shake256 die ecc => Sys2Proof.Machine.execShake256 die ecc s
  | .sumcheck die ecc => Sys2Proof.Machine.execSumcheck die ecc s
  | .put die ecc => Sys2Proof.Machine.execPut die ecc s
  | .trainingFrame port lane bits inverted errorsLow => Sys2Proof.Machine.execTrainingFrame port lane bits inverted errorsLow s
  | .hitchStageTimeout port swingLost => Sys2Proof.Machine.execHitchStageTimeout port swingLost s
  | .backOffEnd port => Sys2Proof.Machine.execBackOffEnd port s
  | .listenBeacon port => Sys2Proof.Machine.execListenBeacon port s
  | .listenSwingSeen port => Sys2Proof.Machine.execListenSwingSeen port s
  | .bitSlipSearch lane found => Sys2Proof.Machine.execBitSlipSearch lane found s
  | .identityMessage port msg => Sys2Proof.Machine.execIdentityMessage port msg s
  | .timingMessage port msg rxAxle => Sys2Proof.Machine.execTimingMessage port msg rxAxle s
  | .portMisplaced port => Sys2Proof.Machine.execPortMisplaced port s
  | .verifyEnd port uncorrectable corrected received => Sys2Proof.Machine.execVerifyEnd port uncorrectable corrected received s
  | .uncorrectableRound port words headers => Sys2Proof.Machine.execUncorrectableRound port words headers s
  | .linkDown port cause => Sys2Proof.Machine.execLinkDown port cause s
  | .enterIdle port => Sys2Proof.Machine.execEnterIdle port s
  | .idleExitBurst port => Sys2Proof.Machine.execIdleExitBurst port s
  | .idleExit port => Sys2Proof.Machine.execIdleExit port s
  | .syncSend => Sys2Proof.Machine.execSyncSend s
  | .axleServo => Sys2Proof.Machine.execAxleServo s
  | .masterSelfLock => Sys2Proof.Machine.execMasterSelfLock s
  | .certDone mode results => Sys2Proof.Machine.execCertDone mode results s
  | .certSchedule => Sys2Proof.Machine.execCertSchedule s
  | .telemetryBoundary => Sys2Proof.Machine.execTelemetryBoundary s
  | .replayInject checks => Sys2Proof.Machine.execReplayInject s checks
  | .controlCycle sensed copied => Sys2Proof.Machine.execControlCycle sensed s copied
  | .thermalHold position => Sys2Proof.Machine.execThermalHold position s
  | .thermalTrip position sensor reading => Sys2Proof.Machine.execThermalTrip position sensor reading s
  | .ehrokTakeover cause => Sys2Proof.Machine.execEhrokTakeover cause s
  | .coreRestart coreB imageOk => Sys2Proof.Machine.execCoreRestart coreB imageOk s
  | .ehrokTakeback => Sys2Proof.Machine.execEhrokTakeback s
  | .hardwareWatchdog => Sys2Proof.Machine.execHardwareWatchdog s
  | .powerUp input => Sys2Proof.Machine.execPowerUp input s
  | .setupEntry imagesOk => Sys2Proof.Machine.execSetupEntry imagesOk s
  | .selfTestComplete r => Sys2Proof.Machine.execSelfTestComplete r s
  | .restEntry => Sys2Proof.Machine.execRestEntry s
  | .holdEnter cause unit => Sys2Proof.Machine.execHoldEnter cause unit s
  | .drainLimit => Sys2Proof.Machine.execDrainLimit s
  | .orphanEnter => Sys2Proof.Machine.execOrphanEnter s
  | .presenceOpen jumper => Sys2Proof.Machine.execPresenceOpen jumper s
  | .presenceClose => Sys2Proof.Machine.execPresenceClose s
  | .sealOpen loopB => Sys2Proof.Machine.execSealOpen loopB s
  | .sealClose loopB => Sys2Proof.Machine.execSealClose loopB s
  | .pinReset => Sys2Proof.Machine.execPinReset s
  | .resetNRelease inputInRange input => Sys2Proof.Machine.execResetNRelease inputInRange input s
  | .shedNAssert => Sys2Proof.Machine.execShedNAssert s
  | .shedNRelease => Sys2Proof.Machine.execShedNRelease s
  | .capOverrun draw => Sys2Proof.Machine.execCapOverrun s draw
  | .inputRange volts => Sys2Proof.Machine.execInputRange volts s
  | .undervoltageShed volts => Sys2Proof.Machine.execUndervoltageShed volts s
  | .inputUndervolt volts => Sys2Proof.Machine.execInputUndervolt volts s
  | .protectiveStop overvoltage => Sys2Proof.Machine.execProtectiveStop overvoltage s
  | .lossOfInput => Sys2Proof.Machine.execLossOfInput s
  | .droopStretch die => Sys2Proof.Machine.execDroopStretch die s
  | .droopRelease die => Sys2Proof.Machine.execDroopRelease die s
  | .marginLow position atLimit => Sys2Proof.Machine.execMarginLow position atLimit s
  | .coolLowFlow flow sensorFault => Sys2Proof.Machine.execCoolLowFlow flow sensorFault s
  | .flowRecovered flow => Sys2Proof.Machine.execFlowRecovered flow s
  | .coolInletHigh inlet outlet => Sys2Proof.Machine.execCoolInletHigh inlet outlet s
  | .coolInletLow inlet => Sys2Proof.Machine.execCoolInletLow inlet s
  | .leak loop => Sys2Proof.Machine.execLeak loop s
  | .leakLoopFault loop resistance => Sys2Proof.Machine.execLeakLoopFault loop resistance s
  | .refclkAbsent => Sys2Proof.Machine.execRefclkAbsent s
  | .inputRecovered volts => Sys2Proof.Machine.execInputRecovered volts s
  | .refclkRestored => Sys2Proof.Machine.execRefclkRestored s
  | .alignExit port => Sys2Proof.Machine.execAlignExit port s
  | .streamResume port => Sys2Proof.Machine.execStreamResume port s
  | .prbsLock lane => Sys2Proof.Machine.execPrbsLock lane s
  | .prbsLockLost lane bits bitErrors symbolErrors => Sys2Proof.Machine.execPrbsLockLost lane bits bitErrors symbolErrors s
  | .invalidTypePacket port p => Sys2Proof.Machine.execInvalidTypePacket port p s
  | .illegalInstruction t word ecc => Sys2Proof.Machine.execIllegalInstruction t word ecc s

end Sys2Proof.Machine
end

