-- ==== Sys2Proof/Machine/GalleyCore.lean ====
section
/-! DEFINITION. The galley's cores between the commands (08 R185, R200): an instruction that has no row runs on an empty queue (log 18). -/

namespace Sys2Proof.Machine

/-- The cores that hold a live thread, as die, cluster and core of thread 0. -/
def liveCores (s : State) : List ThreadRef :=
  ((s.thr.filter fun e => e.2.live).map fun e => { thrRef e.1 with thread := 0 }).foldl (fun l c => if c ∈ l then l else l ++ [c]) []

/-- The instruction that a core issues next, where it has no row: the issuing thread and what the instruction does. -/
def coreIssue (s : State) (c : ThreadRef) : Option (State → State) :=
  (firstFrom 4 (Tab.get 0 s.issue (coreKey c)) fun k => ready s { c with thread := k }).bind fun k =>
    let t := { c with thread := k }
    match standing s t with
    | .base run => some fun s => run (issued s t)
    | _ => none

/-- One core, a free choice among those that can, issues one instruction (log 18). -/
def galleyCycle (s : State) : State :=
  match (liveCores s).filterMap (coreIssue s) with
  | [] => s
  | [run] => run s
  | runs => let (k, s) := draw s; ((runs[Config.freeWord k % runs.length]?).map fun run => run s).getD s

/-- What happens on an empty queue: a nanosecond passes, and a core issues. -/
def idleTick (s : State) : State := galleyCycle (timeTick s)

end Sys2Proof.Machine
end

