-- ==== Sys2Proof/Safety.lean ====
section
/-! DEFINITION. The terms in which the statements speak of a run: what a command leaves around its effect, when a Lonus command is
executed, what it answers, and the invariants that every step keeps. -/

namespace Sys2Proof.Machine

/-- The state after a command whose effect on everything but the queue is `t`: Run ends where no block is Active (01 R17), the alert byte is noted, with
its IBI where it changed (14 R371); the queue's rest and what the factory fixed stay. -/
def after (s t : State) : State := { ibiNote (endRun t) with pending := s.pending, fixed := s.fixed }

/-- A Lonus command is executed: the module is not Off, its tag is first in its class with its bulk complete (14 R354, R359), the checks that
14 R358 makes before any command's own all pass, and the row's operands are the parameters that its frame carries (14 R356). -/
abbrev Runs (s : State) (tag op : Nat) (args : List Item := []) : Prop :=
  s.mod.st ≠ .off ∧ mayStart s tag op = true ∧ precheck s op = none ∧ sized s tag op args = true ∧ asked s tag args = true

/-- The state after an executed Lonus command whose body left `t` and answered `r`. -/
def answered (s t : State) (tag op : Nat) (r : Reply) : State := after s (complete t tag op r)

/-- How an executed Lonus command ends, by what its body left and answered: completed, or outstanding where a later row completes it (14 R360). -/
def ends (s : State) (tag op : Nat) (x : State × Option Reply) : State :=
  match x with
  | (t, some r) => answered s t tag op r
  | (t, none) => after s (keepOutstanding t tag op)

/-- The module has noted its alert byte: no IBI is due (14 R371, R372). -/
abbrev AlertNoted (s : State) : Prop := s.i3c.lastAlert = alertByte s

/-- The module is in Run only while a block is Active (01 R17). -/
abbrev RunHasActive (s : State) : Prop := s.mod.st = .run → anyActive s = true

/-- The byte memories are in their canonical form: addresses rising, no entry equal to what an unlisted address reads as. -/
abbrev MemoryCanonical (s : State) : Prop := Mem.wf s.lard.mem = true ∧ Mem.wf s.scratch = true ∧ Mem.wf s.cmem = true

/-- No accelerator is a member of two loaded blocks, and no count slot stands in two loaded blocks' ranges (02 R42, 03 R67). -/
abbrev BlocksApart (s : State) : Prop := ∀ a b, a < 128 → b < 128 → a ≠ b → (blockOf s a).st ≠ .unloaded → (blockOf s b).st ≠ .unloaded →
  (∀ e, e < 128 → ¬ (inBox (blockOf s a) e = true ∧ inBox (blockOf s b) e = true)) ∧
  ∀ k, ¬ (slotInBlock s a k = true ∧ slotInBlock s b k = true)

/-- Tag and opcode of a command that the host sends over the Lonus port (14, "Commands of this chapter"); a register-write row is a
REG_WRITE. -/
def lonusOf : Instr → Option (Nat × Nat)
  | .idRead t => some (t, 0x0101) | .idCert t => some (t, 0x0102) | .idQuote t _ => some (t, 0x0103) | .idMeasure t => some (t, 0x0104)
  | .idOwnerSet t _ => some (t, 0x0110) | .idOwnerClear t => some (t, 0x0111)
  | .stateSet t _ => some (t, 0x0201) | .stateGet t => some (t, 0x0202) | .steadySet t _ => some (t, 0x0210)
  | .regRead t _ _ _ => some (t, 0x0220) | .regWrite t _ _ _ => some (t, 0x0221) | .commit t => some (t, 0x0222)
  | .repairMark t _ => some (t, 0x0230) | .repairRead t => some (t, 0x0231)
  | .sessionOpen t _ => some (t, 0x0240) | .sessionClose t => some (t, 0x0241)
  | .tableFlip t _ _ => some (t, 0x0301) | .tableSeal t => some (t, 0x0302) | .tableCopy t => some (t, 0x0303)
  | .tableClear t _ => some (t, 0x0304) | .tableStatus t => some (t, 0x0305)
  | .jobLoad t _ => some (t, 0x0401) | .jobActivate t _ => some (t, 0x0402) | .jobPause t _ => some (t, 0x0403)
  | .jobResume t _ => some (t, 0x0404) | .jobUnload t _ => some (t, 0x0405) | .jobStatus t _ => some (t, 0x0406)
  | .harnessLoad t _ => some (t, 0x0410) | .harnessUnload t _ => some (t, 0x0411) | .harnessStatus t _ => some (t, 0x0412)
  | .jobStepClose t _ _ => some (t, 0x0420)
  | .larderRead t _ _ _ => some (t, 0x0501) | .larderWrite t _ _ => some (t, 0x0502) | .larderStatus t => some (t, 0x0503)
  | .galleyLoad t _ _ _ _ _ _ => some (t, 0x0601) | .galleyUnload t _ => some (t, 0x0602) | .galleyLaunch t _ _ _ _ => some (t, 0x0603)
  | .galleyStatus t _ => some (t, 0x0604)
  | .linkStatus t _ => some (t, 0x0701) | .linkReset t _ => some (t, 0x0702) | .linkDisable t _ => some (t, 0x0703)
  | .linkEnable t _ => some (t, 0x0704) | .linkIdle t _ => some (t, 0x0705) | .linkWake t _ => some (t, 0x0706)
  | .lanePrbsStart t _ _ _ => some (t, 0x0710) | .lanePrbsStop t _ => some (t, 0x0711) | .lanePrbsRead t _ => some (t, 0x0712)
  | .laneInject t _ _ _ _ _ => some (t, 0x0713) | .laneBitslip t _ => some (t, 0x0714) | .laneEyeScan t _ _ => some (t, 0x0720)
  | .planInstall t _ => some (t, 0x0730) | .planEdit t _ _ => some (t, 0x0731) | .planRead t => some (t, 0x0732)
  | .certRun t _ _ _ => some (t, 0x0740)
  | .telemStart t _ _ => some (t, 0x0801) | .telemStop t => some (t, 0x0802) | .telemSnapshot t _ => some (t, 0x0803)
  | .sampleStart t _ _ _ => some (t, 0x0810) | .sampleStop t => some (t, 0x0811)
  | .captureStart t _ _ => some (t, 0x0820) | .captureStop t _ => some (t, 0x0821) | .captureDump t _ _ _ _ => some (t, 0x0822)
  | .capSet t _ => some (t, 0x0901) | .powerStatus t => some (t, 0x0902) | .shedSet t _ => some (t, 0x0903)
  | .orphanSet t _ => some (t, 0x0904) | .heartbeat t _ => some (t, 0x0905) | .thermalStatus t => some (t, 0x0906)
  | .coolantStatus t => some (t, 0x0907)
  | .fwStage t _ => some (t, 0x0A01) | .fwArm t => some (t, 0x0A02) | .fwDisarm t => some (t, 0x0A03) | .fwStatus t => some (t, 0x0A04)
  | .presenceStatus t => some (t, 0x0A10) | .sealLogRead t => some (t, 0x0A11) | .sealLogClear t => some (t, 0x0A12)
  | .recordStart t _ => some (t, 0x0B01) | .recordStop t _ => some (t, 0x0B02) | .recordStatus t _ => some (t, 0x0B03)
  | .recordDump t _ _ _ _ => some (t, 0x0B04) | .ringFree t _ => some (t, 0x0B05)
  | .replayLoad t _ _ => some (t, 0x0B10) | .replayStart t _ _ _ => some (t, 0x0B11) | .replayStop t => some (t, 0x0B12)
  | .replayStatus t => some (t, 0x0B13)
  | .debugUnlock t => some (t, 0x0C01) | .debugLock t => some (t, 0x0C02) | .debugAttach t _ => some (t, 0x0C10)
  | .debugDetach t _ => some (t, 0x0C11) | .debugThread t _ _ => some (t, 0x0C12) | .debugResume t _ _ => some (t, 0x0C13)
  | .tableEntryWrite t _ _ => some (t, 0x0221) | .stgE2eCtlWrite t _ => some (t, 0x0221) | .stgGalBindWrite t _ _ => some (t, 0x0221)
  | .stgJblkStepsrcWrite t _ _ => some (t, 0x0221) | .hubPortWidthWrite t _ _ => some (t, 0x0221)
  | .modDrainCtlWrite t _ => some (t, 0x0221) | .modLardLayoutWrite t _ _ => some (t, 0x0221)
  | _ => none

end Sys2Proof.Machine
end

