-- ==== Sys2Proof/WellFormed.lean ====
section
/-! DEFINITION. Well-formed commands: every operand fits the field that carries it (14 R356, 03 R54) or names a unit of the largest
configuration. A well-formed command may still be answered with an error status. -/

namespace Sys2Proof

/-- A number below a bound. -/
def fits (bound v : Nat) : Bool := decide (v < bound)

/-- A number that `n` bits hold. -/
def fitsBits (n v : Nat) : Bool := decide (v < 2 ^ n)

/-- A packet's payload has the length that its header says (03 R54). -/
def packetFits (p : Packet) : Bool := decide (p.payload.length = 32 * p.hdr.len.toNat)

/-- A thread context: 4 dies, 98 clusters, 64 cores, 4 threads (08 R190). -/
def threadFits (t : ThreadRef) : Bool := fits 4 t.die && fits 98 t.cluster && fits 64 t.core && fits 4 t.thread

/-- A frame's payload has the length that its header says (14 R348). -/
def frameFits (f : Frame) : Bool := decide (f.payload.length = f.length.toNat)

/-- JOB_LOAD's parameters fit their fields. -/
def jobFits (p : JobParams) : Bool :=
  fitsBits 16 p.block && fitsBits 16 p.x0 && fitsBits 16 p.y0 && fitsBits 16 p.z0 && fitsBits 16 p.dx && fitsBits 16 p.dy && fitsBits 16 p.dz &&
    fitsBits 64 p.firstStep && fitsBits 16 p.cslotBase && fitsBits 16 p.cslotCount

/-- RECORD_START's parameters fit their fields. -/
def recordFits (p : RecordParams) : Bool :=
  fitsBits 16 p.block && fitsBits 16 p.ringMib && fitsBits 16 p.wrap && fitsBits 16 p.digest && fitsBits 16 p.egress &&
    (match p.startStep with | some v => fitsBits 48 v | none => true)

/-- Codewords have symbols of 10 bits (12 R298). -/
def wordsFit (ws : List (List Nat)) : Bool := ws.all fun w => w.all (fits 1024)

/-- A repair entry's kind and unit fit their fields (18 R442). -/
def unitFits (u : RepairUnit) : Bool := fitsBits 16 u.kind && fitsBits 32 u.unit

/-- Whether a command is well formed. -/
def Instr.wellFormed : Instr → Bool
  | .idRead tag => fitsBits 16 tag
  | .idCert tag => fitsBits 16 tag
  | .idQuote tag nonce => fitsBits 16 tag && decide (nonce.length = 32)
  | .idMeasure tag => fitsBits 16 tag
  | .idOwnerSet tag _ => fitsBits 16 tag
  | .idOwnerClear tag => fitsBits 16 tag
  | .stateSet tag target => fitsBits 16 tag && fitsBits 16 target
  | .stateGet tag => fitsBits 16 tag
  | .regRead tag addr count view => fitsBits 16 tag && fitsBits 32 addr && fitsBits 16 count && fitsBits 16 view
  | .regWrite tag addr count words => fitsBits 16 tag && fitsBits 32 addr && fitsBits 16 count && decide (words.length = count)
  | .commit tag => fitsBits 16 tag
  | .repairMark tag unit => fitsBits 16 tag && unitFits unit
  | .repairRead tag => fitsBits 16 tag
  | .sessionOpen tag rxRate => fitsBits 16 tag && fitsBits 16 rxRate
  | .sessionClose tag => fitsBits 16 tag
  | .jobLoad tag p => fitsBits 16 tag && jobFits p
  | .jobActivate tag block => fitsBits 16 tag && fitsBits 16 block
  | .jobPause tag block => fitsBits 16 tag && fitsBits 16 block
  | .jobResume tag block => fitsBits 16 tag && fitsBits 16 block
  | .jobUnload tag block => fitsBits 16 tag && fitsBits 16 block
  | .jobStatus tag block => fitsBits 16 tag && fitsBits 16 block
  | .larderRead tag addr length _ => fitsBits 16 tag && fitsBits 64 addr && fitsBits 32 length
  | .larderWrite tag addr _ => fitsBits 16 tag && fitsBits 64 addr
  | .larderStatus tag => fitsBits 16 tag
  | .telemStart tag sets periodMs => fitsBits 16 tag && fitsBits 16 sets && fitsBits 16 periodMs
  | .telemStop tag => fitsBits 16 tag
  | .telemSnapshot tag sets => fitsBits 16 tag && fitsBits 16 sets
  | .sampleStart tag port oneInN trunc => fitsBits 16 tag && fitsBits 16 port && fitsBits 16 oneInN && fitsBits 16 trunc
  | .sampleStop tag => fitsBits 16 tag
  | .captureStart tag ringMib port => fitsBits 16 tag && fitsBits 16 ringMib && fitsBits 16 port
  | .captureStop tag ring => fitsBits 16 tag && fitsBits 16 ring
  | .captureDump tag ring offset length _ => fitsBits 16 tag && fitsBits 16 ring && fitsBits 64 offset && fitsBits 32 length
  | .capSet tag capW => fitsBits 16 tag && fitsBits 16 capW
  | .powerStatus tag => fitsBits 16 tag
  | .shedSet tag pct => fitsBits 16 tag && fitsBits 16 pct
  | .orphanSet tag pct => fitsBits 16 tag && fitsBits 16 pct
  | .heartbeat tag sequence => fitsBits 16 tag && fitsBits 32 sequence
  | .thermalStatus tag => fitsBits 16 tag
  | .coolantStatus tag => fitsBits 16 tag
  | .fwStage tag _ => fitsBits 16 tag
  | .fwArm tag => fitsBits 16 tag
  | .fwDisarm tag => fitsBits 16 tag
  | .fwStatus tag => fitsBits 16 tag
  | .presenceStatus tag => fitsBits 16 tag
  | .sealLogRead tag => fitsBits 16 tag
  | .sealLogClear tag => fitsBits 16 tag
  | .debugUnlock tag => fitsBits 16 tag
  | .debugLock tag => fitsBits 16 tag
  | .debugAttach tag image => fitsBits 16 tag && fitsBits 16 image
  | .debugDetach tag image => fitsBits 16 tag && fitsBits 16 image
  | .debugThread tag image t => fitsBits 16 tag && fitsBits 16 image && threadFits t
  | .debugResume tag image t => fitsBits 16 tag && fitsBits 16 image && threadFits t
  | .steadySet tag value => fitsBits 16 tag && fitsBits 16 value
  | .tableFlip tag version _ => fitsBits 16 tag && fitsBits 16 version
  | .tableSeal tag => fitsBits 16 tag
  | .tableCopy tag => fitsBits 16 tag
  | .tableClear tag version => fitsBits 16 tag && fitsBits 16 version
  | .tableStatus tag => fitsBits 16 tag
  | .harnessLoad tag harness => fitsBits 16 tag && fitsBits 16 harness
  | .harnessUnload tag harness => fitsBits 16 tag && fitsBits 16 harness
  | .harnessStatus tag harness => fitsBits 16 tag && fitsBits 16 harness
  | .jobStepClose tag block v => fitsBits 16 tag && fitsBits 16 block && fitsBits 64 v
  | .galleyLoad tag image block source item clusters _ => fitsBits 16 tag && fitsBits 16 image && fitsBits 16 block && fitsBits 16 source && fitsBits 16 item && fitsBits 16 clusters
  | .galleyUnload tag image => fitsBits 16 tag && fitsBits 16 image
  | .galleyLaunch tag image entry arg0 arg1 => fitsBits 16 tag && fitsBits 16 image && fitsBits 16 entry && fitsBits 64 arg0 && fitsBits 32 arg1
  | .galleyStatus tag image => fitsBits 16 tag && fitsBits 16 image
  | .linkStatus tag port => fitsBits 16 tag && fitsBits 16 port
  | .linkReset tag port => fitsBits 16 tag && fitsBits 16 port
  | .linkDisable tag port => fitsBits 16 tag && fitsBits 16 port
  | .linkEnable tag port => fitsBits 16 tag && fitsBits 16 port
  | .linkIdle tag port => fitsBits 16 tag && fitsBits 16 port
  | .linkWake tag port => fitsBits 16 tag && fitsBits 16 port
  | .lanePrbsStart tag lane pattern direction => fitsBits 16 tag && fitsBits 16 lane && fitsBits 16 pattern && fitsBits 16 direction
  | .lanePrbsStop tag lane => fitsBits 16 tag && fitsBits 16 lane
  | .lanePrbsRead tag lane => fitsBits 16 tag && fitsBits 16 lane
  | .laneInject tag lane kind n count intervalUs => fitsBits 16 tag && fitsBits 16 lane && fitsBits 16 kind && fitsBits 32 n && fitsBits 32 count && fitsBits 32 intervalUs
  | .laneBitslip tag lane => fitsBits 16 tag && fitsBits 16 lane
  | .laneEyeScan tag lane eye => fitsBits 16 tag && fitsBits 16 lane && fitsBits 16 eye
  | .eyeScanDone chiplet _ => fits 16 chiplet
  | .planInstall tag _ => fitsBits 16 tag
  | .planEdit tag port state => fitsBits 16 tag && fitsBits 16 port && fitsBits 16 state
  | .planRead tag => fitsBits 16 tag
  | .certRun tag port mode dwellS => fitsBits 16 tag && fitsBits 16 port && fitsBits 16 mode && fitsBits 16 dwellS
  | .recordStart tag p => fitsBits 16 tag && recordFits p
  | .recordStop tag ring => fitsBits 16 tag && fitsBits 16 ring
  | .recordStatus tag ring => fitsBits 16 tag && fitsBits 16 ring
  | .recordDump tag ring offset length _ => fitsBits 16 tag && fitsBits 16 ring && fitsBits 64 offset && fitsBits 32 length
  | .ringFree tag ring => fitsBits 16 tag && fitsBits 16 ring
  | .replayLoad tag ringMib _ => fitsBits 16 tag && fitsBits 16 ringMib
  | .replayStart tag ring outMib startAxle => fitsBits 16 tag && fitsBits 16 ring && fitsBits 16 outMib && fitsBits 64 startAxle
  | .replayStop tag => fitsBits 16 tag
  | .replayStatus tag => fitsBits 16 tag
  | .entdaa addr => fits 128 addr
  | .setdasa staticAddr addr => fits 128 staticAddr && fits 128 addr
  | .setnewda addr => fits 128 addr
  | .rstdaa => true
  | .enec _ => true
  | .disec _ => true
  | .getpid => true
  | .getbcr => true
  | .getdcr => true
  | .getstatus => true
  | .getmwl => true
  | .getmrl => true
  | .rstact _ => true
  | .i3cPrivateWrite _ _ => true
  | .commandFrame f words start => frameFits f && wordsFit words && fits 640 start
  | .bulkFrame f words start => frameFits f && wordsFit words && fits 640 start
  | .bulkTimeout tag => fitsBits 16 tag
  | .outputFrameSend => true
  | .lonusLineUp => true
  | .lonusLineDown => true
  | .tableEntryWrite tag addr _ => fitsBits 16 tag && fitsBits 32 addr
  | .stgE2eCtlWrite tag _ => fitsBits 16 tag
  | .stgGalBindWrite tag harness _ => fitsBits 16 tag && fitsBits 16 harness
  | .stgJblkStepsrcWrite tag block _ => fitsBits 16 tag && fitsBits 16 block
  | .hubPortWidthWrite tag die _ => fitsBits 16 tag && fitsBits 16 die
  | .modDrainCtlWrite tag _ => fitsBits 16 tag
  | .modLardLayoutWrite tag _ _ => fitsBits 16 tag
  | .write port p => fits 256 port && packetFits p
  | .readReq port p => fits 256 port && packetFits p
  | .readRsp port p => fits 256 port && packetFits p
  | .atomic port p => fits 256 port && packetFits p
  | .atomicRsp port p => fits 256 port && packetFits p
  | .collContrib port p _ => fits 256 port && packetFits p
  | .galleyCall port p => fits 256 port && packetFits p
  | .ack port p => fits 256 port && packetFits p
  | .nack port p => fits 256 port && packetFits p
  | .sync port p _ => fits 256 port && packetFits p
  | .crossbarCellTime die => fits 4 die
  | .packetTransmit port => fits 256 port
  | .brakeRelease die _ => fits 4 die
  | .queueStateExchange => true
  | .tableDrainSlow => true
  | .overflowDrain port _ => fits 256 port
  | .ovfExhausted => true
  | .markDepthWindow => true
  | .brakeIncrease die epa => fits 4 die && fits 128 epa
  | .queueHistogramSample => true
  | .ackDelayExpiry src => fitsBits 16 src
  | .resendTimeout dst _ seq => fitsBits 16 dst && fitsBits 32 seq
  | .portFlushed port => fits 256 port
  | .leafStateSend die harness step chunk _ _ => fits 4 die && fits 1024 harness && fitsBits 48 step && fitsBits 32 chunk
  | .leafStateArrival die harness step chunk _ => fits 4 die && fits 1024 harness && fitsBits 48 step && fitsBits 32 chunk
  | .collTimeout die harness step chunk => fits 4 die && fits 1024 harness && fitsBits 48 step && fitsBits 32 chunk
  | .spillExhausted port => fits 256 port
  | .larderRequestPart ld _ _ => fits 6 ld
  | .refreshSlot stack pc _ _ _ => fits 12 stack && fits 32 pc
  | .tzSubmit t rs1 rs2 => threadFits t && fits 32 rs1 && fits 32 rs2
  | .descriptorAccept die engine _ => fits 4 die && fits 6 engine
  | .tzSend t rs1 rs2 _ => threadFits t && fits 32 rs1 && fits 32 rs2
  | .tzWait t rd rs1 rs2 => threadFits t && fits 32 rd && fits 32 rs1 && fits 32 rs2
  | .tzWaitWake t => threadFits t
  | .waitLimit t => threadFits t
  | .tzTake t rd rs1 rs2 _ => threadFits t && fits 32 rd && fits 32 rs1 && fits 32 rs2
  | .tzTakeWake t _ => threadFits t
  | .tzBrake t rs1 => threadFits t && fits 32 rs1
  | .tzAxle t rd => threadFits t && fits 32 rd
  | .tzStep t rd => threadFits t && fits 32 rd
  | .tzYield t => threadFits t
  | .galleyAccess t _ _ _ => threadFits t
  | .fence t _ => threadFits t
  | .exit t => threadFits t
  | .log t _ => threadFits t
  | .ebreak t => threadFits t
  | .launchGroupStart image _ => fits 1024 image
  | .descriptorWaitRelease die => fits 4 die
  | .engineWaitLimit die => fits 4 die
  | .descriptorComplete die engine _ => fits 4 die && fits 6 engine
  | .contrib die _ _ => fits 4 die
  | .accInit die _ => fits 4 die
  | .accAdd die _ _ => fits 4 die
  | .accRound die _ => fits 4 die
  | .topk die _ => fits 4 die
  | .sort die _ => fits 4 die
  | .thresh die _ => fits 4 die
  | .selectRank die _ => fits 4 die
  | .gather die _ => fits 4 die
  | .scatter die _ => fits 4 die
  | .pageGather die _ => fits 4 die
  | .pageScatter die _ => fits 4 die
  | .convert die _ => fits 4 die
  | .crc64 die _ => fits 4 die
  | .shake256 die _ => fits 4 die
  | .sumcheck die _ => fits 4 die
  | .put die _ => fits 4 die
  | .trainingFrame port lane _ _ _ => fits 256 port && fits 512 lane
  | .hitchStageTimeout port _ => fits 256 port
  | .backOffEnd port => fits 256 port
  | .listenBeacon port => fits 256 port
  | .listenSwingSeen port => fits 256 port
  | .bitSlipSearch lane _ => fits 512 lane
  | .identityMessage port _ => fits 256 port
  | .timingMessage port _ _ => fits 256 port
  | .portMisplaced port => fits 256 port
  | .verifyEnd port _ _ _ => fits 256 port
  | .uncorrectableRound port words headers => fits 256 port && wordsFit words && headers.all packetFits
  | .linkDown port cause => fits 256 port && fits 256 cause
  | .enterIdle port => fits 256 port
  | .idleExitBurst port => fits 256 port
  | .idleExit port => fits 256 port
  | .syncSend => true
  | .axleServo => true
  | .masterSelfLock => true
  | .certDone _ _ => true
  | .certSchedule => true
  | .telemetryBoundary => true
  | .replayInject _ => true
  | .controlCycle _ _ => true
  | .thermalHold position => fits 40 position
  | .thermalTrip position sensor _ => fits 40 position && fits 2 sensor
  | .ehrokTakeover cause => fits 256 cause
  | .coreRestart _ _ => true
  | .ehrokTakeback => true
  | .hardwareWatchdog => true
  | .powerUp _ => true
  | .setupEntry _ => true
  | .selfTestComplete _ => true
  | .restEntry => true
  | .holdEnter cause _ => fits 256 cause
  | .drainLimit => true
  | .orphanEnter => true
  | .presenceOpen _ => true
  | .presenceClose => true
  | .sealOpen _ => true
  | .sealClose _ => true
  | .pinReset => true
  | .resetNRelease _ _ => true
  | .shedNAssert => true
  | .shedNRelease => true
  | .capOverrun _ => true
  | .inputRange _ => true
  | .undervoltageShed _ => true
  | .inputUndervolt _ => true
  | .protectiveStop _ => true
  | .lossOfInput => true
  | .droopStretch die => fits 4 die
  | .droopRelease die => fits 4 die
  | .marginLow position _ => fits 40 position
  | .coolLowFlow _ _ => true
  | .flowRecovered _ => true
  | .coolInletHigh _ _ => true
  | .coolInletLow _ => true
  | .leak loop => fits 2 loop
  | .leakLoopFault loop _ => fits 2 loop
  | .refclkAbsent => true
  | .inputRecovered _ => true
  | .refclkRestored => true
  | .alignExit port => fits 256 port
  | .streamResume port => fits 256 port
  | .prbsLock lane => fits 512 lane
  | .prbsLockLost lane _ _ _ => fits 512 lane
  | .invalidTypePacket port p => fits 256 port && packetFits p
  | .illegalInstruction t _ _ => threadFits t

end Sys2Proof
end

