-- ==== Sys2Proof/Certificates/Slice0/Obligations.lean ====
section
/-! DEFINITION. The statements for the provers. Each command's statement says, on conditions on the state and the operands alone, that it answers
a next state and which; `after s t` is the state `t` that a command left, `answered s t tag op r` the same with its response. -/

open Sys2Proof Sys2Proof.Machine

/-- The identity, firmware, presence, seal, debug and repair reads answer OK with the items or the bulk of the command tables and change
nothing but the Lonus port's record of the answer (14 R357, R369, R474, 15 R391, R393, R394, 18 R442). Signature, fuse and configuration
digests are free values (log 8). -/
def Obligations.IdentityReadsAnswerAndChangeNothing : Prop :=
  (∀ s tag, Runs s tag 0x0101 → exec (.idRead tag) s = .next (answered s s tag 0x0101 (okItems (
      leBytes 1 (match s.fixed.grade with | .h12 => 0 | .h6 => 1) ++ leBytes 1 0xB1 ++ leBytes 2 s.fixed.dateCode ++ leBytes 2 s.fixed.factorySet ++
      leBytes 2 (((activeSet s).map FwSet.set).getD 0) ++ leBytes 8 s.fixed.serial ++ leBytes 1 3 ++ leBytes 1 s.mod.plane ++
      leBytes 1 s.mod.rackPos ++ leBytes 13 0)))) ∧
  (∀ s tag, Runs s tag 0x0102 → exec (.idCert tag) s = .next (answered s s tag 0x0102 (okBulk (certBytes s)))) ∧
  (∀ s tag nonce, Runs s tag 0x0103 [(32, ofLe nonce)] → exec (.idQuote tag nonce) s = .next (answered s s tag 0x0103 (okBulk (
      quoteBody s nonce ++ slice (Config.quoteSignature (quoteBody s nonce)) 0 49856)))) ∧
  (∀ s tag, Runs s tag 0x0104 → exec (.idMeasure tag) s = .next (answered s s tag 0x0104 (
      if slotMeasures (currentSlot s) ++ slotMeasures (nextSlot s) = [] then rep .notFound
      else okItems (slotMeasures (currentSlot s) ++ slotMeasures (nextSlot s) ++ fuseEntry s ++ configEntry s)))) ∧
  (∀ s tag, Runs s tag 0x0A04 → exec (.fwStatus tag) s = .next (answered s s tag 0x0A04 (okItems (
      words [modWord s 0x410, modWord s 0x414, modWord s 0x418])))) ∧
  (∀ s tag, Runs s tag 0x0A10 → exec (.presenceStatus tag) s = .next (answered s s tag 0x0A10 (okItems (leBytes 4 (presenceWord s))))) ∧
  (∀ s tag, Runs s tag 0x0A11 → exec (.sealLogRead tag) s = .next (answered s s tag 0x0A11 (okBulk (
      leBytes 2 s.nv.sealLog.length ++ leBytes 2 (min 63 s.nv.sealOverflow) ++ leBytes 4 0 ++ s.nv.sealLog.flatMap fun e =>
        leBytes 8 e.axle ++ leBytes 4 e.cycle ++ leBytes 1 e.loop ++ leBytes 1 e.kind ++ leBytes 2 0)))) ∧
  (∀ s tag, Runs s tag 0x0231 → exec (.repairRead tag) s = .next (answered s s tag 0x0231 (okBulk (repairBytes s)))) ∧
  (∀ s tag image t, Runs s tag 0x0C12 [(2, image), (2, t.die), (2, t.cluster), (2, t.core), (2, t.thread)] →
      exec (.debugThread tag image t) s = .next (answered s s tag 0x0C12 (
        if s.mgmt.debug = false then rep .denied else if imageThread s image t = false then rep .notFound
        else okItems (leBytes 4 (b2n (thrOf s t).halted) ++ leBytes 4 0 ++ leBytes 8 (thrOf s t).pc ++
          (List.range 31).flatMap fun i => leBytes 8 (Tab.get 0 (thrOf s t).x (i + 1)).toNat))))

/-- The status reads of the module, its power, coolant, larder, tables, blocks, harnesses, images, ports, rings and replay answer OK with
the words of the registers that the command tables name and change nothing else (14 R362, R474, 05 R136, 11 R283, 12 R320, 13 R326). -/
def Obligations.StatusReadsAnswerTheirRegisters : Prop :=
  (∀ s tag, Runs s tag 0x0202 → exec (.stateGet tag) s = .next (answered s s tag 0x0202 (okItems (
      words [stateCode s.mod.st + 8 * b2n s.mod.trans.isSome, modWord s 0x114])))) ∧
  (∀ s tag, Runs s tag 0x0902 → exec (.powerStatus tag) s = .next (answered s s tag 0x0902 (okItems (
      words [modWord s 0x504, modWord s 0x500, modWord s 0x508])))) ∧
  (∀ s tag, Runs s tag 0x0906 → exec (.thermalStatus tag) s = .next (answered s s tag 0x0906 (okItems (
      (List.range 40).flatMap (thermalEntry s))))) ∧
  (∀ s tag, Runs s tag 0x0907 → exec (.coolantStatus tag) s = .next (answered s s tag 0x0907 (okItems (words [modWord s 0x510])))) ∧
  (∀ s tag, Runs s tag 0x0503 → exec (.larderStatus tag) s = .next (answered s s tag 0x0503 (okItems (
      words [modWord s 0x208, modWord s 0x210, modWord s 0x214, modWord s 0x218])))) ∧
  (∀ s tag, Runs s tag 0x0305 → exec (.tableStatus tag) s = .next (answered s s tag 0x0305 (okItems (
      words [epochWord s 0, epochWord s 1, epochWord s 2])))) ∧
  (∀ s tag b, Runs s tag 0x0406 [(2, b)] → exec (.jobStatus tag b) s = .next (answered s s tag 0x0406 (
      if 128 ≤ b then rep .badParam else okItems (words [jblkWord s b 1, stepWord s b 0, stepWord s b 1, stepWord s b 3])))) ∧
  (∀ s tag h, Runs s tag 0x0412 [(2, h)] → exec (.harnessStatus tag h) s = .next (answered s s tag 0x0412 (
      if 1024 ≤ h then rep .badParam
      else okItems (words [harnStatWord s h 0, harnStatWord s h 1, harnStatWord s h 2, harnStatWord s h 3])))) ∧
  (∀ s tag i, Runs s tag 0x0604 [(2, i)] → exec (.galleyStatus tag i) s = .next (answered s s tag 0x0604 (
      if 1024 ≤ i then rep .badParam
      else okItems (words [galImgWord s i 0, galImgWord s i 1, galImgWord s i 2, galImgWord s i 3])))) ∧
  (∀ s tag p, Runs s tag 0x0701 [(2, p)] → exec (.linkStatus tag p) s = .next (answered s s tag 0x0701 (
      if portExists s p = false then rep .badParam else okItems (words (hitchWord s p :: (lanesOf s p).map (laneWord s)))))) ∧
  (∀ s tag, Runs s tag 0x0732 → exec (.planRead tag) s = .next (answered s s tag 0x0732 (
      match s.nv.plan with | some plan => okBulk (planBytes plan) | none => rep .notFound))) ∧
  (∀ s tag k, Runs s tag 0x0B03 [(2, k)] → exec (.recordStatus tag k) s = .next (answered s s tag 0x0B03 (
      if 16 ≤ k then rep .badParam else if (ringOf s k).st = 0 ∨ (ringOf s k).capture = true then rep .notFound
      else okItems (ringHeader (ringOf s k))))) ∧
  (∀ s tag, Runs s tag 0x0B13 → exec (.replayStatus tag) s = .next (answered s s tag 0x0B13 (okItems (
      words [replayWord s 0, replayWord s 1, replayWord s 2]))))

/-- REG_READ answers the words of `count` registers from a 4-byte aligned address, or the status of the first that cannot be read, and changes
no register; LARDER_READ and the dumps of a recording and a capture answer the bytes that the larder holds there where their operands are in
range and no read meets an error; where one does they answer FAULTED (14 R358, R362, 10 R262, 11 R283, 17 R434). -/
def Obligations.RegisterLarderAndRingReads : Prop :=
  (∀ s tag a n v, Runs s tag 0x0220 [(4, a), (2, n), (2, v)] → exec (.regRead tag a n v) s = .next (answered s s tag 0x0220 (
      if a < 2 ^ 32 ∧ a % 4 = 0 ∧ 1 ≤ n ∧ n ≤ 256 ∧ v ≤ 1 then
        match regReads s a v (List.range n) with | .ok ws => okItems (words ws) | .error e => rep e
      else rep .badParam))) ∧
  (∀ s tag a n ecc, Runs s tag 0x0501 [(8, a), (4, n)] → exec (.larderRead tag a n ecc) s = .next (
      if n % 32 = 0 ∧ 32 ≤ n ∧ n ≤ 64 * mib ∧ a + n ≤ ringsBase s then
        match eccRead s a n 0xFFFF ecc with
        | (some b, t) => answered s t tag 0x0501 (okBulk b)
        | (none, t) => answered s t tag 0x0501 (rep .faulted)
      else answered s s tag 0x0501 (rep .badParam))) ∧
  (∀ s tag k off n ecc, Runs s tag 0x0B04 [(2, k), (8, off), (4, n)] → exec (.recordDump tag k off n ecc) s =
      .next (ends s tag 0x0B04 (ringDump false k off n ecc s))) ∧
  (∀ s tag k off n ecc, Runs s tag 0x0822 [(2, k), (8, off), (4, n)] → exec (.captureDump tag k off n ecc) s =
      .next (ends s tag 0x0822 (ringDump true k off n ecc s))) ∧
  (∀ s c k off n ecc, k < 16 → off % 32 = 0 → n % 32 = 0 → 32 ≤ n → n ≤ 64 * mib → (ringOf s k).st = 2 ∨ (ringOf s k).st = 3 →
      (ringOf s k).capture = c → off + n ≤ (ringOf s k).mib * mib → ringDump c k off n ecc s =
        match eccRead s ((ringOf s k).base + off) n 0xFFFF ecc with
        | (some b, t) => (t, some (okBulk b))
        | (none, t) => (t, some (rep .faulted))) ∧
  (∀ s a n b, badIn s a n = none → eccRead s a n b .ok = (some ((List.range n).map fun i => Mem.byte s.lard.mem (a + i)), s))

/-- The owner record and the firmware slots: a good owner record is stored where none is, clearing removes it, and both return an armed
slot next to staged; FW_STAGE writes its bulk's set into slot next, which ends staged with FW_STAGED where the checks of 15 R385 pass, and bad
with their status where one fails; arming takes a staged slot next, disarming returns an armed one to staged. Slot current, the other slot's
device, is untouched (15 R383 to R386, R392). Whether SLH-DSA signatures verify is free (log 8), and log 8's own readings are part of it: the record's name
is UTF-8 with nothing but zeros after it (`nameOk`), a set that fails keeps its number in the slot, and condition 7 of 15 R383 answers BADPARAM. -/
def Obligations.OwnerAndFirmwareCommandsTakeEffect : Prop :=
  (∀ s tag record, Runs s tag 0x0110 → exec (.idOwnerSet tag record) s = .next (
      let r := bulkOf s tag record
      if r.length = 256 ∧ getLe r 0 2 = 1 ∧ nameOk (slice r 68 64) = true ∧ (∀ b ∈ slice r 2 2 ++ slice r 132 124, b = 0) ∧ s.nv.owner = none then
        answered s (disarmNext { s with nv := { s.nv with owner := some r } }) tag 0x0110 (rep .ok)
      else answered s s tag 0x0110 (rep .badParam))) ∧
  (∀ s tag, Runs s tag 0x0111 → exec (.idOwnerClear tag) s = .next (
      if s.nv.owner = none then answered s s tag 0x0111 (rep .notFound)
      else answered s (disarmNext { s with nv := { s.nv with owner := none } }) tag 0x0111 (rep .ok))) ∧
  (∀ s tag data, Runs s tag 0x0A01 → bulkOf s tag data ≠ [] → exec (.fwStage tag data) s = .next (
      let b := bulkOf s tag data
      let x := parseSet b b.length
      let stored := fun (st : SlotState) =>
        updNext (beginStage s) fun p => { p with state := st, set := some x, ownerDigest := ownerDigest s, reachedReady := false }
      if b.length < 60672 then answered s (stored .writing) tag 0x0A01 (rep .badParam)
      else match stageFails (stored .writing) b b.length with
        | some st => answered s (stored .writing) tag 0x0A01 (rep st)
        | none => answered s (emit (stored .staged) evFwStaged [x.set]) tag 0x0A01 (rep .ok))) ∧
  (∀ s tag data, Runs s tag 0x0A01 → bulkOf s tag data = [] →
      exec (.fwStage tag data) s = .next (answered s s tag 0x0A01 (rep .badParam))) ∧
  (∀ s, (nextSlot s).state = .writing → (nextSlot (stageAbort s)).state = .bad) ∧
  (∀ s tag, Runs s tag 0x0A02 → exec (.fwArm tag) s = .next (
      if (nextSlot s).state = .staged then answered s (updNext s fun x => { x with state := .armed }) tag 0x0A02 (rep .ok)
      else answered s s tag 0x0A02 (rep .notFound))) ∧
  (∀ s tag, Runs s tag 0x0A03 → exec (.fwDisarm tag) s = .next (answered s
      (updNext s fun x => if x.state = .armed then { x with state := .staged } else x) tag 0x0A03 (rep .ok))) ∧
  (∀ s f, nextSlot (updNext s f) = f (nextSlot s) ∧ currentSlot (updNext s f) = currentSlot s)

/-- The debug lock: DEBUG_UNLOCK opens it with DEBUG_UNLOCKED and DEBUG_LOCK closes it with DEBUG_LOCKED, detaching every session and resuming
every halted thread; attach, detach and resume act on one image or one thread while it is open, and answer DENIED, NOTFOUND or BADSTATE
otherwise; a lock that is already where it should be gives no event (14 R370). That an attach to an image with a session answers OK and a detach without one
NOTFOUND is the model's reading (log 26). -/
def Obligations.DebugCommandsTakeEffect : Prop :=
  (∀ s tag, Runs s tag 0x0C01 → exec (.debugUnlock tag) s = .next (answered s
      (if s.mgmt.debug then s else emit { s with mgmt := { s.mgmt with debug := true } } evDebugUnlocked []) tag 0x0C01 (rep .ok))) ∧
  (∀ s tag, Runs s tag 0x0C02 → exec (.debugLock tag) s = .next (answered s
      (if s.mgmt.debug then
        emit { s with mgmt := { s.mgmt with debug := false }, thr := Tab.mapV {} s.thr fun t => { t with halted := false },
                      img := Tab.mapV {} s.img fun i => if i.st = 2 then { i with st := 1 } else i } evDebugLocked []
       else s) tag 0x0C02 (rep .ok))) ∧
  (∀ s tag i, Runs s tag 0x0C10 [(2, i)] → exec (.debugAttach tag i) s = .next (
      if s.mgmt.debug = false then answered s s tag 0x0C10 (rep .denied)
      else if (imgOf s i).st = 0 then answered s s tag 0x0C10 (rep .notFound)
      else answered s { s with img := Tab.upd {} s.img i fun x => { x with st := 2 } } tag 0x0C10 (rep .ok))) ∧
  (∀ s tag i, Runs s tag 0x0C11 [(2, i)] → exec (.debugDetach tag i) s = .next (
      if (imgOf s i).st = 2 then answered s
        { s with img := Tab.upd {} s.img i fun x => { x with st := 1 },
                 thr := Tab.mapV {} s.thr fun t => if t.image = i then { t with halted := false } else t } tag 0x0C11 (rep .ok)
      else answered s s tag 0x0C11 (rep .notFound))) ∧
  (∀ s tag i t, Runs s tag 0x0C13 [(2, i), (2, t.die), (2, t.cluster), (2, t.core), (2, t.thread)] →
      exec (.debugResume tag i t) s = .next (
        if s.mgmt.debug = false then answered s s tag 0x0C13 (rep .denied)
        else if imageThread s i t = false then answered s s tag 0x0C13 (rep .notFound)
        else if (thrOf s t).halted = false then answered s s tag 0x0C13 (rep .badState)
        else answered s { s with thr := Tab.upd {} s.thr (thrKey t) fun u => { u with halted := false } } tag 0x0C13 (rep .ok)))

/-- The presence window and the seal loops outside Off: a button pulse opens the window for 300 s, or restarts it, and a jumper opens it until its
release, with PRESENCE_OPEN where it was closed; its end sends PRESENCE_CLOSE and locks debug; a loop that opens or closes is logged with its
event, and an opening locks debug; SEAL_LOG_CLEAR empties the log and its overflow count (14 R368 to R370, R373). That PRESENCE_CLOSE of a button window
idles until the window's end is the model's choice (log 3), that SEAL_LOG_CLEAR clears the count its reading (log 26). -/
def Obligations.PresenceAndSealsTakeEffect : Prop :=
  (∀ s, s.mod.st ≠ .off → exec (.presenceOpen false) s = .next (after s
      (let u := { s with mgmt := { s.mgmt with opened := true, closeAt := s.now + 300000000000 } }
       if s.mgmt.opened then u else emit u evPresenceOpen []))) ∧
  (∀ s, s.mod.st ≠ .off → exec (.presenceOpen true) s = .next (after s
      (let u := { s with mgmt := { s.mgmt with opened := true, jumper := true } }
       if s.mgmt.opened then u else emit u evPresenceOpen []))) ∧
  (∀ s, exec .presenceClose s = .next (after s
      (if s.mgmt.opened then
        let u := if s.mgmt.jumper then s else elapse s (s.mgmt.closeAt - s.now)
        debugLock (emit { u with mgmt := { s.mgmt with opened := false, jumper := false } } evPresenceClose [])
       else s))) ∧
  (∀ s b, s.mod.st ≠ .off → exec (.sealOpen b) s = .next (after s
      (if loopOpen s b then s else debugLock
        (emit (sealLogAdd { s with mgmt := if b then { s.mgmt with sealB := true } else { s.mgmt with sealA := true } } (b2n b) 0)
          evSealOpen [b2n b])))) ∧
  (∀ s b, s.mod.st ≠ .off → exec (.sealClose b) s = .next (after s
      (if loopOpen s b then
        emit (sealLogAdd { s with mgmt := if b then { s.mgmt with sealB := false } else { s.mgmt with sealA := false } } (b2n b) 1)
          evSealClose [b2n b]
       else s))) ∧
  (∀ s tag, Runs s tag 0x0A12 → exec (.sealLogClear tag) s = .next (answered s
      { s with nv := { s.nv with sealLog := [], sealOverflow := 0 } } tag 0x0A12 (rep .ok)))

/-- Sessions and the heartbeat: SESSION_OPEN ends an open session, takes the next number (0 is skipped) and the rate, and answers the number;
SESSION_CLOSE answers OK and an open session ends when that response is sent; HEARTBEAT restarts the 10 s and ends an orphaned state with
ORPHAN_LEAVE and the caps that then hold; ORPHAN_ENTER stands 10 s after the last heartbeat (14 R351, R352, R363). The first session after a
protective stop or a pin reset forms the event of the stored record (16 R398, 18 R445). That ORPHAN_ENTER's row idles until its time is log 3's
DESIGN CHOICE. -/
def Obligations.SessionsAndHeartbeatTakeEffect : Prop :=
  (∀ s tag rx, Runs s tag 0x0240 [(2, rx)] → exec (.sessionOpen tag rx) s = .next (
      let n := if (s.lonus.session + 1) % 65536 = 0 then 1 else (s.lonus.session + 1) % 65536
      let u := stopEvent (if s.lonus.opened then endSession s else s)
      if 1 ≤ rx ∧ rx ≤ 25 then answered s { u with lonus := { u.lonus with
          opened := true, session := n, rxRate := rx,
          outstanding := u.lonus.outstanding.map fun c => if c.tag = tag ∧ c.op = 0x0240 then { c with session := n } else c } }
        tag 0x0240 (okItems (leBytes 2 n))
      else answered s s tag 0x0240 (rep .badParam))) ∧
  (∀ s, s.nv.stop = none → stopEvent s = s) ∧
  (∀ s r, s.nv.stop = some r → stopEvent s =
      let u := { s with nv := { s.nv with stop := none } }
      if r.cause = 3 then emit u evPinReset [r.state, r.axle] else emit u evProtective [r.cause, r.axle]) ∧
  (∀ s, (endSession s).lonus.opened = false ∧ (endSession s).lonus.kept = [] ∧ (endSession s).lonus.respQ = [] ∧
      (endSession s).lonus.bulkQ = [] ∧ (endSession s).lonus.telemQ = [] ∧ (endSession s).lonus.mirrorQ = [] ∧
      (endSession s).lonus.outstanding = s.lonus.outstanding.filter Cmd.bulkDone ∧
      (endSession s).lonus.session = s.lonus.session ∧ (endSession s).lonus.events = s.lonus.events) ∧
  (∀ s tag, Runs s tag 0x0241 → exec (.sessionClose tag) s = .next (answered s
      (if s.lonus.opened then { s with lonus := { s.lonus with closing := some tag } } else s) tag 0x0241 (rep .ok))) ∧
  (∀ s r, s.lonus.closing = some r.tag → (sendResponse s r).lonus.opened = false) ∧
  (∀ s tag q, Runs s tag 0x0905 [(4, q)] → exec (.heartbeat tag q) s = .next (
      let u := { s with lonus := { s.lonus with beatAt := s.now } }
      if 2 ^ 32 ≤ q then answered s s tag 0x0905 (rep .badParam)
      else if s.lonus.orphan then answered s
        (capChanged (emit { u with lonus := { u.lonus with orphan := false } } evOrphanLeave [])) tag 0x0905 (rep .ok)
      else answered s u tag 0x0905 (rep .ok))) ∧
  (∀ s, s.mod.st ≠ .off → exec .orphanEnter s = .next (after s (
      if s.lonus.orphan then s else capChanged
        (emit (updLonus (elapse s (s.lonus.beatAt + 10000000000 - s.now)) fun l => { l with orphan := true }) evOrphanEnter []))))

/-- Host frames: a row's frame is its own, or the one that the row's codewords carry. On a line that is up, outside Off, a frame that fails 14 R350 is counted and discarded. A good COMMAND frame with the tag of an
outstanding command is TAG_REUSE, or a resend that does nothing; a resend of a completed tag sends its kept response again; any other is a new
command: NOSPACE beyond 64, refused where it is unknown or not allowed, BADPARAM where it announces more than 256 MiB, else kept outstanding
with its bulk still due where it announces one, and noted as late where a STATE_SET arrives during a transition. A good BULK frame that continues
its transfer adds its bytes; a transfer with more than 1 s since its last frame ends with TIMEOUT; the line's own events set its state
(14 R350 to R359, 01 R17). The checks of 14 R358 at arrival, BADPARAM above 256 MiB and for another code, TAG_REUSE without items, the
late STATE_SET and the frame of the codewords are log 12's; that BULK_TIMEOUT's row idles until its time is log 3's DESIGN CHOICE. -/
def Obligations.HostFramesTakeEffect : Prop :=
  (∀ s f, s.mod.st ≠ .off → s.lonus.lineUp = true → frameOk s f = false →
      exec (.commandFrame f) s = .next (after s { s with lonus := { s.lonus with bad := min (s.lonus.bad + 1) 4095 } }) ∧
      exec (.bulkFrame f) s = .next (after s { s with lonus := { s.lonus with bad := min (s.lonus.bad + 1) 4095 } })) ∧
  (∀ s f ws k, s.mod.st = .off ∨ s.lonus.lineUp = false →
      exec (.commandFrame f ws k) s = .next (after s s) ∧ exec (.bulkFrame f ws k) s = .next (after s s)) ∧
  (∀ s f w ws k, let g := frameOf (((lonusStream (w :: ws)).getD []).drop k)
      exec (.commandFrame f (w :: ws) k) s = exec (.commandFrame g) s ∧ exec (.bulkFrame f (w :: ws) k) s = exec (.bulkFrame g) s) ∧
  (∀ s f, s.mod.st ≠ .off → s.lonus.lineUp = true → frameOk s f = true → f.ftype = 1 →
      exec (.commandFrame f) s = .next (after s (
        if (frameCmd s f).isSome then (if f.resend then s else emit s evTagReuse [])
        else match (if f.resend then s.lonus.kept.find? fun r => decide (r.tag = f.tag.toNat) else none) with
          | some r => queueResponse s { r with resend := true }
          | none => newCommand s f))) ∧
  (∀ s f, let u := { s with lonus := { s.lonus with kept := s.lonus.kept.filter fun r => decide (r.tag ≠ f.tag.toNat) } }
      newCommand s f =
        if 64 ≤ s.lonus.outstanding.length then refuseNow u f.tag.toNat f.code.toNat .noSpace
        else match arriveCheck s f.code.toNat with
        | some st => refuseNow u f.tag.toNat f.code.toNat st
        | none =>
          if 2 ^ 28 < f.word.toNat then refuseNow u f.tag.toNat f.code.toNat .badParam
          else { u with lonus := { u.lonus with outstanding := s.lonus.outstanding ++ [
            { tag := f.tag.toNat, session := f.session.toNat, op := f.code.toNat, word := f.word.toNat, payload := f.payload, bulk := [],
              bulkDone := decide (f.word.toNat = 0), lastAt := s.now,
              late := decide (f.code.toNat = 0x0201) && s.mod.trans.isSome }] } }) ∧
  (∀ s f, s.mod.st ≠ .off → s.lonus.lineUp = true → frameOk s f = true → f.ftype = 5 →
      exec (.bulkFrame f) s = .next (after s (bulkIn s f))) ∧
  (∀ s f, frameCmd s f = none ∨ (∃ c, frameCmd s f = some c ∧ c.bulkDone = true) → bulkIn s f = s) ∧
  (∀ s f c, frameCmd s f = some c → c.bulkDone = false → c.op ≠ 0x0A01 → bulkIn s f =
      if c.lastAt + 1000000000 < s.now then completeAs s (some c) c.tag c.op (rep .timeout)
      else if f.word.toNat = c.bulk.length ∧ f.code.toNat = c.op ∧ c.bulk.length + f.payload.length ≤ c.word ∧
          f.last = decide (c.bulk.length + f.payload.length = c.word) then
        setCmd s c { c with bulk := c.bulk ++ f.payload, bulkDone := f.last, lastAt := s.now, buf := stageBuf s c + f.payload.length }
      else completeAs s (some c) c.tag c.op (rep .badParam)) ∧
  (∀ s tag, exec (.bulkTimeout tag) s = .next (after s (
      match s.lonus.outstanding.find? fun c => decide (c.tag = tag) && !c.bulkDone with
      | some c => completeAs (elapse s (c.lastAt + 1000000001 - s.now)) (some c) tag c.op (rep .timeout)
      | none => s))) ∧
  (∀ s, s.mod.st ≠ .off → exec .lonusLineUp s = .next (after s (
      if s.mod.refBad then s else updLonus (lonusFill s) fun l => { l with lineUp := true }))) ∧
  (∀ s, exec .lonusLineDown s = .next (after s (updLonus (lonusFill s) fun l => { l with lineUp := false, refCut := false }))) ∧
  (∀ s, (lonusFill s).now = s.now ∧ (lonusFill s).lonus.sent = s.lonus.sent ∧ (lonusFill s).lonus.outstanding = s.lonus.outstanding)

/-- The next frame out, with the line up and a session open or a response waiting: the first response whose bulk has gone, else the oldest event,
else the next part of the bulk, else telemetry, else the mirror; each starts when the line lets it and no 10 µs carry more than rx_rate allows,
and its bytes go into the line's codewords; where no frame follows, a fill word ends the codeword (14 R347, R349, R359, R367). The length of a
part is log 24's. -/
def Obligations.OutputFramesLeaveInOrder : Prop :=
  (∀ s, s.mod.st ≠ .off → s.lonus.lineUp = true → s.lonus.opened = true ∨ s.lonus.respQ ≠ [] → exec .outputFrameSend s = .next (after s (
      let u := sendNextFrame s
      if u.lonus.respQ = [] ∧ u.lonus.events = [] ∧ u.lonus.bulkQ = [] ∧ u.lonus.telemQ = [] ∧ u.lonus.mirrorQ = [] then
        updLTx u (txClose lonusLine)
      else u))) ∧
  (∀ s, s.mod.st = .off ∨ s.lonus.lineUp = false ∨ (s.lonus.opened = false ∧ s.lonus.respQ = []) → exec .outputFrameSend s = .next (after s s)) ∧
  (∀ s r, (s.lonus.respQ.find? fun x => !(s.lonus.bulkQ.any fun b => decide (b.1 = x.tag))) = some r →
      sendNextFrame s = sendResponse s r) ∧
  (∀ s e es, (s.lonus.respQ.find? fun x => !(s.lonus.bulkQ.any fun b => decide (b.1 = x.tag))) = none → s.lonus.events = e :: es →
      sendNextFrame s = sendFrame { s with lonus := { s.lonus with events := es } } (eventFrame s e)) ∧
  (∀ s tag op off b rest, (s.lonus.respQ.find? fun x => !(s.lonus.bulkQ.any fun b => decide (b.1 = x.tag))) = none →
      s.lonus.events = [] → s.lonus.bulkQ = (tag, op, off, b) :: rest → sendNextFrame s =
        sendFrame { s with lonus := { s.lonus with
            bulkQ := if b.length ≤ bulkPart s.lonus then rest else (tag, op, off + bulkPart s.lonus, b.drop (bulkPart s.lonus)) :: rest } }
          (bulkOut s tag op off (b.take (bulkPart s.lonus)) (decide (b.length ≤ bulkPart s.lonus)))) ∧
  (∀ l : Lonus, bulkPart l ≤ 16384 ∧ 40 + bulkPart l ≤ 10000 * max 1 l.rxRate) ∧
  (∀ s f fs, s.lonus.respQ = [] → s.lonus.events = [] → s.lonus.bulkQ = [] → s.lonus.telemQ = f :: fs →
      sendNextFrame s = sendFrame { s with lonus := { s.lonus with telemQ := fs } } (streamOut s 4 f)) ∧
  (∀ s f fs, s.lonus.respQ = [] → s.lonus.events = [] → s.lonus.bulkQ = [] → s.lonus.telemQ = [] → s.lonus.mirrorQ = f :: fs →
      sendNextFrame s = sendFrame { s with lonus := { s.lonus with mirrorQ := fs } } (streamOut s 6 f)) ∧
  (∀ s x, let n := 40 + alignUp x.payload.length 8
      rateAt (10000 * max 1 s.lonus.rxRate) n s.now s.lonus.recent ≤ (sendFrame s x).now ∧ s.now ≤ (sendFrame s x).now ∧
      (sendFrame s x).lonus.sent = s.lonus.sent ++ [x] ∧
      (sendFrame s x).lonus.recent =
        (s.lonus.recent.filter fun e => decide ((sendFrame s x).now < e.1 + 10000)) ++ [((sendFrame s x).now, n)]) ∧
  (∀ most n now (l : List (Nat × Nat)), (∀ e ∈ l, e.1 ≤ now) → n ≤ most →
      ∃ k, ((l.drop k).map Prod.snd).sum + n ≤ most ∧ ∀ e ∈ l.take k, e.1 + 10000 ≤ rateAt most n now l)

/-- The I3C target outside Off: addresses are taken, changed and dropped, IBI is enabled and disabled, each read CCC puts its bytes on the
bus, RSTACT is kept, a private write of the tray cap takes effect where it is 0 or in range, and a private read takes the map's bytes from the
offset on (14 R371, R372). PID fields, GETSTATUS, GETMWL and GETMRL bytes are free values. BCR 0x06, DCR 0, what ENTDAA answers, bit 0 of ENEC
and DISEC, the conditions of SETDASA and SETNEWDA, RSTACT's kept byte and the rules of the offset are log 11's PRESUMED and DEDUCED points. -/
def Obligations.SidebandCommandsTakeEffect : Prop :=
  (∀ s a, s.mod.st ≠ .off → exec (.entdaa a) s = .next (after s (if s.i3c.dyn = none ∧ a < 128 then
      { s with i3c := { s.i3c with dyn := some a, out := s.i3c.out ++ [i3cPid s ++ [0x06, 0]] } } else s))) ∧
  (∀ s st a, s.mod.st ≠ .off → exec (.setdasa st a) s = .next (after s
      (if st = 0x30 + s.mod.plane % 2 ∧ a < 128 ∧ s.i3c.dyn = none then { s with i3c := { s.i3c with dyn := some a } } else s))) ∧
  (∀ s a, s.mod.st ≠ .off → exec (.setnewda a) s = .next (after s
      (if s.i3c.dyn ≠ none ∧ a < 128 then { s with i3c := { s.i3c with dyn := some a } } else s))) ∧
  (∀ s, s.mod.st ≠ .off → exec .rstdaa s = .next (after s { s with i3c := { s.i3c with dyn := none } })) ∧
  (∀ s e, s.mod.st ≠ .off →
      exec (.enec e) s = .next (after s (if e.getLsbD 0 then { s with i3c := { s.i3c with ibi := true } } else s)) ∧
      exec (.disec e) s = .next (after s (if e.getLsbD 0 then { s with i3c := { s.i3c with ibi := false } } else s))) ∧
  (∀ s, s.mod.st ≠ .off → exec .getpid s = .next (after s { s with i3c := { s.i3c with out := s.i3c.out ++ [i3cPid s] } }) ∧
      exec .getbcr s = .next (after s { s with i3c := { s.i3c with out := s.i3c.out ++ [[0x06]] } }) ∧
      exec .getdcr s = .next (after s { s with i3c := { s.i3c with out := s.i3c.out ++ [[0]] } })) ∧
  (∀ s, s.mod.st ≠ .off →
      exec .getstatus s = .next (after s
        { s with freeCtr := s.freeCtr + 1, i3c := { s.i3c with out := s.i3c.out ++ [Config.i3cStatus s.freeCtr] } }) ∧
      exec .getmwl s = .next (after s
        { s with freeCtr := s.freeCtr + 1, i3c := { s.i3c with out := s.i3c.out ++ [Config.i3cMwl s.freeCtr] } }) ∧
      exec .getmrl s = .next (after s
        { s with freeCtr := s.freeCtr + 1, i3c := { s.i3c with out := s.i3c.out ++ [Config.i3cMrl s.freeCtr] } })) ∧
  (∀ s a, s.mod.st ≠ .off → exec (.rstact a) s = .next (after s { s with i3c := { s.i3c with rstAct := a.toNat } })) ∧
  (∀ s bs n, s.mod.st ≠ .off → exec (.i3cPrivateWrite bs n) s = .next (after s (i3cRead (i3cWrite s bs) n))) ∧
  (∀ s, i3cRead s 0 = s) ∧
  (∀ s n, 0 < n → i3cRead s n = { s with i3c := { s.i3c with
      offset := (s.i3c.offset + n) % 24,
      out := s.i3c.out ++ [(List.range n).map fun i => ((i3cMap s)[(s.i3c.offset + i) % 24]?).getD 0] } }) ∧
  (∀ s lo hi, i3cWrite s [0x12, lo, hi] =
      let u := { s with i3c := { s.i3c with offset := 0x14 } }
      if ofLe [lo, hi] = 0 ∨ (900 ≤ ofLe [lo, hi] ∧ ofLe [lo, hi] ≤ sustained s) then
        capChanged { u with pwr := { s.pwr with trayCap := ofLe [lo, hi] } }
      else { u with lonus := { s.lonus with i3cDrop := min (s.lonus.i3cDrop + 1) 255 } }) ∧
  (∀ s o b, o.toNat < 24 → o.toNat ≠ 0x12 → o.toNat ≠ 0x13 → i3cWrite s [o, b] =
      { s with i3c := { s.i3c with offset := (o.toNat + 1) % 24 }, lonus := { s.lonus with i3cDrop := min (s.lonus.i3cDrop + 1) 255 } })

/-- The power settings and the pins of the power supervision outside Off: a cap, shed level or orphan level in its range is stored and takes
effect, any other is BADPARAM; SHED_N, an overrun of the cap and an undervoltage each bring their shed cause, their ends remove it; an input out
of range, a low input and its recovery do what 16 R397 gives (16 R397 to R405). While power-up still waits for its clock an input below 44 V takes
the module back to Off (18 R435). That the row of CAP_OVERRUN may carry the measure is log 14's. -/
def Obligations.PowerSettingsAndInputTakeEffect : Prop :=
  (∀ s tag w, Runs s tag 0x0901 [(2, w)] → exec (.capSet tag w) s = .next (
      if w ≤ sustained s then answered s (capChanged { s with pwr := { s.pwr with mgrCap := w } }) tag 0x0901 (rep .ok)
      else answered s s tag 0x0901 (rep .badParam))) ∧
  (∀ s tag p, Runs s tag 0x0903 [(2, p)] → exec (.shedSet tag p) s = .next (
      if 25 ≤ p ∧ p ≤ 75 then answered s (applyLimits { s with pwr := { s.pwr with shedPct := p } }) tag 0x0903 (rep .ok)
      else answered s s tag 0x0903 (rep .badParam))) ∧
  (∀ s tag p, Runs s tag 0x0904 [(2, p)] → exec (.orphanSet tag p) s = .next (
      if 50 ≤ p ∧ p ≤ 100 then answered s (capChanged { s with pwr := { s.pwr with orphanPct := p } }) tag 0x0904 (rep .ok)
      else answered s s tag 0x0904 (rep .badParam))) ∧
  (∀ s, s.mod.st ≠ .off → exec .shedNAssert s = .next (after s (addCause { s with pwr := { s.pwr with shedN := true } } 3))) ∧
  (∀ s, s.mod.st ≠ .off → exec .shedNRelease s = .next (after s (dropCause { s with pwr := { s.pwr with shedN := false } } 3))) ∧
  (∀ s, s.mod.st ≠ .off → exec .capOverrun s = .next (after s (addCause s 2))) ∧
  (∀ s d, s.mod.st ≠ .off → exec (.capOverrun (some d)) s = .next (after s
      (if (capNow s).1 < d then addCause { s with pwr := { s.pwr with draw := d } } 2 else s))) ∧
  (∀ s v w, s.mod.bootWait = some w → v < 4400 → exec (.inputRange v) s = .next (after s (goOff s none)) ∧
      exec (.undervoltageShed v) s = .next (after s (goOff s none)) ∧ exec (.inputUndervolt v) s = .next (after s (goOff s none))) ∧
  (∀ s v, s.mod.st ≠ .off → s.mod.bootWait = none → exec (.inputRange v) s = .next (after s
      (if v < 4400 ∨ 5600 < v then emit { s with pwr := { s.pwr with volts := v, rangeBad := true } } evInputRange [v] else s))) ∧
  (∀ s v, s.mod.st ≠ .off → s.mod.bootWait = none → exec (.undervoltageShed v) s = .next (after s
      (if v < 4200 then addCause { s with pwr := { s.pwr with volts := v, uvBad := true } } 4 else s))) ∧
  (∀ s v, s.mod.st ≠ .off → s.mod.bootWait = none → exec (.inputUndervolt v) s = .next (after s
      (if v < 4000 then enterHold (emit { s with pwr := { s.pwr with volts := v } } evUndervolt [v]) 7 none else s))) ∧
  (∀ s v, s.mod.st ≠ .off → exec (.inputRecovered v) s = .next (after s
      (let u := { s with pwr := { s.pwr with volts := v,
                                             rangeBad := if 4400 ≤ v ∧ v ≤ 5600 then false else s.pwr.rangeBad } }
       if 4200 ≤ v then dropCause { u with pwr := { u.pwr with uvBad := false } } 4 else u)))

/-- The clock, coolant and leak rows (the coolant's while a core controls, the leak's with the management rails good): a droop engages its die's detector and counts, its release ends it, and the crossbar clocks are
stretched with their own die's detector, all four under STEADY while any is engaged; a low margin raises the setpoint by 10 mV or, at the
rail's limit, sends the module to Hold; low flow, warm or cold inlet and leak readings set their conditions with their events, engage the shed or
go to Hold as 16 R408 to R411 give; a flow reading that is not plausible counts as no flow (01 R15, 16 R414). -/
def Obligations.ClockCoolantAndLeakRowsTakeEffect : Prop :=
  (∀ s d, d < 4 → exec (.droopStretch d) s = .next (after s
      (if dpRuns s = true ∧ (hubOf s d).droopOn = false then
        stretchSettle (updHub s d fun h => { h with droopOn := true, droop := (h.droop + 1) % 2 ^ 32 }) d
       else s))) ∧
  (∀ s d, d < 4 → exec (.droopRelease d) s = .next (after s (stretchSettle (updHub s d fun h => { h with droopOn := false }) d))) ∧
  (∀ s d, steady s = false → d < 4 → (hubOf (stretchSettle s d) d).stretch = (hubOf s d).droopOn ∧
      ∀ e, e ≠ d → hubOf (stretchSettle s d) e = hubOf s e) ∧
  (∀ s d e, steady s = true → e < 4 → (hubOf (stretchSettle s d) e).stretch = ((List.range 4).any fun k => (hubOf s k).droopOn)) ∧
  (∀ s p l, s.mod.st ≠ .off → p < 40 → diePresent s p = true → exec (.marginLow p l) s = .next (after s
      (if l then enterHold s 4 (dieUnit p)
       else { s with pwr := { s.pwr with supply := Tab.upd 0 s.pwr.supply p fun v => v + 10 } }))) ∧
  (∀ s f b, ctrlRuns s = true → exec (.coolLowFlow f b) s = .next (after s
      (let bad := b || decide (600 < f) || (s.cool.stuck && decide (f = s.cool.flow))
       let u := emit { s with cool := { s.cool with flow := f, flowFault := bad, lowAlert := true } } evLowFlow [f, b2n bad]
       if bad = true ∨ f < 144 then (if dpPowered u then addCause u 5 else u) else if f < 240 then u else s))) ∧
  (∀ s f, ctrlRuns s = true → exec (.flowRecovered f) s = .next (after s
      (if 240 ≤ f ∧ f ≤ 600 ∧ ¬ (s.cool.stuck = true ∧ f = s.cool.flow) then dropCause { s with cool := { s.cool with flow := f, flowFault := false, lowAlert := false } } 5
       else s))) ∧
  (∀ s f b i o, ctrlRuns s = false → exec (.coolLowFlow f b) s = .next (after s s) ∧ exec (.flowRecovered f) s = .next (after s s) ∧
      exec (.coolInletHigh i o) s = .next (after s s) ∧ exec (.coolInletLow i) s = .next (after s s)) ∧
  (∀ s i o, ctrlRuns s = true → exec (.coolInletHigh i o) s = .next (after s
      (if 450 < i ∨ 250 < o - i then
        emit { s with cool := { s.cool with inlet := i, outlet := o, inHigh := true } } evInletHigh [twos 16 i, twos 16 o]
       else s))) ∧
  (∀ s i, ctrlRuns s = true → exec (.coolInletLow i) s = .next (after s
      (if i < 300 then emit { s with cool := { s.cool with inlet := i, inLow := true } } evInletLow [twos 16 i] else s))) ∧
  (∀ s, railsGood s = true →
      exec (.leak 0) s = .next (after s (enterHold (emit { s with cool := { s.cool with loop0 := 1 } } evLeak [0]) 10 none)) ∧
      exec (.leak 1) s = .next (after s (enterHold (emit { s with cool := { s.cool with loop1 := 1 } } evLeak [1]) 10 none))) ∧
  (∀ s r, railsGood s = true → exec (.leakLoopFault 0 r) s = .next (after s
      (if r < 30 then enterHold (emit { s with cool := { s.cool with loop0 := 1 } } evLeak [0]) 10 none
       else if r ≤ 400 then { s with cool := { s.cool with loop0 := 0 } }
       else
        let u := emit { s with cool := { s.cool with loop0 := 2 } } evLoopFault [0, r]
        if s.cool.loop1 = 2 then enterHold u 6 none else u))) ∧
  (∀ s r, railsGood s = true → exec (.leakLoopFault 1 r) s = .next (after s
      (if r < 30 then enterHold (emit { s with cool := { s.cool with loop1 := 1 } } evLeak [1]) 10 none
       else if r ≤ 400 then { s with cool := { s.cool with loop1 := 0 } }
       else
        let u := emit { s with cool := { s.cool with loop1 := 2 } } evLoopFault [1, r]
        if s.cool.loop0 = 2 then enterHold u 6 none else u)))

/-- Temperatures and the Ehrok cores outside Off: a position above 105 °C for two cycles and a reading above 115 °C send the module to Hold with
their events, the latter with the data-plane rails off; the core in control runs its cycle at the next 250 µs boundary in the order sensors,
cross-check, thermal loop, stacks, sensors lost, voltages, caps, power loop, ramp, burn load, releases, state triggers, copy; takeover, restart,
takeback and watchdog change the cores (15 R374 to R381, 16 R400 to R413, 10 R267). The order of the loops within a cycle and the sensed operands
are log 14's choice; the causes of a takeover and what the copy holds are log 22's; that a row idles until its time is log 3's. -/
def Obligations.ThermalAndCoreRowsTakeEffect : Prop :=
  (∀ s p, diePresent s p = true → exec (.thermalHold p) s = .next (after s
      (if ctrlRuns s = true ∧ (s.therm.hot.any fun h => decide (h.1 = p ∧ 2 ≤ h.2)) = true then
        enterHold (emit s evThermalHold [p, twos 16 (governAt s.therm p)]) 8 (dieUnit p)
       else s))) ∧
  (∀ s p i v, s.mod.st ≠ .off → diePresent s p = true → i < 2 → exec (.thermalTrip p i v) s = .next (after s
      (if 1150 < v then
        let u := enterHold (emit s evThermalTrip [p, i]) 9 (dieUnit p)
        if u.mod.st = .hold then { u with mod := { u.mod with dpOff := true } } else u
       else s))) ∧
  (∀ s x k, ctrlRuns s = true → exec (.controlCycle x k) s = .next (after s
      (let t := if s.ehrok.dueAt = some s.now then s.now else s.now + (250000 - s.axle.value % 250000)
       let s0 := certExpire s t
       let s1 := suspectCheck (readSensors (elapse s0 (t - s0.now)) x)
       let s2 := capCauses (voltageLoop (dualCheck (stackHeat (thermalLoop s1))) x.margins)
       let s3 := readyCheck (settle (shedCheck (burnLoop (rampLoop (slowLoop s2) x.demand) x.demand)))
       writeCopy { s3 with ehrok := { s3.ehrok with lastCycle := s3.now, lastRun := s3.axle.value, dueAt := none } } k))) ∧
  (∀ s x k, ctrlRuns s = false → exec (.controlCycle x k) s = .next (after s s)) ∧
  (∀ s x, (readSensors s x).pwr.draw = x.draw ∧ (readSensors s x).pwr.volts = x.volts ∧ (readSensors s x).cool.flow = x.flow ∧
      (readSensors s x).cool.flowFault = (x.flowFault || decide (600 < x.flow) || (readSensors s x).cool.stuck) ∧
      (x.flow ≠ s.cool.flow → (readSensors s x).cool.stuck = false ∧ (readSensors s x).cool.flowAt = s.now) ∧
      ((readSensors s x).cool.stuck = true → (readSensors s x).cool.flowAt + 60000000000 ≤ s.now) ∧
      (readSensors s x).therm.sensors = x.sensors ∧ (readSensors s x).therm.model = x.model) ∧
  (∀ s, 2 ≤ s.ehrok.bState → s.ehrok.inB = false →
      lastLoops (writeCopy s true) = some (loopCopy s) ∧ (writeCopy s true).ehrok.lastCopy = s.now ∧
      lastLoops (writeCopy s false) = lastLoops s ∧ (writeCopy s false).ehrok.sync = 0) ∧
  (∀ s c, lastLoops s = some c → (loadCopy s).pwr.dieLim = c.dieLim ∧ (loadCopy s).pwr.ratio = c.ratio ∧ (loadCopy s).pwr.thermCap = c.thermCap ∧
      (loadCopy s).therm.hot = c.hot ∧ (loadCopy s).lonus.beatAt = c.beatAt ∧ (loadCopy s).nv = s.nv ∧ (loadCopy s).mod = s.mod) ∧
  (∀ s cause, exec (.ehrokTakeover cause) s = .next (after s (takeover s cause))) ∧
  (∀ s cause, s.mod.st ≠ .off → s.mod.bootRom = false → s.ehrok.inB = false → 2 ≤ s.ehrok.bState → s.ehrok.stopsA = [] →
      s.lonus.outstanding = [] →
      (takeover s cause).ehrok.inB = true ∧ (takeover s cause).ehrok.aState = 1 ∧ (takeover s cause).ehrok.bState = 3 ∧
      (takeover s cause).ehrok.takeovers = min (s.ehrok.takeovers + 1) 65535 ∧ (takeover s cause).ehrok.single = s.ehrok.single ∧
      (takeover s cause).ehrok.dueAt = some (takeover s cause).now) ∧
  (∀ s cause, s.mod.st ≠ .off → s.mod.bootRom = false → s.ehrok.inB = false → s.ehrok.bState < 2 → s.ehrok.aState = 3 →
      (takeover s cause).ehrok.aState = 1 ∧ (takeover s cause).ehrok.inB = false ∧ ctrlRuns (takeover s cause) = false) ∧
  (∀ s ok, s.mod.st ≠ .off → exec (.coreRestart false ok) s = .next (after s
      (if s.ehrok.aState ≠ 1 then s else if ok = false then enterHold { s with ehrok := { s.ehrok with aState := 0 } } 11 none
       else { s with ehrok := { s.ehrok with sync := 0, waitBack := 0, copyA := none, copyB := none, lastCopy := s.now,
                                             aState := if s.ehrok.inB = true then 2 else 3 } }))) ∧
  (∀ s ok, s.mod.st ≠ .off → exec (.coreRestart true ok) s = .next (after s
      (if s.ehrok.bState ≠ 1 then s else if ok = false then enterHold { s with ehrok := { s.ehrok with bState := 0 } } 11 none
       else { s with ehrok := { s.ehrok with sync := 0, waitBack := 0, copyA := none, copyB := none, lastCopy := s.now,
                                             bState := if s.ehrok.inB = true then 3 else 2 } }))) ∧
  (∀ s, exec .ehrokTakeback s = .next (after s
      (let w := elapse s (toBoundary s)
       let u := { w with ehrok := { s.ehrok with
          inB := false, takebacks := min (s.ehrok.takebacks + 1) 65535, sync := 0, waitBack := 0, sinceCopy := [], dueAt := some w.now } }
       if ctrlRuns s = true ∧ s.ehrok.inB = true ∧ s.ehrok.aState = 3 ∧ 16 ≤ s.ehrok.sync then
        if (∀ c ∈ s.lonus.outstanding, c.running = false) then emit u evTakeback []
        else if 64 ≤ s.ehrok.waitBack then emit (restartAll u) evTakeback [] else s
       else s))) ∧
  (∀ s, s.mod.st ≠ .off → s.mod.bootRom = false → exec .hardwareWatchdog s = .next (after s
      (let u := enterHold (elapse s (s.ehrok.lastCycle + 5000000000 - s.now)) 11 none
       { u with ehrok := { u.ehrok with inB := false, aState := 1, bState := 1, sync := 0, waitBack := 0, lastCycle := u.now, dueAt := none } })))

/-- STATE_SET as 01's table of module transitions gives it: Standby to Setup cold, Ready and Rest to Setup warm, Ready to Rest with every Up port
going down and the overflow entries gone (the command stays outstanding until the transition ends), Rest and a cool enough Hold to Standby, Run
to Drain with every Active block pausing at its next boundary; any other pair, and any target during a transition or from a command that arrived
during one, is BADSTATE. STEADY_SET stores its value unless a loaded harness is fast, and the clocks follow; REPAIR_MARK appends a unit not yet
marked, noted as late in Setup (01 R15, R17, 10 R266, 11 R277, 16 R411, R415, 18 R442). The late STATE_SET is log 12's, BADSTATE for a pair outside
the table and the ports that leave Up log 20's, and which Hold causes 16 R415 covers log 14's DEDUCED point. -/
def Obligations.StateCommandsTakeEffect : Prop :=
  (∀ s tag n, Runs s tag 0x0201 [(2, n)] → exec (.stateSet tag n) s = .next (ends s tag 0x0201 (stateSet tag n s))) ∧
  (∀ s tag, s.mod.trans = none → cameLate s tag = false → s.mod.st = .standby → stateSet tag 3 s =
      if s.mod.strapBad = true ∨ s.cool.loop0 = 1 ∨ s.cool.loop1 = 1 ∨ (s.cool.loop0 = 2 ∧ s.cool.loop1 = 2) then (s, some (rep .badState))
      else ({ s with mod := { s.mod with trans := some { target := .setup, warm := false, tag := tag } } }, none)) ∧
  (∀ s tag, s.mod.trans = none → cameLate s tag = false → s.mod.st = .ready ∨ s.mod.st = .rest → stateSet tag 3 s =
      ({ s with mod := { s.mod with trans := some { target := .setup, warm := true, tag := tag } } }, none)) ∧
  (∀ s tag, s.mod.trans = none → cameLate s tag = false → s.mod.st = .ready → stateSet tag 2 s =
      (let u := ((allPorts s).filter fun p => decide ((portOf s p).stage = .up)).foldl (fun s p => portDown s p 7)
         (ovfEase { s with ports := Tab.mapV {} s.ports fun q => { q with ovfList := [] } })
       ({ u with mod := { u.mod with trans := some { target := .rest, warm := false, tag := tag } } }, none))) ∧
  (∀ s tag, s.mod.trans = none → cameLate s tag = false → s.mod.st = .rest → stateSet tag 1 s = (enterStandby s, some (rep .ok))) ∧
  (∀ s tag, s.mod.trans = none → cameLate s tag = false → s.mod.st = .hold → stateSet tag 1 s =
      if supervised s.mod.cause = false ∨ coolEnough s = true then (enterStandby s, some (rep .ok)) else (s, some (rep .badState))) ∧
  (∀ s, (enterStandby s).mod.st = .standby ∧ (enterStandby s).blocks = [] ∧ (enterStandby s).harn = [] ∧ (enterStandby s).img = [] ∧
      (enterStandby s).lard.mem = [] ∧ (enterStandby s).winEff = [] ∧ (enterStandby s).epoch = {} ∧ (enterStandby s).axle.locked = false ∧
      (s.mod.refBad = true → (enterStandby s).lonus.lineUp = false)) ∧
  (∀ s tag, s.mod.trans = none → cameLate s tag = false → s.mod.st = .run → stateSet tag 6 s =
      (settle { s with mod := { s.mod with st := .drain, drainAt := s.now },
                       blocks := Tab.mapV {} s.blocks fun b => if b.st = .active then { b with pause := true } else b }, some (rep .ok))) ∧
  (∀ s tag n, s.mod.trans ≠ none ∨ cameLate s tag = true ∨
      ¬ ((s.mod.st = .standby ∧ n = 3) ∨ (s.mod.st = .ready ∧ (n = 3 ∨ n = 2)) ∨ (s.mod.st = .rest ∧ (n = 3 ∨ n = 1)) ∨
        (s.mod.st = .hold ∧ n = 1) ∨ (s.mod.st = .run ∧ n = 6)) → stateSet tag n s = (s, some (rep .badState))) ∧
  (∀ s tag v, Runs s tag 0x0210 [(2, v)] → exec (.steadySet tag v) s = .next (
      if 1 < v then answered s s tag 0x0210 (rep .badParam)
      else if (s.harn.any fun h => h.2.loaded && harnFast s h.1) = true then answered s s tag 0x0210 (rep .badState)
      else answered s ((List.range 4).foldl stretchSettle { s with nv := { s.nv with steady := decide (v = 1) } }) tag 0x0210 (rep .ok))) ∧
  (∀ s tag u, Runs s tag 0x0230 [(2, u.kind), (4, u.unit)] → exec (.repairMark tag u) s = .next (
      if unitOk s u = false then answered s s tag 0x0230 (rep .badParam)
      else if u ∈ s.fixed.factoryMap ∨ u ∈ s.nv.fieldMap.map FieldMark.unit then answered s s tag 0x0230 (rep .ok)
      else if 256 ≤ s.nv.fieldMap.length then answered s s tag 0x0230 (rep .noSpace)
      else answered s { s with nv := { s.nv with fieldMap := s.nv.fieldMap ++ [{ unit := u, source := 1 }] },
                               mod := if s.mod.st = .setup then { s.mod with late := s.mod.late ++ [u] } else s.mod } tag 0x0230 (rep .ok)))

/-- REG_WRITE applies its words in address order and stops at the first failure, answering how many were applied; each register-write row is a
REG_WRITE of one word at the address that its register's map gives; COMMIT applies every held window word together, or none where the windows that
would result do not satisfy 02 R33 (14 R362, 02 R33, R36, 18 R448). -/
def Obligations.RegisterWritesAreAppliedInOrder : Prop :=
  (∀ s tag a n ws, Runs s tag 0x0221 ([(4, a), (2, n)] ++ ws.map fun w => (4, w.toNat)) →
      exec (.regWrite tag a n ws) s = .next (
        if a < 2 ^ 32 ∧ a % 4 = 0 ∧ 1 ≤ n ∧ n ≤ 256 ∧ ws.length = n then
          answered s (regWrites s a ws 0).2.2 tag 0x0221 ((regWrites s a ws 0).1, leBytes 2 (regWrites s a ws 0).2.1, [])
        else answered s s tag 0x0221 (rep .badParam))) ∧
  (∀ s a w ws n, regWrites s a (w :: ws) n =
      match regWrite s (a + 4 * n) w.toNat with | .error e => (e, n, s) | .ok t => regWrites t a ws (n + 1)) ∧
  (∀ s a n, regWrites s a [] n = (.ok, n, s)) ∧
  (∀ s tag (w : Word) a k,
      let out := fun addr : Nat => match regWrite s addr w.toNat with
        | .ok t => answered s t tag 0x0221 (.ok, [1, 0], [])
        | .error e => answered s s tag 0x0221 (e, [0, 0], [])
      let runs := fun addr : Nat => Runs s tag 0x0221 [(4, addr), (2, 1), (4, w.toNat)]
      (runs 0x50000010 → exec (.stgE2eCtlWrite tag w) s = .next (out 0x50000010)) ∧
      (k < 1024 → runs (0x50034000 + 4 * k) → exec (.stgGalBindWrite tag k w) s = .next (out (0x50034000 + 4 * k))) ∧
      (k < 128 → runs (0x50006008 + 0x10 * k) → exec (.stgJblkStepsrcWrite tag k w) s = .next (out (0x50006008 + 0x10 * k))) ∧
      (k < 4 → runs (0x30007000 + 0x100000 * k) →
        exec (.hubPortWidthWrite tag k w) s = .next (out (0x30007000 + 0x100000 * k))) ∧
      (runs 0x40000110 → exec (.modDrainCtlWrite tag w) s = .next (out 0x40000110)) ∧
      (runs 0x40000200 → exec (.modLardLayoutWrite tag false w) s = .next (out 0x40000200)) ∧
      (runs 0x40000204 → exec (.modLardLayoutWrite tag true w) s = .next (out 0x40000204)) ∧
      (runs a → exec (.tableEntryWrite tag a w) s = .next (
        if a < 2 ^ 32 ∧ a % 4 = 0 then out a else answered s s tag 0x0221 (rep .badParam)))) ∧
  (∀ s tag, Runs s tag 0x0222 → exec (.commit tag) s = .next (
      if winAllOk s = true then answered s (winSettle { s with
          held := [],
          winPend := (s.winPend.filter fun p => !((List.range 64).filter (winHeld s)).contains p.w) ++
            ((List.range 64).filter (winHeld s)).map fun k => { w := k, win := winProposed s k, waitFor := winWaits s k } })
        tag 0x0222 (rep .ok)
      else answered s s tag 0x0222 (rep .badParam)))

/-- A write of STG_E2E_CTL whose fields are in their ranges stores its writable bits and nothing else; one field outside its range makes it
BADPARAM and changes nothing. Every write of an address that no map holds fails with the status of its address, and a write of a read-only
register above the dies is DENIED (03 R74, 14 R362). -/
def Obligations.EndToEndControlWrite : Prop :=
  (∀ s w, 4 ≤ bits w 0 8 → bits w 0 8 ≤ 64 → 1 ≤ bits w 8 4 → bits w 8 4 ≤ 15 → 1 ≤ bits w 16 5 → bits w 16 5 ≤ 31 →
      1 ≤ bits w 24 8 → bits w 24 8 ≤ 40 → w < 2 ^ 32 → w &&& 0xFF1F0FFF = w →
      regWrite s 0x50000010 w = .ok { s with regs := Tab.set none s.regs 0x50000010 (some (BitVec.ofNat 32 w)) }) ∧
  (∀ s tag w, Runs s tag 0x0221 [(4, 0x50000010), (2, 1), (4, w.toNat)] → w.toNat &&& 0xFF1F0FFF = w.toNat →
      bits w.toNat 0 8 < 4 ∨ 64 < bits w.toNat 0 8 ∨ bits w.toNat 8 4 < 1 ∨ bits w.toNat 16 5 < 1 ∨ bits w.toNat 24 8 < 1 ∨
        40 < bits w.toNat 24 8 →
      exec (.stgE2eCtlWrite tag w) s = .next (answered s s tag 0x0221 (.badParam, [0, 0], []))) ∧
  (∀ s a w e, regOf a = .error e → regWrite s a w = .error e) ∧
  (∀ s a w r, regOf a = .ok r → regMask r = 0 → dieLevel a = false → regWrite s a w = .error .denied)

/-- Power, reset and reference clock: with its inputs good the module goes from Off to Standby on the straps and seal loops sampled; loss of
input, a protective stop and a pin reset bring it to Off keeping only what 18 R444 keeps over a power cycle, the stop's cause stored before and
an overtaken STATE_SET answered; REFCLK absent takes the line down in Standby and Rest until it returns, lets a boot wait, and sends a module with its
data plane up to Hold with cause 5 (01 R19, 16 R397, R398, 18 R435, R444, R445, 19 R469). The FAULTED response that leaves before the rails fall and
the first strap sample latched are log 20's choices; that its own records of counters and frames stay over Off is logs 1, 2 and 6. -/
def Obligations.PowerResetAndClockTakeEffect : Prop :=
  (∀ s i, exec (.powerUp i) s = .next (after s
      (if s.mod.st ≠ .off ∨ s.mod.resetLow = true ∨ s.mod.bootWait ≠ none then s
       else if i.refclk = true then boot { s with mod := { s.mod with refBad := false } } i
       else { s with mod := { s.mod with refBad := true, bootWait := some i } }))) ∧
  (∀ s i, (boot s i).mod.st = .standby ∧ (boot s i).mod.plane = (i.straps.headD (0, 0)).1 % 16 ∧
      (boot s i).mod.rackPos = (i.straps.headD (0, 0)).2 % 64 ∧
      ((boot s i).mod.strapBad = true ↔ ∃ x ∈ i.straps, x ≠ i.straps.headD (0, 0)) ∧
      (boot s i).mgmt.sealA = i.sealA ∧ (boot s i).mgmt.sealB = i.sealB ∧ (boot s i).lonus.beatAt = s.now ∧
      (boot s i).nv.cycles = (s.nv.cycles + 1) % 2 ^ 32) ∧
  (∀ s stop, let u := lastResponse s
      goOff s stop = { State.reset with
        now := u.now, freeCtr := u.freeCtr, flightId := u.flightId, fixed := u.fixed, wire := u.wire,
        nv := { u.nv with stop := match stop with | some r => some r | none => u.nv.stop },
        lonus := { sent := u.lonus.sent, tx := u.lonus.tx }, i3c := { out := u.i3c.out },
        mod := { resetLow := u.mod.resetLow, refBad := u.mod.refBad } }) ∧
  (∀ s, s.mod.trans = none → lastResponse s = s) ∧
  (∀ s t c, s.mod.trans = some t → cmdOf s t.tag = some c → c.op = 0x0201 → s.lonus.lineUp = true → s.lonus.opened = true →
      c.session = s.lonus.session → (∀ r ∈ s.lonus.respQ, r.tag ≠ t.tag) → ∃ x, (lastResponse s).lonus.sent = s.lonus.sent ++ [x] ∧
        x.ftype.toNat = 2 ∧ x.tag.toNat = t.tag % 65536 ∧ x.status.toNat = statusCode .faulted) ∧
  (∀ s, exec .lossOfInput s = .next (after s (goOff s none))) ∧
  (∀ s v, exec (.protectiveStop v) s = .next (after s (if railsGood s = false then s
      else goOff s (some { cause := if v then 2 else 1, axle := s.axle.value, state := stateCode s.mod.st })))) ∧
  (∀ s, exec .pinReset s = .next (after s
      (let u := goOff s (if railsGood s = false then none else some { cause := 3, axle := s.axle.value, state := stateCode s.mod.st })
       { u with mod := { u.mod with resetLow := true } }))) ∧
  (∀ s r i, exec (.resetNRelease r i) s = .next (after s
      (let u := { s with mod := { s.mod with resetLow := false } }
       if s.mod.resetLow = false then s else if r then powerUp u i else u))) ∧
  (∀ s, exec .refclkAbsent s = .next (after s
      (let u := { s with mod := { s.mod with refBad := true } }
       if s.mod.st = .standby ∨ s.mod.st = .rest then
        { lonusFill u with lonus := { (lonusFill u).lonus with refCut := s.lonus.refCut || s.lonus.lineUp, lineUp := false } }
       else if s.mod.st = .off ∨ s.mod.st = .hold then u else enterHold u 5 none))) ∧
  (∀ s, exec .refclkRestored s = .next (after s
      (let u := { s with mod := { s.mod with refBad := false } }
       if s.mod.st = .off then (match s.mod.bootWait with | some i => boot u i | none => u)
       else { lonusFill u with lonus := { (lonusFill u).lonus with lineUp := s.lonus.lineUp || s.lonus.refCut, refCut := false } })))

/-- Shed, cap and Hold. A new shed cause engages the shed with SHED_ENGAGED, drops the burn load and sets PWR_ALERT_N; a cause already present changes nothing; the die
limits in force are then at most the shed's. With no cause left and the settings at or below the shed's the shed is released with SHED_RELEASED.
The cap in force is the lowest of the sustained power, the manager's and the tray's cap where set, the orphan cap while orphaned, and the thermal
cap, and it is one of these (16 R399, R401 to R403, R406). Which source is named on equal caps, the ramp's share of a limit and the target that
stands with no cause left are log 14's points.
Entry to Hold from Setup, Ready, Run, Drain or Rest: the state, cause and unit are those of the fault, the registers freeze, every port is
disabled with its transmitter idle, nothing is held for COMMIT and no replay runs; the larder loses its contents; every loaded block faults with
BLOCK_HOLD_FAULT, and HOLD_ENTER with the cause and the unit comes last; in Off, Standby and Hold a module fault changes nothing. HOLD_ENTER with cause 1 to 12 is that entry; no other cause has a code (01 R19, R20, 18 R449 to R451, R457). -/
def Obligations.HoldEntryTakesEffect : Prop :=
  (∀ s c, c ∈ s.pwr.causes → addCause s c = s) ∧
  (∀ s c, c ∉ s.pwr.causes → (addCause s c).pwr.shed = true ∧ (addCause s c).pwr.alert = true ∧ (addCause s c).pwr.burn = false ∧
      (∀ x, x ∈ (addCause s c).pwr.causes ↔ x = c ∨ x ∈ s.pwr.causes) ∧
      (∃ u, u.lonus = s.lonus ∧ u.axle = s.axle ∧ u.pwr.causes = (addCause s c).pwr.causes ∧
        addCause s c = emit u evShedEngaged [c, causeTarget u c, s.pwr.draw]) ∧
      (addCause s c).pwr.effLim ≤ max 1 (16 * shedTarget (addCause s c) / sustained s)) ∧
  (∀ s c, c ∉ s.pwr.causes → s.lonus.events.length < 4096 → ∃ t, (addCause s c).lonus.events = s.lonus.events ++
      [{ code := 0x0940, seq := s.lonus.evSeq, block := 0xFFFF, items := [c, t, s.pwr.draw], datum := [], axle := s.axle.value }]) ∧
  (∀ s, s.pwr.shed = true → s.pwr.causes = [] → s.pwr.dieLim ≤ shedLimit s → s.pwr.ratio ≤ max 4 (shedLimit s) →
      (shedCheck s).pwr.shed = false) ∧
  (∀ s, s.pwr.shed = true → s.pwr.causes ≠ [] ∨ shedLimit s < s.pwr.dieLim ∨ max 4 (shedLimit s) < s.pwr.ratio →
      (shedCheck s).pwr.shed = true ∧ (shedCheck s).pwr.alert = s.pwr.alert) ∧
  (∀ s c, c ∉ (dropCause s c).pwr.causes) ∧
  (∀ s, (capNow s).1 ≤ sustained s ∧ (s.pwr.mgrCap ≠ 0 → (capNow s).1 ≤ s.pwr.mgrCap) ∧ (s.pwr.trayCap ≠ 0 → (capNow s).1 ≤ s.pwr.trayCap) ∧
      (s.lonus.orphan = true → (capNow s).1 ≤ s.pwr.orphanPct * sustained s / 100) ∧ (capNow s).1 ≤ s.pwr.thermCap) ∧
  (∀ s, capNow s = (sustained s, 0) ∨ (s.pwr.mgrCap ≠ 0 ∧ capNow s = (s.pwr.mgrCap, 1)) ∨ (s.pwr.trayCap ≠ 0 ∧ capNow s = (s.pwr.trayCap, 2)) ∨
      (s.lonus.orphan = true ∧ capNow s = (s.pwr.orphanPct * sustained s / 100, 3)) ∨ capNow s = (min s.pwr.thermCap (sustained s), 4)) ∧
  (∀ s c u, exec (.holdEnter c u) s = .next (after s (if 1 ≤ c ∧ c ≤ 12 then enterHold s c u else s))) ∧
  (∀ s c u, s.mod.st = .off ∨ s.mod.st = .standby ∨ s.mod.st = .hold → enterHold s c u = s) ∧
  (∀ s c u, s.mod.st ≠ .off → s.mod.st ≠ .standby → s.mod.st ≠ .hold →
      (enterHold s c u).mod.st = .hold ∧ (enterHold s c u).mod.cause = c ∧ (enterHold s c u).mod.unitValid = u.isSome ∧
      (enterHold s c u).mod.unitKind = (u.map RepairUnit.kind).getD 0 ∧ (enterHold s c u).mod.unit = (u.map RepairUnit.unit).getD 0 ∧
      (∀ p ∈ allPorts s, (portOf (enterHold s c u) p).stage = .disabled ∧ (portOf (enterHold s c u) p).txIdle = true) ∧
      (enterHold s c u).mod.frozen = true ∧ (enterHold s c u).mod.dpOff = decide (c = 7 ∨ c = 9) ∧ (enterHold s c u).mod.trans = none ∧
      (enterHold s c u).held = [] ∧ (enterHold s c u).replay.running = false ∧ (enterHold s c u).lard.mem = [] ∧
      (enterHold s c u).telem.smpOn = false ∧ (enterHold s c u).nv = s.nv) ∧
  (∀ s c u, s.mod.st ≠ .off → s.mod.st ≠ .standby → s.mod.st ≠ .hold → ∃ v, v.blocks = s.blocks ∧
      enterHold s c u = emit ((loadedBlocks s).foldl (fun s b =>
          emitB (winRelease (updBlock s b fun x => { x with st := .faulted, close := none, pause := false }) b) b 0x0245 [c]) v)
        0x0240 [c, (u.map RepairUnit.kind).getD 0, (u.map RepairUnit.unit).getD 0]) ∧
  (∀ s c u b, s.mod.st ≠ .off → s.mod.st ≠ .standby → s.mod.st ≠ .hold → (blockOf (enterHold s c u) b).st ≠ .active ∧
      (blockOf (enterHold s c u) b).st ≠ .paused ∧ (blockOf (enterHold s c u) b).st ≠ .loaded)

/-- The transitions' own rows: SETUP_ENTRY after a STATE_SET to Setup enters Setup with fresh ports and hub dies, or Hold with cause 12 where the
image check failed, 5 without REFCLK, 10 on a leak and 6 on both leak loops faulted; SELF_TEST_COMPLETE in Setup records the units that newly failed, loses the memories that hold no image, maps the spares
and starts the hitch of every port, or, where a group is short of spares, a die or an Ehrok core failed, goes to Hold with cause 1 and that unit at
the next boundary; REST_ENTRY enters Rest; a drain's limit faults every block still Active (01 R25, 16 R411, 18 R438 to R441, R447, R448, R453,
R455). That ports start Detect at SELF_TEST_COMPLETE, the fresh hub dies and ports and how MOD_HOLD_CAUSE names a unit are log 20's; the waits for
the drain limit and the boundary are log 3's. -/
def Obligations.TransitionRowsTakeEffect : Prop :=
  (∀ s ok, exec (.setupEntry ok) s = .next (after s (match s.mod.trans with
      | some t => if t.target = .setup then enterSetup s t ok else s
      | none => s))) ∧
  (∀ s t, s.mod.refBad = false → s.cool.loop0 ≠ 1 → s.cool.loop1 ≠ 1 → ¬ (s.cool.loop0 = 2 ∧ s.cool.loop1 = 2) → (enterSetup s t true).mod.st = .setup ∧ (enterSetup s t true).mod.trans = none ∧
      (enterSetup s t true).mod.start = {} ∧ (enterSetup s t true).mod.frozen = false ∧ (enterSetup s t true).ports = [] ∧
      (enterSetup s t true).hub = [] ∧ (enterSetup s t true).lanes = [] ∧ (enterSetup s t true).coll = {} ∧
      (t.warm = false → (enterSetup s t true).epoch = {}) ∧ (enterSetup s t true).nv = s.nv) ∧
  (∀ s t, enterSetup s t false =
      enterHold { s with mod := { s.mod with start := {}, marked := [], late := [], warm := t.warm, frozen := false, dpOff := false, st := .setup } } 12 none) ∧
  (∀ s t, s.mod.refBad = true ∨ s.cool.loop0 = 1 ∨ s.cool.loop1 = 1 ∨ (s.cool.loop0 = 2 ∧ s.cool.loop1 = 2) →
      (enterSetup s t true).mod.st = .hold ∧ (enterSetup s t true).mod.cause =
        if s.mod.refBad = true then 5 else if s.cool.loop0 = 1 ∨ s.cool.loop1 = 1 then 10 else 6) ∧
  (∀ s r, exec (.selfTestComplete r) s = .next (after s
      (if s.mod.st ≠ .setup ∨ s.mod.start.checkDone = true then s
       else
        let u := r.lostScratch.foldl scratchLost (mapSpares (r.failed.foldl repairFound (testMem s)))
        let v := if r.ehrokOk = true ∧ u.ehrok.single = true then { u with ehrok := { u.ehrok with
          single := false, aState := max 1 u.ehrok.aState, bState := max 1 u.ehrok.bState } } else u
        let w := { v with mod := { v.mod with start := { v.mod.start with checkDone := true, checkPass := (testFails v r).isNone } } }
        match testFails v r with
        | none => (allPorts w).foldl startHitch w
        | some x => enterHold (elapse w (toBoundary w)) 1 (some x)))) ∧
  (∀ s r, (testFails s r = none ↔ shortUnit s = none ∧ r.badDie = none ∧ r.ehrokOk = true) ∧
      (∀ u, shortUnit s = some u → testFails s r = some (holdUnit u)) ∧
      (∀ d, shortUnit s = none → r.badDie = some d → testFails s r = some ⟨3, d⟩)) ∧
  (∀ s, exec .restEntry s = .next (after s (match s.mod.trans with
      | some t => if t.target = .rest then enterRest s t else s
      | none => s))) ∧
  (∀ s t, (enterRest s t).mod.st = .rest ∧ (enterRest s t).mod.trans = none ∧ (enterRest s t).ports = [] ∧ (enterRest s t).hub = [] ∧
      (enterRest s t).thr = [] ∧ (enterRest s t).telem = {}) ∧
  (∀ s, exec .drainLimit s = .next (after s
      (if s.mod.st = .drain then
        let u := elapse s (if s.mod.drainAt + drainMs s * 1000000 < s.now then toBoundary s
          else s.mod.drainAt + drainMs s * 1000000 - s.now)
        (loadedBlocks u).foldl (fun v b => if (blockOf v b).st = .active then faultBlock v b evDrainLimit [drainMs v] else v) u
       else s)))

/-- The job-block commands: JOB_LOAD that passes 02 R42's checks defines its block, and each failed check gives its status; JOB_ACTIVATE takes a
Loaded block to Active, and the module from Ready to Run; JOB_PAUSE leaves a pause pending; JOB_RESUME takes a Paused block to Active;
JOB_UNLOAD undefines a block that is not Active, but for the counters that are cleared at load; JOB_STEP_CLOSE leaves a close request for v, the
higher of two (01 R22, 02 R42, R51, 11 R272, R294, 16 R404). BADSTATE of JOB_ACTIVATE and JOB_RESUME during any transition is log 20's, and BADPARAM
for v at or above 2^48 before the block is looked up and NOTFOUND for a block above 127 are log 26's DEDUCED points. -/
def Obligations.JobCommandsTakeEffect : Prop :=
  (∀ s tag p, Runs s tag 0x0401 (jobItems p) → exec (.jobLoad tag p) s = .next (
      if jobRanges p = false then answered s s tag 0x0401 (rep .badParam)
      else if (blockOf s p.block).st ≠ .unloaded then answered s s tag 0x0401 (rep .badState)
      else if boxMeets s (blockFor p) = true ∨ slotsMeet s (blockFor p) = true then answered s s tag 0x0401 (rep .badParam)
      else if (membersOf (blockFor p)).all (memberReady s) = false then answered s s tag 0x0401 (rep .notFound)
      else answered s (loadBlock s p.block (blockFor p)) tag 0x0401 (rep .ok))) ∧
  (∀ s b x, blockOf (loadBlock s b x) b = x ∧ ∀ k, k ≠ b → blockOf (loadBlock s b x) k = blockOf s k) ∧
  (∀ s p, BlocksApart s → jobRanges p = true → (blockOf s p.block).st = .unloaded → boxMeets s (blockFor p) = false →
      slotsMeet s (blockFor p) = false → BlocksApart (loadBlock s p.block (blockFor p))) ∧
  (∀ s b, BlocksApart s → (blockOf s b).st ≠ .unloaded → BlocksApart (activate s b)) ∧
  (∀ s b, slotsMeet s b = true ↔ ∃ k ∈ loadedBlocks s, ∃ n, b.slotBase ≤ n ∧ n < b.slotBase + b.slotCnt ∧
      (blockOf s k).slotBase ≤ n ∧ n < (blockOf s k).slotBase + (blockOf s k).slotCnt) ∧
  (∀ s tag b, Runs s tag 0x0402 [(2, b)] → exec (.jobActivate tag b) s = .next (
      if s.mod.trans ≠ none then answered s s tag 0x0402 (rep .badState)
      else if (blockOf s b).st = .unloaded then answered s s tag 0x0402 (rep .notFound)
      else if (blockOf s b).st = .loaded ∧ 900 ≤ (capNow s).1 then answered s (activate s b) tag 0x0402 (rep .ok)
      else answered s s tag 0x0402 (rep .badState))) ∧
  (∀ s tag b, Runs s tag 0x0404 [(2, b)] → exec (.jobResume tag b) s = .next (
      if s.mod.trans ≠ none then answered s s tag 0x0404 (rep .badState)
      else if (blockOf s b).st = .unloaded then answered s s tag 0x0404 (rep .notFound)
      else if (blockOf s b).st = .paused ∧ 900 ≤ (capNow s).1 then answered s (activate s b) tag 0x0404 (rep .ok)
      else answered s s tag 0x0404 (rep .badState))) ∧
  (∀ s b, (blockOf (activate s b) b).st = .active ∧ (blockOf (activate s b) b).pause = false ∧
      (∀ k, k ≠ b → blockOf (activate s b) k = blockOf s k) ∧
      (activate s b).mod.st = (if s.mod.st = .ready then .run else s.mod.st)) ∧
  (∀ s tag b, Runs s tag 0x0403 [(2, b)] → exec (.jobPause tag b) s = .next (
      if (blockOf s b).st = .unloaded then answered s s tag 0x0403 (rep .notFound)
      else if (blockOf s b).st = .active then answered s (updBlock s b fun x => { x with pause := true }) tag 0x0403 (rep .ok)
      else answered s s tag 0x0403 (rep .badState))) ∧
  (∀ s tag b, Runs s tag 0x0405 [(2, b)] → exec (.jobUnload tag b) s = .next (
      if (blockOf s b).st = .unloaded then answered s s tag 0x0405 (rep .notFound)
      else if (blockOf s b).st = .active then answered s s tag 0x0405 (rep .badState)
      else answered s (unloadBlock s b) tag 0x0405 (rep .ok))) ∧
  (∀ s b, ∃ r c k, blockOf (unloadBlock s b) b = { refuse := r, choice := c, skew := k }) ∧
  (∀ s tag b v, Runs s tag 0x0420 [(2, b), (8, v)] → exec (.jobStepClose tag b v) s = .next (
      if 2 ^ 48 ≤ v then answered s s tag 0x0420 (rep .badParam)
      else if (blockOf s b).st = .unloaded then answered s s tag 0x0420 (rep .notFound)
      else if (blockOf s b).st ≠ .active then answered s s tag 0x0420 (rep .badState)
      else if v < (blockOf s b).step ∨ bit (stepSrc s b) 0 = true then answered s s tag 0x0420 (rep .badParam)
      else answered s (updBlock s b fun x => { x with close := some (match x.close with | some u => max u v | none => v) })
        tag 0x0420 (rep .ok)))

/-- The larder's rows: LARDER_WRITE stores its bytes and every other byte stays, unless it is out of range or meets a range of an Active block; the
part at the front of a die's queue is performed: a write part stores its slice, a fill part its pattern, a read part returns the bytes of its span,
an atomic part returns the old value and stores the new one, VADD and SCATTER_ADD parts and the floating-point atomics add to their elements,
rounded once, or under STEADY through their exact cells, a VADD_EXACT part adds to its exact accumulator or faults its block, COPY and PAGE_GATHER
parts read into the request's buffer and store from it; a part that reads a failed unit fails its request, one that must wait stays; a refresh
slot counts one stall per waiting access, and each 512th slot scrubs a unit, where a failed one gives LARDER_UE (10 R248, R252 to R260, R262 to
R265, 14). The split into parts, where a part waits and where a new error stands are log 13's choices. -/
def Obligations.LarderRowsTakeEffect : Prop :=
  (∀ s tag a bs, Runs s tag 0x0502 [(8, a)] → exec (.larderWrite tag a bs) s = .next (
      let d := bulkOf s tag bs
      if d = [] ∨ ringsBase s < a + d.length then answered s s tag 0x0502 (rep .badParam)
      else if (∃ g ∈ activeSpans s, a < g.1 + g.2 ∧ g.1 < a + d.length) then answered s s tag 0x0502 (rep .denied)
      else answered s (lardStore s a d) tag 0x0502 (rep .ok))) ∧
  (∀ s a bs i, (h : i < bs.length) → Mem.byte (lardStore s a bs).lard.mem (a + i) = bs[i]) ∧
  (∀ s a bs x, x < a ∨ a + bs.length ≤ x → Mem.byte (lardStore s a bs).lard.mem x = Mem.byte s.lard.mem x) ∧
  (∀ s ld e c, ld < ldCount s → exec (.larderRequestPart ld e c) s = .next (after s
      (if dpRuns s = true then
        match (ldOf s ld).queue with
        | [] => s
        | p :: ps => match s.lard.reqs.find? fun r => decide (r.id = p.req) with
          | none => updLd s ld fun d => { d with queue := ps }
          | some r =>
            if partWaits s ld r p then s
            else match partFails s r p e with
              | some u => reqFail (ueFail (partPop s ld p) u r.block) r
              | none => partRun (if e = .corrected ∧ partReads r p = true then ceCount (partPop s ld p) p.addr else partPop s ld p) ld r p c
       else s))) ∧
  (∀ s ld p, p.also = none → partPop s ld p = updLd s ld fun d => { d with queue := d.queue.tail }) ∧
  (∀ s ld r p c, r.kind = .write → partRun s ld r p c = partDone (lardStore s p.addr (slice r.data p.off p.len)) r.id id) ∧
  (∀ s ld r p c, r.kind = .fill → partRun s ld r p c =
      partDone (lardStore s p.addr ((List.range p.len).map fun i => (r.data[(p.off + i) % 8]?).getD 0)) r.id id) ∧
  (∀ s ld r p c, r.kind = .read → partRun s ld r p c =
      partDone s r.id fun x => { x with data := putData x.data p.off (lardRead s p.addr p.len) }) ∧
  (∀ s ld r p k c w, r.kind = .atomic c w → fAddFmt c = none → partRun s ld r p k =
      let old := ofLe (lardRead s p.addr p.len)
      partDone (lardStore s p.addr (leBytes p.len
        (atomicInt c (if w then 64 else 32) old (getLe r.data 0 p.len) (getLe r.data 8 p.len)))) r.id
        fun x => { x with data := leBytes p.len old }) ∧
  (∀ s ld r p k c w f, r.kind = .atomic c w → fAddFmt c = some f → partRun s ld r p k =
      partDone (partChoice (addAt s f p.addr (getLe r.data 0 p.len)) ld r.block f) r.id
        fun x => { x with data := leBytes p.len (ofLe (lardRead s p.addr p.len)) }) ∧
  (∀ s ld r p k f, r.kind = .vadd f → partRun s ld r p k =
      let n := elemBits f / 8
      partDone (partChoice ((List.range (p.len / max 1 n)).foldl
        (fun s i => addAt s f (p.addr + i * n) (getLe r.data (p.off + i * n) n)) s) ld r.block f) r.id id) ∧
  (∀ s ld r p k f, r.kind = .scatterAdd f → partRun s ld r p k =
      partDone (partChoice (addAt s f p.addr (getLe r.data (p.off + 4) 4)) ld r.block f) r.id id) ∧
  (∀ s ld r p k f, r.kind = .vaddExact f → partRun s ld r p k =
      let a := r.addr + 40 * r.idx
      let v := ((decodeChunk f (bits r.pkt.hdr.chunk.toNat 0 13) r.data)[r.idx]?).getD .negZero
      match accOf (ofLe (lardRead s a 40)) with
      | some old => if residueMiss k r.idx old v then opFault s r 2 r.pkt.hdr.addr.toNat r.idx
          else partDone (lardStore s a (accBytes (ladleSum k r.idx old v))) r.id id
      | none => opFault s r 2 r.pkt.hdr.addr.toNat r.idx) ∧
  (∀ s ld r p k, (∃ d, r.kind = .copy d ∧ r.phase = 0) ∨ (r.kind = .pageGather ∧ r.phase < 2) → partRun s ld r p k =
      partDone s r.id fun x => { x with buf := putData x.buf p.off (lardRead s p.addr p.len) }) ∧
  (∀ s ld r p k, (∃ d, r.kind = .copy d ∧ r.phase ≠ 0) ∨ (r.kind = .pageGather ∧ 2 ≤ r.phase) → partRun s ld r p k =
      partDone (lardStore s p.addr (slice r.buf p.off p.len)) r.id id) ∧
  (∀ s f a v i, i < elemBits f / 8 →
      let n := elemBits f / 8
      let old := ofLe (lardRead s a n)
      let cell := match Tab.get none s.lard.cells a with
        | some c => if c.fmt = f then c.acc else convert f old 127
        | none => convert f old 127
      let sum := if isIntFmt f then (old + v) % 2 ^ elemBits f
        else roundOut (accAdd (if steady s then cell else convert f old 127) (convert f v 127)) f none
      some (Mem.byte (addAt s f a v).lard.mem (a + i)) = (leBytes n sum)[i]?) ∧
  (∀ s f a v x, x < a ∨ a + elemBits f / 8 ≤ x → Mem.byte (addAt s f a v).lard.mem x = Mem.byte s.lard.mem x) ∧
  (∀ s ld b f, (partChoice s ld b f).lard.mem = s.lard.mem) ∧
  (∀ s st pc w a e, st < stackCount s → pc < 32 → exec (.refreshSlot st pc w a e) s = .next (after s
      (if dpPowered s = true then
        let n := (Tab.get 0 s.lard.slots (32 * st + pc) + 1) % 512
        let u := updLd s (st / 2) fun d => { d with stalls := satAdd 32 d.stalls w }
        let v := { u with lard := { u.lard with slots := Tab.set 0 s.lard.slots (32 * st + pc) n } }
        if n = 0 ∧ lardStack v a = st ∧ lardPc v a = pc then
          if e = .uncorrectable ∨ a / 32 * 32 ∈ s.lard.badUnits then
            emit (ueCount v (a / 32 * 32)) evLarderUe (ueItems v (a / 32 * 32))
          else if e = .corrected then ceCount v a else v
        else v
       else s)))

/-- Telemetry: TELEM_START sets the stream with its first boundary the next multiple of the period, or puts it beside the running one;
TELEM_STOP ends it; TELEM_SNAPSHOT forms the frames of its sets; a boundary drops what was not sent and forms the frames at the boundary's axle
value, a replacing stream taking its place; SAMPLE_START counts every port afresh; SAMPLE_STOP ends sampling; operands out of range are
BADPARAM (17 R424, R425, R427, R428). That frames unsent at the next boundary are dropped there is log 24's DEDUCED point, and that the row of a
boundary idles until its time log 3's. -/
def Obligations.TelemetryRowsTakeEffect : Prop :=
  (∀ s tag sets p, Runs s tag 0x0801 [(2, sets), (2, p)] → exec (.telemStart tag sets p) s = .next (
      let next := (s.axle.value / (p * 1000000) + 1) * (p * 1000000)
      if 1 ≤ sets ∧ sets ≤ 63 ∧ 1 ≤ p ∧ p ≤ 10000 then answered s { s with telem :=
          if s.telem.running then { s.telem with repl := some (sets, p, next) }
          else { s.telem with running := true, sets := sets, period := p, next := next, repl := none } } tag 0x0801 (rep .ok)
      else answered s s tag 0x0801 (rep .badParam))) ∧
  (∀ s tag, Runs s tag 0x0802 → exec (.telemStop tag) s = .next (answered s
      { s with telem := { s.telem with running := false, repl := none } } tag 0x0802 (rep .ok))) ∧
  (∀ s tag sets, Runs s tag 0x0803 [(2, sets)] → exec (.telemSnapshot tag sets) s = .next (
      if 1 ≤ sets ∧ sets ≤ 63 then answered s (telemFrames s sets 0 s.axle.value true) tag 0x0803 (rep .ok)
      else answered s s tag 0x0803 (rep .badParam))) ∧
  (∀ s, exec .telemetryBoundary s = .next (after s
      (if s.telem.running = false then
        if s.lonus.telemQ = [] ∨ s.telem.next = 0 then s
        else updLonus (elapse s (s.telem.next - s.axle.value)) fun l => { streamDrop l true l.telemQ.length with telemQ := [] }
       else if ctrlRuns s = true then
        let t := match s.telem.repl with
          | some (a, p, n) => if n ≤ s.telem.next then { s.telem with sets := a, period := p, next := n, repl := none } else s.telem
          | none => s.telem
        let u := elapse { s with telem := t } (t.next - s.axle.value)
        let u := updLonus u fun l => { streamDrop l true l.telemQ.length with telemQ := [] }
        let u := telemFrames u t.sets t.period t.next false
        { u with telem := { u.telem with next := t.next + t.period * 1000000 } }
       else s))) ∧
  (∀ s tag port n tr, Runs s tag 0x0810 [(2, port), (2, n), (2, tr)] → exec (.sampleStart tag port n tr) s = .next (
      if (port = 0xFFFF ∨ portExists s port = true) ∧ 16 ≤ n ∧ n ≤ 65535 ∧ 64 ≤ tr ∧ tr ≤ 256 ∧ tr % 32 = 0 then answered s
        { s with telem := { s.telem with smpOn := true, smpPort := port, smpN := n, smpTrunc := tr },
                 ports := Tab.mapV {} s.ports fun q => { q with smpCount := 0 } } tag 0x0810 (rep .ok)
      else answered s s tag 0x0810 (rep .badParam))) ∧
  (∀ s tag, Runs s tag 0x0811 → exec (.sampleStop tag) s = .next (answered s
      { s with telem := { s.telem with smpOn := false } } tag 0x0811 (rep .ok)))

/-- Captures and recordings: a start whose parameters pass takes the lowest free ring and a free range of the rings region, answers its number and
begins the ring, at once or at its start_step, NOSPACE where there is none; a stop of a ring that records completes it; RING_FREE returns a
complete ring and its range; REPLAY_LOAD makes the bulk a complete ring as its header says; other operands give their status (10 R246, 11 R283,
R287, R289, 17 R431, R434). The zero start_axle and start_step until start_step comes and the ring's kind and flags taken from the header of the
bulk are log 21's DEDUCED points. -/
def Obligations.RecordRowsTakeEffect : Prop :=
  (∀ s tag m port, Runs s tag 0x0820 [(2, m), (2, port)] → exec (.captureStart tag m port) s = .next (
      if m = 0 ∨ ¬ (port = 0xFFFF ∨ portExists s port = true) then answered s s tag 0x0820 (rep .badParam)
      else match takeRing s m (decide (ringsOn s true < 2))
        { st := 1, capture := true, port := port, wrap := true, begun := true, set := ((activeSet s).map FwSet.set).getD 0,
          plane := s.mod.plane, steady := steady s, startAxle := s.axle.value, startAt := xTime s 0 } with
      | some (k, u) => answered s u tag 0x0820 (okItems (leBytes 2 k))
      | none => answered s s tag 0x0820 (rep .noSpace))) ∧
  (∀ s tag p, Runs s tag 0x0B01 (recordItems p) → exec (.recordStart tag p) s = .next (
      let step := (blockOf s p.block).step
      let r := { freshRing s p.block with egress := decide (p.egress = 1), wrap := decide (p.wrap = 1), digest := decide (p.digest = 1) }
      if 1 < p.wrap ∨ 1 < p.digest ∨ 1 < p.egress ∨ (∃ v, p.startStep = some v ∧ 2 ^ 48 ≤ v) then answered s s tag 0x0B01 (rep .badParam)
      else if (blockOf s p.block).st = .unloaded then answered s s tag 0x0B01 (rep .notFound)
      else if p.ringMib = 0 ∨ (∃ v, p.startStep = some v ∧ v < step) then answered s s tag 0x0B01 (rep .badParam)
      else match takeRing s p.ringMib (decide (ringsOn s false < 8))
          (if step < p.startStep.getD 0 then { r with begun := false, waitStep := p.startStep, startAxle := 0, startStep := 0 } else r) with
      | some (k, u) => answered s u tag 0x0B01 (okItems (leBytes 2 k))
      | none => answered s s tag 0x0B01 (rep .noSpace))) ∧
  (∀ s m r k u, takeRing s m true r = some (k, u) → k < 16 ∧ (ringOf s k).st = 0 ∧ (∀ j, j < k → (ringOf s j).st ≠ 0) ∧
      ∃ a, ringAlloc s m = some a ∧ ringOf u k = { r with mib := m, base := a } ∧ u.lard.rings = s.lard.rings ++ [(k, a, m * mib)]) ∧
  (∀ s tag k, Runs s tag 0x0821 [(2, k)] → exec (.captureStop tag k) s = .next (
      if 16 ≤ k ∨ (ringOf s k).st = 0 ∨ (ringOf s k).capture = false then answered s s tag 0x0821 (rep .badParam)
      else answered s (if (ringOf s k).st = 1 then ringEnd s k else s) tag 0x0821 (rep .ok))) ∧
  (∀ s tag k, Runs s tag 0x0B02 [(2, k)] → exec (.recordStop tag k) s = .next (
      if 16 ≤ k ∨ (ringOf s k).st = 0 ∨ (ringOf s k).capture = true then answered s s tag 0x0B02 (rep .badParam)
      else answered s (if (ringOf s k).st = 1 then ringEnd s k else s) tag 0x0B02 (rep .ok))) ∧
  (∀ s k, ringOf (ringEnd s k) k = { ringOf s k with st := 2, complete := true, waitStep := none }) ∧
  (∀ s tag k, Runs s tag 0x0B05 [(2, k)] → exec (.ringFree tag k) s = .next (
      if 16 ≤ k ∨ (ringOf s k).st = 0 then answered s s tag 0x0B05 (rep .notFound)
      else if (ringOf s k).st = 1 ∨ (ringOf s k).st = 3 then answered s s tag 0x0B05 (rep .badState)
      else answered s
        (let u := updRing s k fun _ => {}
         { u with lard := { u.lard with rings := u.lard.rings.filter fun g => decide (g.1 ≠ k) } }) tag 0x0B05 (rep .ok))) ∧
  (∀ s tag m own, Runs s tag 0x0B10 [(2, m)] → exec (.replayLoad tag m own) s = .next (
      let d := bulkOf s tag own
      if m = 0 ∨ d.length < 64 ∨ m * mib < d.length then answered s s tag 0x0B10 (rep .badParam)
      else match takeRing s m true (ringOfHeader d) with
      | some (k, u) => answered s (lardStore u (ringOf u k).base d) tag 0x0B10 (okItems (leBytes 2 k))
      | none => answered s s tag 0x0B10 (rep .noSpace)))

/-- Replay: REPLAY_START, after its checks in order, marks a complete recording of this plane, set and mode as being replayed, opens the output
ring and starts 100 µs on or at start_axle; REPLAY_STOP completes the output ring; an injection whose record is due processes the recorded packet
at its port as if it had arrived, the Ladle's checks included, and an uncorrectable error in the record ends the replay; a replay with nothing left
ends (11 R290, R291, R293). BADPARAM for a ring of 16 or more and for out 0 before 11 R290's order, BADSTATE for a free ring or a capture and the
end without an event on an uncorrectable error are log 21's DEDUCED points. -/
def Obligations.ReplayRowsTakeEffect : Prop :=
  (∀ s tag k out st, Runs s tag 0x0B11 [(2, k), (2, out), (8, st)] → exec (.replayStart tag k out st) s = .next (
      let r := ringOf s k
      if 16 ≤ k ∨ out = 0 then answered s s tag 0x0B11 (rep .badParam)
      else if s.replay.running = true ∨ r.st ≠ 2 ∨ r.complete = false ∨ r.capture = true ∨ (blockOf s r.block).st ≠ .active ∨
          (blockOf s r.block).step ≠ r.startStep then answered s s tag 0x0B11 (rep .badState)
      else if st ≠ 0 ∧ st < s.axle.value then answered s s tag 0x0B11 (rep .badParam)
      else if r.set ≠ setNow s ∨ r.arithRev ≠ 3 ∨ r.plane ≠ s.mod.plane ∨ r.steady ≠ steady s then answered s s tag 0x0B11 (rep .version)
      else match takeRing s out (decide (ringsOn s false < 8)) { freshRing s r.block with egress := true, replayOut := true } with
      | some (o, u) => answered s (replaySeek
        (let v := updRing u k fun r => { r with st := 3 }
         { v with replay := { running := true, inRing := k, outRing := o, pos := r.first, nextSeq := (recordAt u r r.first).seq,
                              t0 := if st = 0 then u.axle.value + 100000 else st } })) tag 0x0B11 (okItems (leBytes 2 o))
      | none => answered s s tag 0x0B11 (rep .noSpace))) ∧
  (∀ s tag, Runs s tag 0x0B12 → exec (.replayStop tag) s = .next (
      if s.replay.running = true then answered s (endReplay s none []) tag 0x0B12 (rep .ok)
      else answered s s tag 0x0B12 (rep .badState))) ∧
  (∀ s ev l, s.replay.running = true → (endReplay s ev l).replay = { s.replay with running := false }) ∧
  (∀ s cs, exec (.replayInject cs) s = .next (after s
      (if s.replay.running = true then match replayNext s with
        | .inject x => match badIn s ((ringOf s s.replay.inRing).base + x.pos) x.size with
          | some a => endReplay (ueFail s a 0xFFFF) none []
          | none =>
            let u := replayDue s x
            let u := { u with replay := { u.replay with pos := x.pos + x.size, nextSeq := x.seq + 1 } }
            replaySettle (if dpRuns u && decide ((portOf u x.port).stage = .up)
              then process (countArrival u x.port x.packet) x.port x.packet cs else u)
        | .gap => endReplay s (some evReplayGap) []
        | .digest n => endReplay s (some evReplayDigest) [n]
        | .ended => endReplay s (some evReplayDone) []
       else s)))

/-- The table commands: a flip that passes its checks makes its version Active and the other Draining, or in Setup selects it, the first failing
entry is named, and copies that differ take the module to Hold; a seal starts the drain's clock; a copy makes the Writable version's words the
Active one's; a clear zeroes the Writable version; the slow-drain event is sent once, 10 ms after the seal (05 R122 to R130). That its row idles
until then is log 3's DESIGN CHOICE. -/
def Obligations.TableRowsTakeEffect : Prop :=
  (∀ s tag v agree, Runs s tag 0x0301 [(2, v)] → exec (.tableFlip tag v agree) s = .next (
      if 2 ≤ v then answered s s tag 0x0301 (rep .badParam)
      else if s.mod.st ≠ .setup ∧ (verOf s v ≠ .writable ∨ verOf s (1 - v) = .draining) then answered s s tag 0x0301 (rep .badState)
      else match tableFault s v with
        | some (t, i) => answered s s tag 0x0301 (.badParam, leBytes 2 t ++ leBytes 2 i, [])
        | none =>
          if agree then answered s (if s.mod.st = .setup then { s with epoch := { s.epoch with active := decide (v = 1), loaded := true } }
            else { s with epoch := { s.epoch with active := decide (v = 1), sealed := false,
                                                  verA := if v = 0 then .active else .draining,
                                                  verB := if v = 0 then .draining else .active } }) tag 0x0301 (rep .ok)
          else answered s (enterHold s 2 none) tag 0x0301 (rep .faulted))) ∧
  (∀ s tag, Runs s tag 0x0302 → exec (.tableSeal tag) s = .next (
      if (s.epoch.verA = .draining ∨ s.epoch.verB = .draining) ∧ s.epoch.sealed = false then answered s
        { s with epoch := { s.epoch with sealed := true, sealedAt := s.now, slow := false } } tag 0x0302 (rep .ok)
      else answered s s tag 0x0302 (rep .badState))) ∧
  (∀ s tag, Runs s tag 0x0303 → exec (.tableCopy tag) s = .next (
      if verOf s (1 - b2n s.epoch.active) = .writable then answered s (copyTable s (b2n s.epoch.active)) tag 0x0303 (rep .ok)
      else answered s s tag 0x0303 (rep .badState))) ∧
  (∀ s tag v, Runs s tag 0x0304 [(2, v)] → exec (.tableClear tag v) s = .next (
      if 2 ≤ v then answered s s tag 0x0304 (rep .badParam)
      else if verOf s v ≠ .writable then answered s s tag 0x0304 (rep .badState)
      else answered s (if s.mod.st = .setup ∧ b2n s.epoch.active = v
        then { wipeTable s v with epoch := { s.epoch with loaded := false } } else wipeTable s v) tag 0x0304 (rep .ok))) ∧
  (∀ s v a, inTable v a = true → regAt (wipeTable s v) a 0 = 0) ∧
  (∀ s v a, v < 2 → Tab.wf none s.regs = true → inTable v a = true → inTable (1 - v) (otherTable v a) = true ∧
      regAt (copyTable s v) (otherTable v a) 0 = regAt s a 0) ∧
  (∀ s v a d, v < 2 → inTable (1 - v) a = false → regAt (copyTable s v) a d = regAt s a d) ∧
  (∀ s, exec .tableDrainSlow s = .next (after s
      (if s.epoch.sealed = true ∧ s.epoch.slow = false then
        let u := elapse s (s.epoch.sealedAt + 10000000 - s.now)
        emit { u with epoch := { u.epoch with slow := true } } evDrainSlow [inFlight u (decide (s.epoch.verB = .draining))]
       else s)))

/-- HARNESS_LOAD that passes 06 R143's checks, made in order, loads the harness with base_step first_step and each die's expected contributions;
HARNESS_UNLOAD frees a harness that holds nothing, so that it is Free and keeps its base_step; each failed check gives its status. The model's
choices stated here are log 26's: chunk_elems against both formats, BADSTATE of HARNESS_UNLOAD on a Free harness, and the base_step that it keeps
(06 R142 to R144). -/
def Obligations.HarnessCommandsTakeEffect : Prop :=
  (∀ s tag h, Runs s tag 0x0410 [(2, h)] → exec (.harnessLoad tag h) s = .next (
      let st := (blockOf s (harnOwner s h)).st
      if 1024 ≤ h then answered s s tag 0x0410 (rep .badParam)
      else if (harnOf s h).loaded = true ∨ st = .unloaded ∨ st = .faulted then answered s s tag 0x0410 (rep .badState)
      else if harnRanges s h = false ∨ membersOk s h = false ∨ harnShape s h = false then answered s s tag 0x0410 (rep .badParam)
      else if (∃ e ∈ accelMembers s h, memberUp s e.2 = false) then answered s s tag 0x0410 (rep .notFound)
      else if harnFast s h = true ∧ steady s = true then answered s s tag 0x0410 (rep .denied)
      else if 6400 < budgetsUsed s + harnBudget s h then answered s s tag 0x0410 (rep .noSpace)
      else answered s (updHarn s h fun _ =>
        { loaded := true, base := harnFirst s h, expect := (List.range 4).map fun d =>
            ((accelMembers s h).filter fun e => decide (dieOfEpa s e.2 = some d)).length }) tag 0x0410 (rep .ok))) ∧
  (∀ s tag h, Runs s tag 0x0411 [(2, h)] → exec (.harnessUnload tag h) s = .next (
      if 1024 ≤ h then answered s s tag 0x0411 (rep .badParam)
      else if (harnOf s h).loaded = false ∨ harnBusy s h = true then answered s s tag 0x0411 (rep .badState)
      else answered s (freeHarness s h) tag 0x0411 (rep .ok))) ∧
  (∀ s h, (harnOf (freeHarness s h) h).loaded = false ∧ (harnOf (freeHarness s h) h).base = (harnOf s h).base ∧
      ∀ k, k ≠ h → harnOf (freeHarness s h) k = harnOf s k)

/-- The galley commands: GALLEY_LOAD of a file that passes 08 R193 takes clusters, heap and queue and makes the image; GALLEY_UNLOAD frees an
image with no thread, launch or bind; GALLEY_LAUNCH queues its launch at the queue's end; each failed check gives its status, a file's with the
number of the condition it breaks; a launch group starts on the cluster that 08 R201 chooses, unless its queue entry cannot be read. The model's
choices stated here: the BADPARAM of a missing bulk before the other checks, the place of the library's NOTFOUND and the Active block that
GALLEY_LAUNCH needs (log 18), the ELF offsets and the note rules (log 10), the free bytes of a library item (log 8), BADSTATE of GALLEY_UNLOAD on
a Free image (log 26) and the ECC operand (log 13) (08 R193, R194, R197, R201, 10 R262). -/
def Obligations.GalleyCommandsTakeEffect : Prop :=
  (∀ s tag i b src item n own, Runs s tag 0x0601 [(2, i), (2, b), (2, src), (2, item), (2, n)] →
      exec (.galleyLoad tag i b src item n own) s = .next (
        let st := (blockOf s b).st
        let bulk := bulkOf s tag own
        if src = 1 ∧ bulk = [] then answered s s tag 0x0601 (rep .badParam)
        else if (imgOf s i).st ≠ 0 ∨ st = .unloaded ∨ st = .faulted then answered s s tag 0x0601 (rep .badState)
        else if 1024 ≤ i ∨ 2 ≤ src ∨ (src = 0 ∧ 64 ≤ item) ∨ ¬ (1 ≤ n ∧ n ≤ 392) then answered s s tag 0x0601 (rep .badParam)
        else match (if src = 1 then some bulk else ((activeSet s).bind fun x => x.library.find? fun e => e.1 == item).map Prod.snd) with
        | none => answered s s tag 0x0601 (rep .notFound)
        | some f => match fileCheck f with
          | .error k => answered s s tag 0x0601 (.badParam, leBytes 2 k, [])
          | .ok x => match loadImage s i b (if src = 0 then item else 65535) n f x with
            | some u => answered s u tag 0x0601 (rep .ok)
            | none => answered s s tag 0x0601 (rep .noSpace))) ∧
  (∀ s i b item n f x u, loadImage s i b item n f x = some u → (imgOf u i).st = 1 ∧ (imgOf u i).owner = b ∧ (imgOf u i).item = item ∧
      (imgOf u i).entries = x.entries ∧ (imgOf u i).stack = x.stack ∧ (imgOf u i).waitUs = x.waitUs ∧ (imgOf u i).depth = x.depth ∧
      (imgOf u i).heapBytes = x.heap ∧ (imgOf u i).gp = globalPointer f ∧ (imgOf u i).queue = [] ∧
      ∀ j, j ≠ i → imgOf u j = imgOf s j) ∧
  (∀ s tag i, Runs s tag 0x0602 [(2, i)] → exec (.galleyUnload tag i) s = .next (
      if 1024 ≤ i then answered s s tag 0x0602 (rep .badParam)
      else if (imgOf s i).st = 0 ∨ (∃ e ∈ s.thr, e.2.live = true ∧ e.2.image = i) ∨ (imgOf s i).queue ≠ [] ∨ boundTo s i = true then
        answered s s tag 0x0602 (rep .badState)
      else answered s (freeImage s i) tag 0x0602 (rep .ok))) ∧
  (∀ s i, imgOf (freeImage s i) i = {} ∧ ∀ j, j ≠ i → imgOf (freeImage s i) j = imgOf s j) ∧
  (∀ s tag i e a0 a1, Runs s tag 0x0603 [(2, i), (2, e), (8, a0), (4, a1)] → exec (.galleyLaunch tag i e a0 a1) s = .next (
      if 1024 ≤ i ∨ 2 ^ 48 ≤ a0 ∨ 2 ^ 32 ≤ a1 then answered s s tag 0x0603 (rep .badParam)
      else if (imgOf s i).st = 0 ∨ (blockOf s (imgOf s i).owner).st ≠ .active then answered s s tag 0x0603 (rep .badState)
      else if (imgOf s i).entries.length ≤ e then answered s s tag 0x0603 (rep .badParam)
      else if (imgOf s i).depth ≤ (imgOf s i).queue.length then answered s s tag 0x0603 (rep .noSpace)
      else answered s (updImg s i fun x => { x with queue := x.queue ++
        [{ id := freeEntry x, entry := e, a0 := a0, a1 := a1, a2 := ownEpa s, key := a0 }] }) tag 0x0603 (rep .ok))) ∧
  (∀ s i e, i < 1024 → dpRuns s = true → (∀ l ∈ (imgOf s i).queue, l.started = true) →
      exec (.launchGroupStart i e) s = .next (after s s)) ∧
  (∀ s i l pc n e, i < 1024 → dpRuns s = true → ((imgOf s i).queue.find? fun l => !l.started) = some l →
      (imgOf s i).entries[l.entry]? = some (pc, n) → exec (.launchGroupStart i e) s = .next (after s
        (match groupCluster s (imgOf s i) l n with
        | none => s
        | some (cl, many) =>
          let x := if l.payload.isSome then eccRead s (entryAddr (imgOf s i) l.id) (32 + (l.payload.map List.length).getD 0) (imgOf s i).owner e
                   else (some [], s)
          if x.1 = none then x.2 else startGroup
            (if many then updHub x.2 (cl / 98) fun h => { h with galley := (h.galley + 1) % 2 ^ 64 } else x.2) i (imgOf s i) l cl pc n)))

/-- The Xtzgal instructions of a thread that stands before them in its turn, after it is noted as issued: TZ.SUBMIT sleeps until its engine accepts;
TZ.SEND forms its packet, checks it in order and sends it, a WRITE or GALLEY_CALL going on, a READ_REQ or ATOMIC asleep until its response; TZ.WAIT
ends with the slot word where the slot meets its target, else the thread sleeps, and wakes with it when it does, or traps at its limit; TZ.BRAKE sets
the self-brake; TZ.AXLE and TZ.STEP read the axle value and the block's step; TZ.YIELD waits for the core's other ready threads; a thread whose turn
has not come issues nothing. A SEND whose target is the own EPA is taken as `sendOwn` says, cause 27 of a BADOP among it. The model's choices stated
here: when a row issues (log 18), cause 27 of the own EPA's BADOP (log 18), the wait of WAIT_LIMIT (log 3) and the ECC operand (log 13)
(08 R187 to R189, R191, R195, R200). -/
def Obligations.XtzgalInstructionsTakeEffect : Prop :=
  (∀ s t a b, thrExists t = true → turn s t = true → standing s t = .tz .submit 0 a b →
      exec (.tzSubmit t a b) s = .next (after s (let u := issued s t
        if 5 < getX u t b ∨ getX u t a % 64 ≠ 0 ∨ ownMem u t (getX u t a) 64 = false then threadFault u t 25 (getX u t a)
        else sleepIn u t (.submit (getX u t b) (getX u t a))))) ∧
  (∀ s t a b e, thrExists t = true → turn s t = true → standing s t = .tz .send 0 a b →
      exec (.tzSend t a b e) s = .next (after s (
        let u := issued s t
        let x := getX u t a
        let y := getX u t b
        let h := sendHeader u t (headerOf (plainRead u (placeOf u t x) 32))
        let typ := h.typ.toNat
        let k := blockOfThr u t
        if x % 32 ≠ 0 ∨ ownMem u t x 32 = false then threadFault u t 25 x
        else if e = .template then threadFault u t 29 x
        else if typ ∉ [tWRITE, tREADREQ, tATOMIC, tCALL] ∨ headerOk h = false then threadFault u t 27 x
        else if sendTarget u k h = false ∨ sendTagBad u k h = true then
          threadFault u t (if typ = tREADREQ then 5 else 7) (h.dst.toNat * 2 ^ 48 + h.addr.toNat)
        else if ((typ = tWRITE ∨ typ = tCALL) ∧ (y % 32 ≠ 0 ∨ spanOk u t y (32 * h.len.toNat) 0 = false)) ∨
            (typ = tREADREQ ∧ spanOk u t y (32 * h.chunk.toNat) 1 = false) ∨
            (typ = tATOMIC ∧ (spanOk u t y 32 0 = false ∨ spanOk u t y 32 1 = false)) then threadFault u t 25 y
        else if 0 < (thrOf u t).posted then u
        else
          let r := if typ = tREADREQ then thrRead u t x 0 e else thrRead u t y (32 * h.len.toNat) e
          match r.1 with
          | none => r.2
          | some payload =>
            if h.mcast = false ∧ h.dst.toNat = ownEpa r.2 then sendOwn r.2 t h payload y
            else
              let z := originate r.2 t.die k h payload (.thread t) (pace := some (paceKey r.2 t))
              if typ = tWRITE ∨ typ = tCALL then retire z.2 t else sleepIn z.2 t (.send h.dst.toNat z.1 y)))) ∧
  (∀ s t rd a b, thrExists t = true → turn s t = true → standing s t = .tz .wait rd a b →
      exec (.tzWait t rd a b) s = .next (after s (let u := issued s t
        let v := getX u t a
        if bits v 14 49 ≠ 0 then threadFault u t 25 v
        else if slotInBlock u (blockOfThr u t) (v % 16384) = false then threadFault u t 5 (localAddr (0x300000000 + 8 * (v % 16384)))
        else if waitMet u (v % 16384) (bit v 63) (getX u t b) then waitEnd u t rd (v % 16384)
        else sleepIn u t (.wait rd (v % 16384) (bit v 63) (getX u t b))))) ∧
  (∀ s t rd k p v, thrExists t = true → (thrOf s t).sleep = .wait rd k p v → exec (.tzWaitWake t) s = .next (after s
        (if dpRuns s = true ∧ waitMet s k p v = true then retire (setX s t rd (cslotWord (slotOf s k))) t else s))) ∧
  (∀ s t rd k p v, thrExists t = true → (thrOf s t).sleep = .wait rd k p v → exec (.waitLimit t) s = .next (after s
        (if dpRuns s = true ∧ waitMet s k p v = false then threadFault
          (elapse s ((thrOf s t).since + 1000 * (imgOf s (thrOf s t).image).waitUs + 1 - s.now)) t 24 0 else s))) ∧
  (∀ s t a, thrExists t = true → turn s t = true → standing s t = .tz .brake 0 a 0 →
      exec (.tzBrake t a) s = .next (after s (let u := issued s t
        if 1 ≤ getX u t a ∧ getX u t a ≤ 64 then
          retire (updHub u t.die fun h => { h with pace := Tab.upd {} h.pace (paceKey u t) fun p => { p with rate := getX u t a } }) t
        else threadFault u t 25 (getX u t a)))) ∧
  (∀ s t rd, thrExists t = true → turn s t = true → standing s t = .tz .axle rd 0 0 →
      exec (.tzAxle t rd) s = .next (after s (let u := issued s t; retire (setX u t rd u.axle.value) t))) ∧
  (∀ s t rd, thrExists t = true → turn s t = true → standing s t = .tz .step rd 0 0 →
      exec (.tzStep t rd) s = .next (after s (let u := issued s t; retire (setX u t rd (blockOf u (blockOfThr u t)).step) t))) ∧
  (∀ s t, thrExists t = true → turn s t = true → standing s t = .tz .yield 0 0 0 →
      exec (.tzYield t) s = .next (after s (let u := issued s t
        let l := (List.range 4).filter fun k => decide (k ≠ t.thread) && ready u { t with thread := k }
        if l.isEmpty then retire u t else sleepIn (retire u t) t (.yield l)))) ∧
  (∀ s t rd a b w e, thrExists t = true → turn s t = false →
      ∀ c ∈ [Instr.tzSubmit t a b, .tzSend t a b e, .tzWait t rd a b, .tzTake t rd a b e, .tzBrake t a, .tzAxle t rd, .tzStep t rd, .tzYield t,
        .galleyAccess t a b e, .fence t w, .exit t, .log t e, .ebreak t, .illegalInstruction t a e], exec c s = .next (after s s))

/-- TZ.TAKE of a formed chunk copies its result to the address, counts as the rank's acknowledgement and answers the result's length; a chunk
that is not yet formed puts the thread to sleep, and its forming wakes it; a chunk that the rank has taken traps with cause 26, as does one that the
harness does not have; a hold that cannot be read faults the owner block with COLL_ECC, and an ECC error of it is counted. The model's choices
stated here: the ECC operand and the die of the spill region that counts the error (log 13), and when a row issues (log 18)
(06 R160, 08 R199, 10 R261, R262). -/
def Obligations.TakeCopiesEachResultOnce : Prop :=
  (∀ s t rd a b e, thrExists t = true → turn s t = true → standing s t = .tz .take rd a b →
      exec (.tzTake t rd a b e) s = .next (after s (let u := issued s t
        let v := getX u t a
        let w := getX u t b
        let h := bits v 0 10
        if bits v 10 6 ≠ 0 ∨ bits v 59 5 ≠ 0 ∨ bits w 48 8 ≠ 0 then threadFault u t 25 v
        else if harnLoadedBy u h (blockOfThr u t) = false ∨ harnMode u h ≠ 0 ∨ bits w 56 8 ∉ galleyRanks u h ∨ chunksOf u h ≤ bits v 32 27 then
          threadFault u t 26 0
        else takeNow u t rd h (takeStep u h (bits v 16 16)) (bits v 32 27) (bits w 56 8) (bits w 0 48) e))) ∧
  (∀ s t rd h step c rank dst e, thrExists t = true → (thrOf s t).sleep = .take rd h step c rank dst → exec (.tzTakeWake t e) s = .next (after s
        (if dpRuns s = true ∧ ((takeHold s h step c rank).isSome = true ∨ chunkFormed s h step c = true) then takeNow s t rd h step c rank dst e
         else s))) ∧
  (∀ s t rd h step c rank dst x e, takeHold s h step c rank = some x →
      spanOk (regionEcc s (spillBase s) e) t (localAddr dst) x.bytes.length 1 = true → e ≠ .uncorrectable →
      takeNow s t rd h step c rank dst e = retire (setX (holdAcked (plainWrite (regionEcc s (spillBase s) e) none
        (placeOf (regionEcc s (spillBase s) e) t (localAddr dst)) x.bytes) h step c (65536 + rank) 0) t rd x.bytes.length) t) ∧
  (∀ s a, regionEcc s a .ok = s) ∧ (∀ s a, regionEcc s a .corrected = ceCount s a) ∧ (∀ s a, regionEcc s a .uncorrectable = ueMeter s a) ∧
  (∀ s t rd h step c rank dst x, takeHold s h step c rank = some x →
      takeNow s t rd h step c rank dst .uncorrectable =
        faultBlock (ueMeter s (spillBase s)) (harnOwner (ueMeter s (spillBase s)) h) evCollEcc [x.die, x.slot]) ∧
  (∀ s t rd h step c rank dst e, takeHold s h step c rank = none → chunkFormed s h step c = false →
      takeNow s t rd h step c rank dst e = sleepIn s t (.take rd h step c rank dst)) ∧
  (∀ s t rd h step c rank dst e, takeHold s h step c rank = none → chunkFormed s h step c = true →
      takeNow s t rd h step c rank dst e = threadFault s t 26 0) ∧
  (∀ s h low, takeStep s h low < 2 ^ 48)

/-- Accesses and services of a thread in its turn: a load or a store of the scratch, an atomic add on a count slot, a posted larder store, a FENCE that
waits for posted stores, EXIT that frees the context, LOG that sends the 32 B at most once a millisecond, EBREAK under the image's debugger or as
cause 3, and an instruction that cannot be fetched (cause 1), is of a line with an uncorrectable error (cause 29, whatever the instruction) or is
illegal (cause 2). A service does not count as retired. The model's choices stated here: when a row issues (log 18), the ECC operand (log 13), and
the base instructions' meaning (log 30) (08 R186, R187, R191, R192, R203, R204). -/
def Obligations.GalleyAccessesAndServicesTakeEffect : Prop :=
  (∀ s t a run e, thrExists t = true → turn s t = true → standing s t = .mem a run →
      exec (.galleyAccess t (accessSpan a).1 (accessSpan a).2 e) s = .next (after s (galleyAccess (run (issued s t)) t a e))) ∧
  (∀ s t d addr n k, placeOf s t addr = .scratch k → spanIn s t addr n = true →
      galleyAccess s t (.load d addr n) .ok = retire (loadDest s t d (Mem.read s.scratch k n)) t) ∧
  (∀ s t addr bs k, placeOf s t addr = .scratch k → spanIn s t addr bs.length = true →
      galleyAccess s t (.store addr bs) .ok = retire (plainWrite s (some t) (.scratch k) bs) t) ∧
  (∀ s me k bs i, (h : i < bs.length) → Mem.byte (plainWrite s me (.scratch k) bs).scratch (k + i) = bs[i]) ∧
  (∀ s me k bs x, x < k ∨ k + bs.length ≤ x → Mem.byte (plainWrite s me (.scratch k) bs).scratch x = Mem.byte s.scratch x) ∧
  (∀ s t k w rd addr v, placeOf s t addr = .cslot k w → addr % 8 = 0 → slotInBlock s (blockOfThr s t) k = true →
      galleyAccess s t (.amo .add rd addr 8 (leBytes 8 v)) .ok = retire (loadDest
        { s with cslots := Tab.set {} s.cslots k (cslotOfWord ((cslotWord (slotOf s k) + v % 2 ^ 64) % 2 ^ 64)) }
        t (.x rd true) (leBytes 8 (cslotWord (slotOf s k)))) t) ∧
  (∀ s t addr bs l w, placeOf s t addr = .larder l w → bs ≠ [] → addr % bs.length = 0 → thrMay s t l bs.length 1 w = true →
      galleyAccess s t (.store addr bs) .ok = thrRequest s t .gStore [(l, bs.length)] bs none) ∧
  (∀ s t addr n d ecc, placeOf s t addr = .bad → galleyAccess s t (.load d addr n) ecc = threadFault s t 5 addr) ∧
  (∀ s t w, thrExists t = true → turn s t = true → standing s t = .fence w → exec (.fence t w) s = .next (after s
      (if w = true ∧ 0 < (thrOf (issued s t) t).posted then issued s t else retire (issued s t) t))) ∧
  (∀ s t, thrExists t = true → turn s t = true → standing s t = .exit → exec (.exit t) s = .next (after s (exitThread (issued s t) t))) ∧
  (∀ s t, (thrOf (exitThread s t) t).live = false ∧ (thrOf (exitThread s t) t).exitCode = some (getX s t 10)) ∧
  (∀ s t e, thrExists t = true → turn s t = true → standing s t = .log → exec (.log t e) s = .next (after s
      (let u := issued s t
       let a := getX u t 10
       let i := (thrOf u t).image
       if (spanLarder u t a).isSome = true ∨ spanOk u t a 32 0 = false then threadFault u t 5 a
       else if e = .uncorrectable then threadFault u t 29 a
       else resume (setX (if (imgOf u i).logAt = none ∨ ∃ x, (imgOf u i).logAt = some x ∧ x + 1000000 ≤ u.now then
           emitX (updImg u i fun x => { x with logAt := some u.now }) evGalleyLog (blockOfThr u t) [] (plainRead u (placeOf u t a) 32)
         else updImg u i fun x => { x with logDrop := x.logDrop + 1 }) t 10 0) t))) ∧
  (∀ s t, thrExists t = true → turn s t = true → standing s t = .ebreak → exec (.ebreak t) s = .next (after s
      (let u := issued s t
       if (imgOf u (thrOf u t).image).st = 2 then updThr u t fun x => { x with halted := true } else threadFault u t 3 (thrOf u t).pc))) ∧
  (∀ s t e, thrExists t = true → turn s t = true → (thrOf s t).pc ≠ (thrOf s t).stub → (standing s t = .illegal → exec (.illegalInstruction t ((fetchIns s t).getD 0) e) s = .next (after s
      (threadFault (issued s t) t (if e = .uncorrectable then 29 else 2) (thrOf (issued s t) t).pc))) ∧
      (standing s t = .noFetch → exec (.illegalInstruction t ((fetchIns s t).getD 0) e) s = .next (after s (threadFault (issued s t) t 1 (thrOf (issued s t) t).pc))) ∧
      (standing s t ≠ .noFetch → exec (.illegalInstruction t ((fetchIns s t).getD 0) .uncorrectable) s =
        .next (after s (threadFault (issued s t) t 29 (thrOf (issued s t) t).pc))))

/-- The link commands on a port that exists (BADPARAM on another): a reset or an enable of a port that is neither Up nor flushing starts its hitch at
Detect, an Up port goes down with cause 7 first, and LINK_ENABLE clears its failures; a disabled port stays disabled with its transmitter idle, unless
its partner is a member of an Active block; an Up port's transmitter idles where its partner is a member of no loaded block, and wakes; an Up port's
receiver idles, and leaves idle with the marker; a failed exit from idle takes the port down with cause 6. The model's choices stated here are log
25's: BADSTATE of LINK_WAKE on a port that is not Up, BADPARAM of a port that the configured widths do not have; that a port which left Up sends IDLE
rounds until its flush ends is log 28's (12 R308, R312 to R315, R320). -/
def Obligations.LinkCommandsTakeEffect : Prop :=
  (∀ s tag p, Runs s tag 0x0702 [(2, p)] → exec (.linkReset tag p) s = .next (
      if portExists s p = true then answered s (restartPort s p) tag 0x0702 (rep .ok) else answered s s tag 0x0702 (rep .badParam))) ∧
  (∀ s p, restartPort s p =
      if (portOf s p).stage = .up then updPort (portDown s p 7) p fun q => { q with disabled := false }
      else if (portOf s p).flushing = true then
        updPort ((lanesOf s p).foldl prbsOff (lineFill s p)) p fun q => { q with disabled := false, txIdle := false }
      else startHitch s p) ∧
  (∀ s p, (portOf (startHitch s p) p).stage = .detect ∧ (portOf (startHitch s p) p).since = s.now ∧
      (portOf (startHitch s p) p).failures = (portOf s p).failures ∧ (portOf (startHitch s p) p).txIdle = false ∧
      (portOf (startHitch s p) p).disabled = false) ∧
  (∀ s tag p, Runs s tag 0x0703 [(2, p)] → exec (.linkDisable tag p) s = .next (
      if portExists s p = false then answered s s tag 0x0703 (rep .badParam)
      else if (∃ b, partnerBlock s p = some b ∧ (blockOf s b).st = .active) then answered s s tag 0x0703 (rep .badState)
      else answered s (disablePort s p) tag 0x0703 (rep .ok))) ∧
  (∀ s p, (portOf (disablePort s p) p).stage = .disabled ∧ (portOf (disablePort s p) p).disabled = true ∧
      (portOf (disablePort s p) p).txIdle = true) ∧
  (∀ s tag p, Runs s tag 0x0704 [(2, p)] → exec (.linkEnable tag p) s = .next (
      if portExists s p = true then answered s (updPort (restartPort s p) p fun q => { q with failures := 0 }) tag 0x0704 (rep .ok)
      else answered s s tag 0x0704 (rep .badParam))) ∧
  (∀ s tag p, Runs s tag 0x0705 [(2, p)] → exec (.linkIdle tag p) s = .next (
      if portExists s p = false then answered s s tag 0x0705 (rep .badParam)
      else if (portOf s p).stage = .up ∧ partnerBlock s p = none ∧ 1 ≤ (portOf s p).minor then
        answered s (idleLine s p) tag 0x0705 (rep .ok)
      else answered s s tag 0x0705 (rep .badState))) ∧
  (∀ s p, (portOf (idleLine s p) p).txIdle = true ∧ (portOf (wakeLine s p) p).txIdle = false) ∧
  (∀ s tag p, Runs s tag 0x0706 [(2, p)] → exec (.linkWake tag p) s = .next (
      if portExists s p = false then answered s s tag 0x0706 (rep .badParam)
      else if (portOf s p).stage = .up then answered s (wakeLine s p) tag 0x0706 (rep .ok)
      else answered s s tag 0x0706 (rep .badState))) ∧
  (∀ s p, portExists s p = true → exec (.enterIdle p) s = .next (after s
      (if (portOf s p).stage = .up then lanesIdle (updPort s p fun q => { q with rxIdle := true, sawIdle := false }) p true else s))) ∧
  (∀ s p, portExists s p = true → exec (.idleExitBurst p) s = .next (after s
      (if (portOf s p).stage = .up ∧ (portOf s p).rxIdle = true then
        lanesIdle (updPort s p fun q => { q with rxIdle := false, sawIdle := true, idleAt := s.now }) p false
       else s))) ∧
  (∀ s p, portExists s p = true → exec (.idleExit p) s = .next (after s
      (if (portOf s p).stage = .up ∧ ((portOf s p).rxIdle = true ∨ ((portOf s p).sawIdle = true ∧ s.now ≤ (portOf s p).idleAt + 500)) then
        portDown s p 6 else s)))

/-- The lane commands: PRBS starts on a disabled lane with its counters cleared and stops; a read answers the checker's counters, an unlocked one's
unchanged; lock is gained, and at its loss what was counted is added, saturating; an injection within its limits is kept; a bit slip moves the codeword
boundary by one of 2,720; an eye scan stays outstanding until its row returns 4,096 counts as 16 KiB; other operands are BADPARAM, another state
BADSTATE. The model's choices stated here: BADPARAM of a lane above 511 and of an injection outside its limits (log 25), what an injection does to
an earlier one (log 15), and that a generator's injections are recorded as it stops (log 6) (12 R316 to R319, 14 R474). -/
def Obligations.LaneCommandsTakeEffect : Prop :=
  (∀ s tag l pat d, Runs s tag 0x0710 [(2, l), (2, pat), (2, d)] → exec (.lanePrbsStart tag l pat d) s = .next (
      if ¬ (l < 512 ∧ pat < 4 ∧ 1 ≤ d ∧ d ≤ 3) then answered s s tag 0x0710 (rep .badParam)
      else if laneDisabled s l = false then answered s s tag 0x0710 (rep .badState)
      else answered s (prbsBegin s l pat (bit d 0) (bit d 1)) tag 0x0710 (rep .ok))) ∧
  (∀ s l pat g c, laneOf (prbsBegin s l pat g c) l =
      (let x := laneOf s l
       { x with gen := if g then some pat else x.gen, genAt := if g then s.now else x.genAt, chk := if c then some pat else x.chk,
                inject := if g ∧ x.gen.isSome then none else x.inject, injPast := if g ∧ x.gen.isSome then [] else x.injPast, lock := false, bits := 0, bitErr := 0, symErr := 0 })) ∧
  (∀ s tag l, Runs s tag 0x0711 [(2, l)] → exec (.lanePrbsStop tag l) s = .next (
      if l < 512 then answered s (prbsOff s l) tag 0x0711 (rep .ok) else answered s s tag 0x0711 (rep .badParam))) ∧
  (∀ s l, (laneOf (prbsOff s l) l).gen = none ∧ (laneOf (prbsOff s l) l).chk = none ∧ (laneOf (prbsOff s l) l).lock = false) ∧
  (∀ s tag l, Runs s tag 0x0712 [(2, l)] → exec (.lanePrbsRead tag l) s = .next (
      if l < 512 then
        let u := prbsCount s l
        let x := laneOf u l
        answered s u tag 0x0712
          (okItems (leBytes 4 (b2n x.lock) ++ leBytes 4 0 ++ leBytes 8 x.bits ++ leBytes 8 x.bitErr ++ leBytes 8 x.symErr))
      else answered s s tag 0x0712 (rep .badParam))) ∧
  (∀ s l, (laneOf s l).lock = false → prbsCount s l = s) ∧
  (∀ s l, l < 512 → exec (.prbsLock l) s = .next (after s
      (if (laneOf s l).chk.isSome = true then updLane s l fun x => { x with lock := true } else s))) ∧
  (∀ s l b e y, l < 512 → exec (.prbsLockLost l b e y) s = .next (after s
      (if (laneOf s l).lock = true then updLane (certSpoil s (portOfLane s l) 0) l fun x =>
        { x with lock := false, bits := satAdd 64 x.bits b, bitErr := satAdd 64 x.bitErr e, symErr := satAdd 64 x.symErr y }
       else s))) ∧
  (∀ s tag l k n c us, Runs s tag 0x0713 [(2, l), (2, k), (2, n), (2, c), (4, us)] → exec (.laneInject tag l k n c us) s = .next (
      if l < 512 ∧ injectOk s l k n c us = true then
        let u := lineFill s (portOfLane s l)
        answered s (updLane u l (injBegin u k n c us)) tag 0x0713 (rep .ok)
      else answered s s tag 0x0713 (rep .badParam))) ∧
  (∀ s k n c us x, ∃ t, (injBegin s k n c us x).inject = some { kind := k, n := n, count := c, us := us, at_ := t } ∧ s.now ≤ t ∧
      (x.inject = none → x.injPast = [] → t = s.now)) ∧
  (∀ s tag l, Runs s tag 0x0714 [(2, l)] → exec (.laneBitslip tag l) s = .next (
      if 512 ≤ l then answered s s tag 0x0714 (rep .badParam)
      else if laneDisabled s l = true ∧ (laneOf s l).chk.isSome = true then answered s
        (updLane (prbsCount s l) l fun x => { x with slip := (x.slip + 1) % 2720, lock := false }) tag 0x0714 (rep .ok)
      else answered s s tag 0x0714 (rep .badState))) ∧
  (∀ s tag l e, Runs s tag 0x0720 [(2, l), (2, e)] → exec (.laneEyeScan tag l e) s = .next (
      if ¬ (l < 512 ∧ e ≤ 2) then answered s s tag 0x0720 (rep .badParam)
      else if (∃ x ∈ s.eye, x.chiplet = l / 32) then answered s s tag 0x0720 (rep .badState)
      else after s (keepOutstanding { s with eye := s.eye ++ [{ chiplet := l / 32, lane := l % 32, tag := tag }] } tag 0x0720))) ∧
  (∀ s k cs, k < 16 → exec (.eyeScanDone k cs) s = .next (after s
      (match s.eye.find? fun e => decide (e.chiplet = k) with
       | some e => finishCmd { s with eye := s.eye.filter fun x => decide (x.chiplet ≠ k) } e.tag 0x0720
          (okBulk (slice (cs.flatMap fun w => leBytes 4 w.toNat) 0 16384))
       | none => s)))

/-- The cable plan: a plan that meets 13 R325 is stored (in Setup every port restarts), an edit changes the entry's state and the edit count alone,
and a quarantined, mismatched port is named misplaced once, with the port that the plan expects its partner on, which has completed its check or 1 s
after the Quarantine began. When PORT_MISPLACED is sent is log 25's reading and its row's wait log 3's DESIGN CHOICE (13 R325, R329, R334). -/
def Obligations.PlanCommandsTakeEffect : Prop :=
  (∀ s tag own, Runs s tag 0x0730 → exec (.planInstall tag own) s = .next (
      let bs := bulkOf s tag own
      if bs = [] ∨ planOk s bs = false then answered s s tag 0x0730 (rep .badParam)
      else
        let u := { s with nv := { s.nv with plan := some (planOf bs) } }
        answered s (if s.mod.st = .setup then (allPorts u).foldl restartAt u else u) tag 0x0730 (rep .ok))) ∧
  (∀ s tag port st, Runs s tag 0x0731 [(2, port), (2, st)] → exec (.planEdit tag port st) s = .next (
      match s.nv.plan.bind fun p => (p.entries[port]?).map fun e => (p, e) with
      | none => answered s s tag 0x0731 (rep .badParam)
      | some (p, e) =>
        if ¬ (1 ≤ st ∧ st ≤ 2) ∨ e.state = 0 then answered s s tag 0x0731 (rep .badParam)
        else if e.state = 1 ∧ st = 2 ∧ blockOfEpa s e.epa ≠ none then answered s s tag 0x0731 (rep .badState)
        else answered s
          (let q := { p with entries := p.entries.set port { e with state := st }, edits := (p.edits + 1) % 65536 }
           restartAt { s with nv := { s.nv with plan := some q } } port) tag 0x0731 (rep .ok))) ∧
  (∀ s bs, planOk s bs = true → bs.length = 2120 ∧ getLe bs 2112 8 = crc64 (bs.take 2112) ∧ getLe bs 0 2 = 1 ∧
      (planOf bs).plane = s.mod.plane ∧ (planOf bs).rackPos = s.mod.rackPos ∧ planUnique (planOf bs) = true) ∧
  (∀ s p, portExists s p = true → exec (.portMisplaced p) s = .next (after s
      (if (portOf s p).stage = .quarantine ∧ (portOf s p).check = 2 ∧ (portOf s p).paired = false ∧ (portOf s p).misSent = false then
        match expectedPort s p with
        | none => s
        | some x => emit (updPort (if (portOf s x).check ≠ 0 then s else elapse s ((portOf s p).since + 1000000000 - s.now)) p
            fun q => { q with misSent := true }) evMisplaced [p, x]
       else s)))

/-- Certification: CERT_RUN in mode 1 begins a run on the named Up ports, in mode 0 it asks the ports whose partner is in no loaded block for PRBS31, and
stays outstanding; at its dwell CERT_DONE ends the PRBS31 of each port whose own dwell is over, records each port's result, sends CERT_DONE and
completes the command; the schedule begins a run on every Up port when its interval has passed. The model's choices stated here are log 22's (the
results are operands, a port left out has not passed, the oldest run of a mode ends first, which ports count as unable at once) and log 3's (the
rows wait for the dwell and the interval) (13 R336, R337). -/
def Obligations.CertificationRowsTakeEffect : Prop :=
  (∀ s tag p mode dwell, Runs s tag 0x0740 [(2, p), (2, mode), (2, dwell)] → exec (.certRun tag p mode dwell) s = .next (
      let named := if p = 0xFFFF then plannedPorts s else [p]
      if mode = 0 ∧ s.mod.st ≠ .setup ∧ s.mod.st ≠ .ready then answered s s tag 0x0740 (rep .badState)
      else if ¬ (mode < 2 ∧ 1 ≤ dwell ∧ dwell ≤ 3600) ∨ ¬ (p = 0xFFFF ∨ portExists s p = true) then answered s s tag 0x0740 (rep .badParam)
      else if mode = 1 then after s (keepOutstanding { s with certRuns := s.certRuns ++
        [{ tag := some tag, mode := 1, ports := named.filter fun p => decide ((portOf s p).stage = .up),
           endAt := s.now + 1000000000 * dwell }] } tag 0x0740)
      else after s (keepOutstanding (certBegin (named.foldl (certAsk dwell) s) (some tag) 0 dwell
        (named.filter fun p => (partnerBlock s p).isNone)) tag 0x0740))) ∧
  (∀ s p dwell, certAsk dwell s p =
      if (partnerBlock s p).isSome = true then { s with cert := Tab.set {} s.cert p { result := 3, mode := 0, at_ := s.now } }
      else updPort (restartPort s p) p fun q => { q with cert := 1, certDwell := dwell }) ∧
  (∀ s m rs, exec (.certDone m rs) s = .next (after s
      (match s.certRuns.find? fun r => decide (r.mode = m) with
       | none => s
       | some r =>
        let x := if m = 0 then certExpire s r.endAt else s
        let x := elapse x (r.endAt - x.now)
        let q := (x.certRuns.find? fun y => decide (y.mode = m)).getD r
        let u := q.ports.foldl (certFill q rs) (x, 0)
        let v := if m = 0 then (q.ports.filter fun p => !q.ended.any fun e => decide (e.1 = p)).foldl certRelease u.1 else u.1
        let w := emit { v with certRuns := v.certRuns.erase q } evCertDone [m, q.ports.length, u.2]
        match q.tag with
        | some t => finishCmd w t 0x0740 (rep .ok)
        | none => w))) ∧
  (∀ r s lane worst ok n p, certPort r (s, n) (p, lane, worst, ok) =
      if ok = true ∧ certClean s r p = true ∧ (if r.mode = 0 then 60 else 50) ≤ worst then
        ({ s with cert := Tab.set {} s.cert p { result := 1, mode := r.mode, lane := lane % 8, worst := worst % 256, at_ := s.now } }, n)
      else (emit { s with cert := Tab.set {} s.cert p { result := 2, mode := r.mode, lane := lane % 8, worst := worst % 256, at_ := s.now } }
        evCertFail [p, r.mode, lane % 8, worst % 256], n + 1)) ∧
  (∀ s r p, certClean s r p = true ↔ p ∉ r.bad ∧ (r.mode ≠ 0 ∨ match r.ended.find? fun e => decide (e.1 = p) with
      | some e => e.2 = true
      | none => (portOf s p).cert = 3 ∧ ∀ l ∈ lanesOf s p, (laneOf s l).lock = true)) ∧
  (∀ s, exec .certSchedule s = .next (after s
      (if bits (certCtlWord s) 0 14 ≠ 0 ∧ dpRuns s = true then
        let u := elapse s (s.certAt + 3600000000000 * bits (certCtlWord s) 0 14 - s.now)
        certBegin { u with certAt := u.now } none 1 (bits (certCtlWord s) 16 12)
          ((allPorts u).filter fun p => decide ((portOf u p).stage = .up))
       else s)))

/-- Training: a sound frame on a lane in Detect locks it, sets its polarity and counts, in Sound it is answered and counts while both ends are ready,
in Align it gives the partner's seed and round number; a frame whose CRC-16 fails is ignored; the 16th on every lane ends the stage; a stage that reaches
its limit fails into back-off, or Listen at listen_after failures; the back-off's end and a swing seen in Listen start Detect again, the latter with
failures 0; beacons are sent in Listen; a bit-slip search steps a lane; Align ends in Identify once the partner's lanes are told apart, each lane's
skew being its delay behind the earliest. The model's choices stated here: the equaliser, the skews, the tap requests and which lanes lose swing are
free values, and Align exit holds codeword lock on every lane (log 15); the limit, the back-off, the beacon and the search wait for their time
(log 3) (12 R307, R308, R310, R311, R316, R321). -/
def Obligations.HitchStagesTakeEffect : Prop :=
  (∀ s p m (c : BitVec 128) inv low, portExists s p = true → exec (.trainingFrame p m c inv low) s = .next (after s
      (if dpRuns s = true ∧ m < lanesPer (portW s p) ∧ bits c.toNat 112 16 = crc16 c.toNat 112 ∧ 1 ≤ bits c.toNat 0 8 ∧ bits c.toNat 0 8 ≤ 3
       then validFrame s p m c.toNat inv low else s))) ∧
  (∀ s p m c inv low, let u := lineFill s p
      let l := ((lanesOf u p)[m]?).getD 0
      ((portOf u p).stage = .detect → validFrame s p m c inv low =
        detectFrame (updLane u l fun x => { x with rxLane := bits c 107 4 }) p l m inv) ∧
      ((portOf u p).stage = .sound → bits c 0 8 ≠ 1 → validFrame s p m c inv low = soundFrame u p l m c low) ∧
      ((portOf u p).stage = .align → bits c 0 8 = 3 → validFrame s p m c inv low =
        updLane u l fun x => { x with seed := bits c 37 58, count := bits c 95 12, rxLane := bits c 107 4 }) ∧
      ((portOf u p).stage = .up → validFrame s p m c inv low = portDown u p 3)) ∧
  (∀ s p l m inv, (portOf (detectFrame s p l m inv) p).stage =
      (if framesDone (countFrame (updLane s l fun x => { x with signal := true, cdr := true, polInv := inv }) p m true) p then .sound
       else (portOf s p).stage)) ∧
  (∀ s p lost, portExists s p = true → exec (.hitchStageTimeout p lost) s = .next (after s
      (match stageLimit (portOf s p).stage with
       | none => s
       | some t =>
        if lost = true then (if (portOf s p).stage = .detect then swingGone s p else stageFail (swingGone s p) p 2)
        else stageFail (elapse s ((portOf s p).since + t - s.now)) p 1))) ∧
  (∀ s p c, (portOf (stageFail s p c) p).failures = (portOf s p).failures + 1 ∧ (portOf (stageFail s p c) p).failCause = c ∧
      (portOf (stageFail s p c) p).txIdle = true ∧ (portOf (stageFail s p c) p).stage =
        (if bits (linkCtl s (dieOf s p)) 0 4 ≤ (portOf s p).failures + 1 then .listen else .backoff)) ∧
  (∀ s p, portExists s p = true → exec (.backOffEnd p) s = .next (after s
      (if (portOf s p).stage = .backoff then startHitch (elapse s ((portOf s p).backoff - s.now)) p else s))) ∧
  (∀ s p, portExists s p = true → exec (.listenSwingSeen p) s = .next (after s
      (if (portOf s p).stage = .listen then startHitch (lanesSignal (updPort s p fun q => { q with failures := 0 }) p true) p else s))) ∧
  (∀ s p, portExists s p = true → exec (.listenBeacon p) s = .next (after s
      (if (portOf s p).stage = .listen then beaconLine (elapse (updPort s p fun q => { q with beacons := q.beacons + 1 })
        ((portOf s p).since + 1000000000 * (portOf s p).beacons - s.now)) p else s))) ∧
  (∀ s l found, l < 512 → exec (.bitSlipSearch l found) s = .next (after s
      (if (portOf s (portOfLane s l)).stage = .align ∧ (laneOf s l).cw = false then
        let u := elapse s ((portOf s (portOfLane s l)).since + 2000000 - s.now)
        match found with
        | some k => updLane u l fun x => { x with slip := (x.slip + k) % 2720, cw := true }
        | none => u
       else s))) ∧
  (∀ s p, portExists s p = true → exec (.alignExit p) s = .next (after s
      (if (portOf s p).stage = .align ∧ lanesOrdered s p = true then
        let u := drawLanes (enterStage s p .identify) p 101 fun x v => { x with cw := true, skew := v }
        let least := (minBy (fun (n : Nat) => (n : Int)) ((lanesOf u p).map fun l => (laneOf u l).skew)).getD 0
        (lanesOf u p).foldl (fun s l => updLane s l fun x => { x with skew := x.skew - least }) u
       else s)))

/-- Identify to Up and back: an identity message is recorded, and with the partner's acknowledgement, and the module's own sent, the plan check sets
Verify or Quarantine; a timing message adds a sample and is answered; Verify ends Up with LINK_UP where the check passed and the rounds were clean; a
departure from Up sends LINK_DOWN with its cause and leaves the port disabled; a round's codewords are decoded, their corrected symbols counted, and an
uncorrectable one counts in the lanes that caused it, and in Quarantine a round of DATA among the discarded ones; a flushed port whose packets have
gone hitches again. The model's choices stated here: when identity and timing messages leave (log 28), the median of the samples (log 19), which
lanes lose swing or a lock (log 15), and VERIFY_END's wait (log 3) (04 R108, 12 R305, R308, R312, 13 R330, R332, R333, R339). -/
def Obligations.PortsComeUpAndGoDown : Prop :=
  (∀ s p m, portExists s p = true → exec (.identityMessage p m) s = .next (after s
      (match identOf m with
       | none => s
       | some i =>
        let note := fun (q : Port) => { q with pEpa := i.epa, pPort := i.port, pSerial := i.serial, gotId := true, acked := bit i.flags 0 }
        if (portOf s p).stage = .identify then
          let u := updPort (lineFill s p) p note
          if bit i.flags 0 = true then enterVerify (sendIdentity u p) p i else u
        else if (portOf s p).stage = .verify then updPort s p note
        else s))) ∧
  (∀ s p i, planCheck s p i = 1 → (portOf s p).cert = 0 →
      (portOf (enterVerify s p i) p).stage = .verify ∧ (portOf (enterVerify s p i) p).check = 1 ∧
      (portOf (enterVerify s p i) p).minor = min i.minor (ownMinor s)) ∧
  (∀ s p i r, r ≠ 2 → quarantine s p i r = emit (updPort s p fun q =>
      { q with stage := .quarantine, since := s.now, check := r, minor := 0, discarded := 0 }) evQuarantine [p, r, i.epa, i.port, i.serial]) ∧
  (∀ s p m (rx : U64), portExists s p = true →
      ¬ (m.length = 64 ∧ getLe m 0 1 = 2 ∧ getLe m 56 8 = crc64 (m.take 56) ∧ (portOf s p).stage = .verify) →
      exec (.timingMessage p m rx) s = .next (after s s)) ∧
  (∀ s p m (rx : U64), portExists s p = true → m.length = 64 → getLe m 0 1 = 2 → getLe m 56 8 = crc64 (m.take 56) →
      (portOf s p).stage = .verify → exec (.timingMessage p m rx) s = .next (after s
        (let u := sendTiming (updPort s p fun q => { q with lastT := some (getLe m 8 8, rx.toNat) }) p
         if getLe m 16 8 = 0 ∨ 8 ≤ (portOf u p).samples.length then u
         else
          let v := updPort u p fun q => { q with samples := q.samples ++
            [((rx.toNat : Int) - (getLe m 16 8 : Nat)) - ((getLe m 8 8 : Int) - (getLe m 24 8 : Nat))] }
          if (portOf v p).samples.length = 8 then
            let d := medianIn v 2 (portOf v p).samples
            updPort d.2 p fun q => { q with delay := d.1.toNat }
          else v))) ∧
  (∀ s p ue ce rx, portExists s p = true → exec (.verifyEnd p ue ce rx) s = .next (after s
      (if (portOf s p).stage = .verify then
        let u := countCe (elapse s ((portOf s p).since + 1000000 - s.now)) ce (lanesOf s p)
        if (portOf u p).check = 1 ∧ ue = 0 ∧ ce * 100000 ≤ rx ∧ (portOf u p).flushing = false then
          (if (portOf u p).cert = 2 then certPrbs u p else comeUp u p)
        else u
       else s))) ∧
  (∀ s p, (portOf (comeUp s p) p).stage = .up ∧ (portOf (comeUp s p) p).failures = 0 ∧
      (comeUp s p).lonus.evSeq = (s.lonus.evSeq + 1) % 2 ^ 64) ∧
  (∀ s p c, portExists s p = true → exec (.linkDown p c) s = .next (after s
      (if 2 ≤ c ∧ c ≤ 5 ∧ ¬ (c = 2 ∧ (portOf s p).rxIdle = true) then
        let u := if c = 2 then swingGone s p else if c = 5 then lockGone s p else s
        if (portOf u p).stage = .up then portDown u p c
        else if (portOf u p).stage = .quarantine ∧ c ≠ 4 then startHitch u p else u
       else s))) ∧
  (∀ s p, (portOf s p).stage = .up → ∀ c, (portOf (portDown s p c) p).stage = .disabled ∧ (portOf (portDown s p c) p).flushing = true ∧
      (portOf (portDown s p c) p).failCause = c) ∧
  (∀ s p ws hs, portExists s p = true → exec (.uncorrectableRound p ws hs) s = .next (after s
      (if dpRuns s = true then
        let u := (enum (lanesOf s p)).foldl (fun s e => match (ws[e.1]?).bind cwRead with
          | some x => updLane s e.2 fun y => { y with ce := satAdd 32 y.ce x.1 }
          | none => s) s
        if badLanes ws = [] then u else uncorrectable (quarRound u p ws) p (badLanes ws) hs
       else s))) ∧
  (∀ s p ws, quarRound s p ws = if (portOf s p).stage = .quarantine ∧ (∃ x, (ws.findSome? cwRead) = some x ∧ bits x.2.1 0 3 = 0) then
      updPort s p fun q => { q with discarded := min 15 (q.discarded + 1) } else s) ∧
  (∀ s p ls hs, (portOf s p).stage ≠ .up → uncorrectable s p ls hs =
      ((enum (lanesOf s p)).filter fun x => ls.contains x.1).foldl (fun s x => updLane s x.2 fun y => { y with ue := satInc 32 y.ue }) s) ∧
  (∀ s p, portExists s p = true → exec (.streamResume p) s = .next (after s (updPort s p fun q => { q with dropStream := false }))) ∧
  (∀ s p, portExists s p = true → exec (.portFlushed p) s = .next (after s
      (if (portOf s p).flushing = true ∧ towardPort s p = false ∧ (portOf s p).ovfList = [] then
        let u := emit (updPort s p fun q => { q with flushing := false, flushIn := 0, flushOut := 0, flushOvf := 0 }) evPortFlushed
          [p, (portOf s p).flushIn, (portOf s p).flushOut, (portOf s p).flushOvf]
        if (portOf s p).disabled = true ∨ dpRuns u = false then u else startHitch u p
       else s)))

/-- The axle: a SYNC on an Up port sets the port's offset rx - (value + d); a locked module sends a SYNC with its axle value on every Up, verified
port whose transmitter is not idle, each period, and as it is sent it takes the axle value of that moment; the servo's period ends at the next
multiple of 64 µs, where without an eligible port the runs restart and the axle keeps its last frequency, in holdover after 1 ms; 16 medians within 2
ns in a row lock, 16 beyond 8 ns in a row unlock a locked axle; the master plane locks itself 10 ms after its first port, and from its first lock on
runs free, with no correction. The model's choices stated here are log 19's (the free slew and median, holdover's start, the counters of a period
without a port, the partner's EPA as a SYNC's dst, the time base of the periods) and log 3's (the rows wait for their time) (13 R338, R340 to R343). -/
def Obligations.AxleRowsTakeEffect : Prop :=
  (∀ s p k (rx : U64), portExists s p = true → exec (.sync p k rx) s = .next (after s
      (if k.hdr.typ.toNat ≠ tSYNC then s
       else if receives s p = false then quarantined s p (packetBytes k).length
       else if trailerOk k = false then crcFailed (countArrival s p k) p k
       else
        let u := watchIngress (countArrival s p k) p k false none false
        updPort u p fun q => { q with syncOff := (rx.toNat : Int) - ((syncValue k.hdr : Int) + q.delay), syncAt := some u.now }))) ∧
  (∀ s, exec .syncSend s = .next (after s
      (if s.axle.locked = true ∧ dpRuns s = true then
        let u := elapse s (s.axle.lastSync + 1000 * syncUs s - s.now)
        let u := { u with axle := { u.axle with lastSync := u.now } }
        ((allPorts u).filter fun p => portOk u p && !(portOf u p).txIdle).foldl syncEnter u
       else s))) ∧
  (∀ s p k, k.hdr.typ.toNat = tSYNC →
      (transmit s p k).wire = (lineReady s p true).wire ++ [(p, stamped (lineReady s p true) k)] ∧
      syncValue (stamped (lineReady s p true) k).hdr = (lineReady s p true).axle.value % 2 ^ 64) ∧
  (∀ s, exec .axleServo s = .next (after s
      (if s.mod.st = .off then s
       else
        let dt := 64000 - s.now % 64000
        let u := elapse s dt
        if eligible u = [] then
          let w := if runsFree u = true then 0 else u.axle.slew
          let a := { u.axle with slew := w, value := twos 64 ((u.axle.value : Int) + max w (-(dt : Int))) }
          if a.lastElig + 1000000 ≤ u.now ∧ a.holdover = false then
            emit { u with axle := { a with eligible := 0, inBand := 0, outBand := 0, holdover := true } } evAxleHoldover []
          else { u with axle := { a with eligible := 0, inBand := 0, outBand := 0 } }
        else
          let v := medianIn u 1 ((eligible u).map fun p => (portOf u p).syncOff)
          let w := { v.2 with axle := { v.2.axle with
            eligible := (eligible u).length, median := v.1, holdover := false, lastElig := v.2.now } }
          lockCheck (steer w v.1 dt) v.1))) ∧
  (∀ s, runsFree s = true ↔ s.mod.plane = masterPlane s ∧ s.axle.everLock = true) ∧
  (∀ s m dt, runsFree s = true → steer s m dt = { s with axle := { s.axle with slew := 0 } }) ∧
  (∀ s m dt, runsFree s = false → s.mod.st = .setup → s.axle.everLock = false → 1000 < m.natAbs →
      steer s m dt = { s with axle := { s.axle with value := twos 64 ((s.axle.value : Int) - m), slew := 0 } }) ∧
  (∀ s m, m.natAbs ≤ 2 → 15 ≤ s.axle.inBand → (lockCheck s m).axle.locked = true ∧ (lockCheck s m).axle.everLock = true) ∧
  (∀ s m, 8 < m.natAbs → 15 ≤ s.axle.outBand → s.axle.locked = true → (lockCheck s m).axle.locked = false ∧
      (lockCheck s m).lonus.evSeq = (s.lonus.evSeq + 1) % 2 ^ 64) ∧
  (∀ s, exec .masterSelfLock s = .next (after s
      (match s.axle.firstUp with
       | some t =>
        if s.mod.plane = masterPlane s ∧ s.axle.locked = false ∧ s.axle.lastElig < t ∧ eligible s = [] then
          let u := elapse s (t + 10000000 - s.now)
          { u with axle := { u.axle with locked := true, everLock := true } }
        else s
       | none => s)))

/-- Packets that a link partner sends: each arrival row of its type is counted and processed on a port that receives (a replay's ports discard it,
counted, sampled and captured), and counts its rounds in Quarantine; a trailer that fails is counted, and draws a CRC NACK unless the packet is unnumbered; a reserved type is
refused with BADHDR; a row whose packet has another type changes nothing. That an arrival row is the instant of the packet, how Quarantine's rounds
are counted and that a replay's live packets stand in no recording are the model's readings (logs 17, 21) (02 R45, 03 R57, R58, R60, 11 R292, 13 R333,
17 R420, R428, R431). -/
def Obligations.ArrivingPacketsAreTaken : Prop :=
  (∀ s port p cs, portExists s port = true →
      let at_ := fun ok => after s (if ok then arrival s port p [] else s)
      let t := p.hdr.typ.toNat
      exec (.write port p) s = .next (at_ (decide (t = tWRITE))) ∧ exec (.readReq port p) s = .next (at_ (decide (t = tREADREQ))) ∧
      exec (.readRsp port p) s = .next (at_ (decide (t = tREADRSP))) ∧ exec (.atomic port p) s = .next (at_ (decide (t = tATOMIC))) ∧
      exec (.atomicRsp port p) s = .next (at_ (decide (t = tATOMICRSP))) ∧ exec (.galleyCall port p) s = .next (at_ (decide (t = tCALL))) ∧
      exec (.ack port p) s = .next (at_ (decide (t = tACK))) ∧ exec (.nack port p) s = .next (at_ (decide (t = tNACK))) ∧
      exec (.invalidTypePacket port p) s = .next (at_ (decide (12 ≤ t ∨ t = tRESULT ∨ t = tSHORTFALL))) ∧
      exec (.collContrib port p cs) s = .next (after s (if t = tCONTRIB then arrival s port p cs else s))) ∧
  (∀ s port p cs, arrival s port p cs =
      if receives s port = true then
        let u := countArrival s port p
        if replayMutes u port = true then liveSeen u port p (!trailerOk p) else process u port p cs
      else quarantined s port (packetBytes p).length) ∧
  (∀ s port p, (portOf (countArrival s port p) port).cnt.rxPkts = ((portOf s port).cnt.rxPkts + 1) % 2 ^ 64 ∧
      (portOf (countArrival s port p) port).cnt.rxCells = ((portOf s port).cnt.rxCells + cellsOf p) % 2 ^ 64 ∧
      (portOf (countArrival s port p) port).cnt.resendRx = ((portOf s port).cnt.resendRx + b2n (p.hdr.resend && trailerOk p)) % 2 ^ 32 ∧
      ∀ q, q ≠ port → portOf (countArrival s port p) q = portOf s q) ∧
  (∀ s port p cs, trailerOk p = false → process s port p cs = crcFailed s port p) ∧
  (∀ s port p cs, trailerOk p = true → process s port p cs = takePacket (watchIngress s port p false
      ((foretell s port p cs).1.map reasonCode) (foretell s port p cs).2) port p cs) ∧
  (∀ s port p, 12 ≤ p.hdr.typ.toNat → verdict s port p = .refuse .badHdr)

/-- The checks of 02 R45 in order on a packet whose trailer passed: header, source, destination (another module's EPA has no route), version, group,
block, state of the block; then forwarding inside the block, replication, or the module's own path; a packet to an accelerator or a group of another
block crosses. A forwarded packet joins its die's crossbar with one destination; a replicated one with a copy for each member's port on the die and one
for each other die with members, the members that have no usable way being missing. Where the refusals of an invalid group and a Writable version stand
among the checks is the model's choice (log 17), as is the input of a packet that comes over no port (log 16) (02 R45, R48, 05 R116, R117, R131,
R133). -/
def Obligations.ArrivalChecksDecideInOrder : Prop :=
  (∀ s port p, headerOk p.hdr = false → verdict s port p = .refuse .badHdr) ∧
  (∀ s port p, headerOk p.hdr = true → plannedEpa s port ≠ some p.hdr.src.toNat → verdict s port p = .refuse .badSrc) ∧
  (∀ s port p, headerOk p.hdr = true → plannedEpa s port = some p.hdr.src.toNat → p.hdr.mcast = false → validEpa p.hdr.dst.toNat = false →
      verdict s port p = .refuse .badEpa) ∧
  (∀ s port p, headerOk p.hdr = true → plannedEpa s port = some p.hdr.src.toNat → p.hdr.mcast = true → 4096 ≤ p.hdr.dst.toNat →
      verdict s port p = .refuse .badEpa) ∧
  (∀ s port p, headerOk p.hdr = true → plannedEpa s port = some p.hdr.src.toNat → p.hdr.mcast = false → validEpa p.hdr.dst.toNat = true →
      isModule p.hdr.dst.toNat = true → p.hdr.dst.toNat ≠ ownEpa s → verdict s port p = .refuse .noRoute) ∧
  (∀ s port p, headerOk p.hdr = true → plannedEpa s port = some p.hdr.src.toNat → p.hdr.mcast = true → p.hdr.dst.toNat < 4096 →
      verdict s port p = if verOf s (b2n p.hdr.epoch) = .writable then .stale
        else if mcastValid s (b2n p.hdr.epoch) p.hdr.dst.toNat = false then .refuse .noRoute else memberVerdict s p) ∧
  (∀ s p b, blockOfEpa s p.hdr.src.toNat = some b → (blockOf s b).st = .active → p.hdr.mcast = true →
      memberVerdict s p = if mcastOwner s (b2n p.hdr.epoch) (p.hdr.dst.toNat % 4096) = b then .replicate
        else .cross (mcastOwner s (b2n p.hdr.epoch) (p.hdr.dst.toNat % 4096))) ∧
  (∀ s port p q cs, let u := if headerOk p.hdr && decide (plannedEpa s port = some p.hdr.src.toNat) then skewCheck s p else s
      verdict u port p = .forward q → ∃ e, (hubOf (takePacket s port p cs) (dieOf u port)).xq = (hubOf u (dieOf u port)).xq ++ [e] ∧
        e.fl.pkt = p ∧ e.fl.arrPort = some port ∧ e.left = [(xdestOf u (dieOf u port) q, cellsOf p)]) ∧
  (∀ s d i fl r, let v := b2n fl.pkt.hdr.epoch
      let g := fl.pkt.hdr.dst.toNat % 4096
      let here := (((fanOut s v g fl.pkt.hdr.seq.toNat).1.filter fun e => decide (dieOf s e.2 = d)).map fun e => XDest.port e.2)
      let far := ((otherDies d).filter fun m => (mcastMembers s v g).any fun e => decide (memberDie s v d e = m)).map XDest.bridge
      here ++ far ≠ [] → ∃ e, (hubOf (replicate s d i false fl r) d).xq = (hubOf s d).xq ++ [e] ∧ e.fl = fl ∧ e.input = i ∧
        e.left = (here ++ far).map fun x => (x, cellsOf fl.pkt)) ∧
  (∀ s v g n e p, (e, p) ∈ (fanOut s v g n).1 ↔
      e ∈ mcastMembers s v g ∧ inBox (blockOf s (mcastOwner s v g)) e = true ∧ routeOf s v e n = some p) ∧
  (∀ s v g n e, (∃ r, (e, r) ∈ (fanOut s v g n).2) ↔
      e ∈ mcastMembers s v g ∧ (inBox (blockOf s (mcastOwner s v g)) e = false ∨ routeOf s v e n = none)) ∧
  (∀ s port p, headerOk p.hdr = true → plannedEpa s port = some p.hdr.src.toNat → p.hdr.mcast = false → validEpa p.hdr.dst.toNat = true →
      isModule p.hdr.dst.toNat = false ∨ p.hdr.dst.toNat = ownEpa s →
      verdict s port p = if verOf s (b2n p.hdr.epoch) = .writable then .stale else memberVerdict s p) ∧
  (∀ s p, blockOfEpa s p.hdr.src.toNat = none → memberVerdict s p = .refuse .noBlock) ∧
  (∀ s p b, blockOfEpa s p.hdr.src.toNat = some b → (blockOf s b).st = .faulted → memberVerdict s p = .refuse .jobFault) ∧
  (∀ s p b, blockOfEpa s p.hdr.src.toNat = some b → (blockOf s b).st = .loaded ∨ (blockOf s b).st = .paused →
      memberVerdict s p = .refuse .notActive) ∧
  (∀ s p b, blockOfEpa s p.hdr.src.toNat = some b → (blockOf s b).st = .active → p.hdr.mcast = false → isAccel p.hdr.dst.toNat = true →
      memberVerdict s p = if blockOfEpa s p.hdr.dst.toNat ≠ some b then .cross p.hdr.dst.toNat
        else match routeOf s (b2n p.hdr.epoch) p.hdr.dst.toNat p.hdr.seq.toNat with | some q => .forward q | none => .refuse .noRoute) ∧
  (∀ s p b, blockOfEpa s p.hdr.src.toNat = some b → (blockOf s b).st = .active → p.hdr.mcast = false → isAccel p.hdr.dst.toNat = false →
      memberVerdict s p = ownVerdict s p b)

/-- A number of a pair is accepted once: a packet that was accepted is a duplicate from then on, whatever the base has passed; the base never moves
past a number that was not received; a new packet counts toward its pair's ACK from its arrival (03 R63, R64, R73). -/
def Obligations.ReceiveWindowAcceptsOnce : Prop :=
  (∀ (r : Recv) d, d < 4096 → r.base < 2 ^ 32 →
      let r' := recvSet r d
      let moved := (r'.base + 2 ^ 32 - r.base) % 2 ^ 32
      moved ≤ 4096 ∧ (d < moved ∨ (moved ≤ d ∧ r'.map.getLsbD (d - moved) = true))) ∧
  (∀ (r : Recv) d, d < 4096 → r.base < 2 ^ 32 →
      let moved := ((recvSet r d).base + 2 ^ 32 - r.base) % 2 ^ 32
      ∀ k, k < moved → k = d ∨ r.map.getLsbD k = true) ∧
  (∀ (r : Recv) d k, d < 4096 → k < 4096 → r.base < 2 ^ 32 → r.map.getLsbD k = true →
      let moved := ((recvSet r d).base + 2 ^ 32 - r.base) % 2 ^ 32
      k < moved ∨ (recvSet r d).map.getLsbD (k - moved) = true) ∧
  (∀ s w, w.pkt.hdr.typ.toNat = tWRITE → beyondWin s w.pkt.hdr = false → isDup s w.pkt.hdr = true →
      takeLocal s w = some (dupTaken s w.port w.pkt) ∧ (dupTaken s w.port w.pkt).lard = s.lard) ∧
  (∀ s w, w.pkt.hdr.typ.toNat = tWRITE → beyondWin s w.pkt.hdr = false → isDup s w.pkt.hdr = false →
      takeLocal s w = some (ackCount (match w.req with
        | some r => lardEnter (recvNew s w.port w.pkt.hdr) r
        | none => recvNew s w.port w.pkt.hdr) w.came w.pkt.hdr))

/-- Queues over time: an Up port sends its next packet; the first held packet that its buckets and limits admit leaves its unit, a result whose hold
cannot be read faults its block instead; the Brake's rate rises by a step and never above the full rate; the expired timer of a packet re-sends it with
the doubled timeout, and at the limit faults its block; a coalesced ACK leaves with the pair's base and echoes the marks of what it covers; each of
these waits for its time. The model's choices stated here: the waits of BRAKE_INCREASE, RESEND_TIMEOUT and ACK_DELAY_EXPIRY (log 3), a multicast
packet's buckets and the other readings of log 16, the ACK's step field and what runs on after an ACK of a request (log 17), and the ECC operand with
the place that counts its errors (log 13) (03 R73, R79, R80, 04 R84, R103, R104, 06 R160, 10 R261). -/
def Obligations.QueuesOverTimeTakeEffect : Prop :=
  (∀ s p, portExists s p = true → exec (.packetTransmit p) s = .next (after s
      (match nextOut (portOf s p) with
       | none => s
       | some e =>
        let u := egRetry s p
        if (portOf u p).stage = .up ∧ (portOf u p).txIdle = false then
          let v := transmit (updPort u p fun q => { q with
            egq := q.egq.filter fun x => decide (x.fl.id ≠ e.fl.id), ctlq := q.ctlq.filter fun x => decide (x.fl.id ≠ e.fl.id) }) p e.fl.pkt
          settle (if nextOut (portOf v p) = none then updTx v p txClose else v)
        else u))) ∧
  (∀ s p k, (portOf (transmit s p k) p).cnt.txPkts = ((portOf s p).cnt.txPkts + 1) % 2 ^ 64) ∧
  (∀ s d ecc, d < 4 → exec (.brakeRelease d ecc) s = .next (after s
      (match (hubOf s d).held.find? (mayLeave s d) with
       | some x => if dpRuns s = true then releaseHeld s d x ecc else s
       | none => s))) ∧
  (∀ s d x ecc, (∀ h t c j, x.purpose ≠ .result h t c j) → releaseHeld s d x ecc = releasePacket s d x) ∧
  (∀ s d x h t c j, x.purpose = .result h t c j → releaseHeld s d x .ok = releaseResult s d x ∧
      releaseHeld s d x .corrected = releaseResult (ceCount s (spillBase s)) d x ∧
      ∀ y, ((ueMeter s (spillBase s)).coll.holds.find? fun z => decide (z.h = h ∧ z.step = t ∧ z.chunk = c)) = some y →
        releaseHeld s d x .uncorrectable =
          faultBlock (ueMeter s (spillBase s)) (harnOwner (ueMeter s (spillBase s)) h) evCollEcc [y.die, y.slot]) ∧
  (∀ s d e, d < 4 → isAccel e = true → exec (.brakeIncrease d e) s = .next (after s
      (let h := hubOf s d
       let u := elapse s (max (Tab.get 0 h.lastMark e) (Tab.get 0 h.lastInc e) + 1000 * aiInterval s d - s.now)
       updHub u d fun h => { h with rateCut := Tab.set 0 h.rateCut e (max 0 (Tab.get 0 h.rateCut e - (aiStep u d : Rat) / 16)),
                                    lastInc := Tab.set 0 h.lastInc e u.now }))) ∧
  (∀ s dst g n, exec (.resendTimeout dst g n) s = .next (after s
      (match s.e2e.out.find? (isOut (if g then 65536 + dst else dst) n) with
       | some o => (match o.expires with | some t => resend (elapse s (t - s.now)) o | none => s)
       | none => s))) ∧
  (∀ s o, o.limit ≤ o.tries → resend s o = faultBlock
      { s with e2e := { s.e2e with out := s.e2e.out.filter fun x => !isOut (pairKey o.pkt.hdr) o.pkt.hdr.seq.toNat x } } o.block evResendLimit []) ∧
  (∀ s o, o.tries < o.limit → o ∈ s.e2e.out → ∃ x ∈ (resend s o).e2e.out, x.pkt = o.pkt ∧ x.tries = o.tries + 1 ∧
      x.rto = min (2 * o.rto) 128000 ∧ x.expires = none) ∧
  (∀ s src, exec (.ackDelayExpiry src) s = .next (after s
      (if 0 < (recvOf s src).fresh then ackNow (elapse s ((recvOf s src).since + 100 * (recvOf s src).delay - s.now)) src else s))) ∧
  (∀ s src, (recvOf (ackNow s src) src).fresh = 0 ∧
      (recvOf (ackNow s src) src).marks = (recvOf s src).marks.filter (fun n => !ackCovers (recvOf s src) n) ∧
      (recvOf (ackNow s src) src).base = (recvOf s src).base)

/-- Overflow, depths, the crossbar and the exchange: below drain_low a port's overflow entries return in order, one that cannot be read faulting its
block, and with none left the port leaves overflow state; at 99 % fill the block charged with the most overflow bytes is faulted, again after 10 µs; each
window moves every port's mark depth, within its limits; each Up port counts a histogram bin. A cell time is the matching of 04 R88 between the heads that
may move: an output is matched once, with a head that asks for it, tclass 3 before the rest, round robin or, where depth mode chooses, the deepest queue,
counted where it differs; the pointers move in the first of three iterations alone; a matched cell that may still move leaves its input, into the egress
queue, to overflow or to flush at a port that is not Up; under STEADY the pointers return at an idle point. In an exchange the dies share echoes, overflow
states and missing members, sums of packets in flight end a drain, and blocks reach their boundary. The model's choices stated here are log 16's (ties,
alternation, pairs without room, bridge credit), log 3's wait of OVF_EXHAUSTED, and log 13's ECC operand (04 R83 to R88, R94, R96, R98, R100, R103,
05 R121, R129, R134, 10 R262, 11 R274, 17 R421). -/
def Obligations.QueueMaintenanceTakesEffect : Prop :=
  (∀ s p eccs, portExists s p = true → exec (.overflowDrain p eccs) s = .next (after s
      (if (portOf s p).ovf = true ∧ egOcc (portOf s p) < drainLow s p then
        let u := ovfEase (drainList (portOf s p).ovfList.length s p eccs)
        if (portOf u p).ovfList.isEmpty then updPort u p fun q => { q with ovf := false } else u
       else s))) ∧
  (∀ n s p es f fs, (portOf s p).ovfList = f :: fs → f.bad = false → egOcc (portOf s p) + cellsOf f.pkt ≤ ovfOn s p → egRoom s p f = true →
      drainList (n + 1) s p (.ok :: es) = drainList n (egInsert (updPort s p fun q => { q with ovfList := fs }) p f (cellsOf f.pkt)) p es ∧
      drainList (n + 1) s p (.uncorrectable :: es) = drainList n (ovfBad (ueMeter (updPort s p fun q => { q with ovfList := fs })
        (ovfBase (updPort s p fun q => { q with ovfList := fs }))) f) p es) ∧
  (∀ s, exec .ovfExhausted s = .next (after s
      (match minBy (fun b => -(ovfBytes s b : Int)) (loadedBlocks s) with
       | some b =>
        if ovfPct s < 99 ∨ ovfBytes s b = 0 then s
        else
          let u := match s.lard.lastOvfFault with | some t => elapse s (t + 10000 - s.now) | none => s
          let v := dropFlights (faultBlock u b evOvfExhausted []) fun fl => decide (fl.block = b)
          ovfEase { v with lard := { v.lard with lastOvfFault := some v.now } }
       | none => s))) ∧
  (∀ s, exec .markDepthWindow s = .next (after s ((allPorts s).foldl markWindow s))) ∧
  (∀ s p, (portOf (markWindow s p) p).winOvf = (portOf s p).ovf ∧ (portOf (markWindow s p) p).winMax = egOcc (portOf s p) ∧
      (∃ d, (portOf (markWindow s p) p).markDepth = some d ∧ markMin s p ≤ d ∧ d ≤ max (markMin s p) (markMax s p)) ∧
      ∀ q, q ≠ p → portOf (markWindow s p) q = portOf s q) ∧
  (∀ s, exec .queueHistogramSample s = .next (after s ((allPorts s).foldl histSample s))) ∧
  (∀ s p, (portOf s p).stage = .up → (portOf s p).ovf = true → Tab.get 0 (portOf (histSample s p) p).hist 15 =
      (Tab.get 0 (portOf s p).hist 15 + 1) % 2 ^ 32) ∧
  (∀ s, exec .queueStateExchange s = .next (after s
      (if dpRuns s = true then exchange ((allPorts s).foldl (fun s p => runLocal (s.localQ.length + 1) s p) s) else s))) ∧
  (∀ s, let u := shareMissing (shareOvf (shareEchoes s))
      let v := drained { u with epoch := { u.epoch with
        sumA := inFlight u false, sumB := inFlight u true, stamp := List.replicate 4 u.epoch.active } }
      exchange s = settle ((loadedBlocks v).foldl boundaryCheck v)) ∧
  (∀ s d p, d < 4 → (p ∈ (hubOf (shareOvf s) d).ovfView ↔ p ∈ allPorts s ∧ (portOf s p).ovf = true ∧ dieOf s p ≠ d)) ∧
  (∀ s d, d < 4 → (hubOf (shareEchoes s) d).echoes = []) ∧
  (∀ s, s.epoch.sealed = true → s.epoch.verA = .draining → inFlight s false = 0 →
      (drained s).epoch.verA = .writable ∧ (drained s).epoch.sealed = false) ∧
  (∀ s, s.epoch.sealed = false → drained s = s) ∧
  (∀ s d, d < 4 → exec (.crossbarCellTime d) s = .next (after s (if dpRuns s = true then cellTime s d else s))) ∧
  (∀ h dep rs b m, (m.acc.map XReq.out).Nodup → ((iterate h dep rs b m).acc.map XReq.out).Nodup) ∧
  (∀ h dep rs b m r, r ∈ (iterate h dep rs b m).acc → r ∈ m.acc ∨ (r ∈ rs ∧ r.ready = true ∧ ∀ a ∈ m.acc, a.inp ≠ r.inp ∧ a.out ≠ r.out)) ∧
  (∀ h dep rs m, (iterate h dep rs false m).gPtr = m.gPtr ∧ (iterate h dep rs false m).aPtr = m.aPtr) ∧
  (∀ h dep rs m o r k, grantOf h dep rs m o = some (r, k) → (dep = none → k = 0) ∧
      ∀ i, i < 32 → ∀ x, headReq h rs i o = some x → x.ctl = true → r.ctl = true) ∧
  (∀ d s r e x n, (hubOf s d).xq.find? (fun e => decide (e.fl.id = r.id)) = some e → (e.left.find? fun x => decide (x.1 = r.dest)) = some (x, n) →
      cellEligible s d e (x, n) = false → moveCell d s r = s) ∧
  (∀ s e p, (portOf s p).stage ≠ .up → cellToPort s e p e.cells = flushAt s p e.fl) ∧
  (∀ s e p, (portOf s p).stage = .up → diverts s p e.cells = true → cellToPort s e p e.cells = divertTo s p e.fl) ∧
  (∀ s e p, (portOf s p).stage = .up → diverts s p e.cells = false → cellToPort s e p e.cells = egInsert s p e.fl 1) ∧
  (∀ s d, steady s = true → (∀ e ∈ (hubOf s d).xq, holdsCell e = false) →
      ∀ j, j < 32 → (hubOf (reseed s d) d).gPtr[j]? = some (seedPtr (arbSeed s d) j) ∧
        (hubOf (reseed s d) d).aPtr[j]? = some (seedPtr (arbSeed s d) (32 + j))) ∧
  (∀ s d, steady s = false → reseed s d = s)

/-- A step boundary of a block: S becomes v + 1 and the close request ends; a block with a pause pending goes to Paused at it (01 R22, 11 R274). -/
def Obligations.StepBoundariesAdvanceBlocks : Prop :=
  (∀ s b v, (blockOf (boundary s b v) b).step = (v + 1) % 2 ^ 48 ∧ (blockOf (boundary s b v) b).close = none) ∧
  (∀ s b v, (blockOf s b).st = .active → (blockOf s b).pause = true →
      (blockOf (boundary s b v) b).st = .paused ∧ (blockOf (boundary s b v) b).pause = false) ∧
  (∀ s b v, (blockOf s b).st = .active → (blockOf s b).pause = false → s.mod.st ≠ .drain → (blockOf (boundary s b v) b).st = .active) ∧
  (∀ s b, (blockOf s b).close = none → boundaryCheck s b = s) ∧
  (∀ s b v, (blockOf s b).close = some v → quiescent s b = false → boundaryCheck s b = s) ∧
  (∀ s b v, (blockOf s b).close = some v → quiescent s b = true → boundaryCheck s b = boundary s b v)

/-- Collective rows: a ready leaf state whose cells fit leaves its slot for the bridge, unless its memory fails; a state that arrives with room enters the
root; an expired chunk timer, which runs in the die's crossbar clock, faults the owner block with the missing ranks; an exhausted spill region faults the
block charged with most of it, again after 10 µs. The model's choices stated here: the rows' waits (log 3), the ECC operand and the Ladle's checks as
operands (log 13), and the sizes of leaf states and spilled chunks (log 17) (06 R149 to R154, R160, R161). -/
def Obligations.CollectiveRowsTakeEffect : Prop :=
  (∀ s d h st c ecc cs, d < 4 → h < 1024 → exec (.leafStateSend d h st c ecc cs) s = .next (after s
      (let k : CKey := { die := d, h := h, step := st, chunk := c }
       match slotAt s k with
       | none => s
       | some x =>
        if dpRuns s = true ∧ x.ready = true ∧ bridgeUse s d (treeRoot c) + leafCells s x ≤ 512 then
          if ecc = .uncorrectable then faultBlock s (harnOwner s h) evCollEcc [d, x.num]
          else collFollow (freeSlotAt { s with coll := { s.coll with flight := s.coll.flight ++ [(leafCells s x, k, leafItem x)] } } k) d h cs
        else s))) ∧
  (∀ s d h st c cs, d < 4 → h < 1024 → exec (.leafStateArrival d h st c cs) s = .next (after s
      (let k : CKey := { die := d, h := h, step := st, chunk := c }
       let r : CKey := { k with die := treeRoot c }
       match s.coll.flight.find? fun f => decide (f.2.1 = k) with
       | none => s
       | some f =>
        if dpRuns s = false ∨ (needsSpill s r = true ∧ spillRoom s f.2.2 = false) then s
        else enterItem { s with coll := { s.coll with flight := s.coll.flight.erase f } } r cs f.2.2))) ∧
  (∀ s d h st c, d < 4 → h < 1024 → exec (.collTimeout d h st c) s = .next (after s
      (let k : CKey := { die := d, h := h, step := st, chunk := c }
       match ((slotAt s k).map fun x => (x.startAt, x.seen)).or
         ((s.coll.spills.find? fun x => decide (x.key = k)).map fun x => (x.startAt, x.items.map CItem.rank)) with
       | none => s
       | some (t, seen) =>
        let left := t + 1000 * harnTimeout s h - xTime s d
        let u := elapse s (if (hubOf s d).stretch = true then 2 * left else left)
        if (blockOf s (harnOwner s h)).st = .unloaded ∨ (blockOf s (harnOwner s h)).st = .faulted then u
        else emitX (faultBlockK u (harnOwner s h) none) evCollTimeout (harnOwner s h) [st, c, d] (leBytes 32 (ranksMissing u k seen))))) ∧
  (∀ s p, portExists s p = true → exec (.spillExhausted p) s = .next (after s
      (if spillFull s = true ∧ scaleCells s p (ingDivert s (dieOf s p)) < waitCells s p then
        match minBy (fun b => -(spillCharge s b : Int)) (loadedBlocks s) with
        | none => s
        | some b =>
          let u := match s.coll.lastSpillFault with | some t => elapse s (t + 10000 - s.now) | none => s
          let v := faultBlock u b evSpillExhausted []
          { v with coll := { v.coll with lastSpillFault := some v.now } }
       else s)))

/-- Contributions: the checks of 06 R146 in order (harness, step, chunk, length and check bit, fast add under STEADY, membership) and 07 R179's sum-check,
a refused one being answered, one of a rank that is no member faulting its block, after which it draws JOBFAULT; an item goes into its chunk's slot once
per rank, elements being added exactly, unless the Ladle's own checks fail; node additions of fast mode are made and counted before their duplicate
adder is compared; a second item of a rank faults the block with COLL_DUPLICATE; a chunk waits until its count is the expected one, and a leaf's is then
ready to send. That the Ladle's checks are operands is log 13's DESIGN CHOICE (06 R146, R148, R150, R153, R160, 07 R178, R179). -/
def Obligations.ContributionsAreAddedOncePerRank : Prop :=
  (∀ s d p, (harnOf s (bits p.hdr.op.toNat 0 10)).loaded = false → contribCheck s d p = .refused .noHarness) ∧
  (∀ s d p, let h := bits p.hdr.op.toNat 0 10
      (harnOf s h).loaded = true → 4 ≤ (p.hdr.step.toNat + 65536 - (harnOf s h).base % 65536) % 65536 → contribCheck s d p = .refused .stepWin) ∧
  (∀ s d p, let h := bits p.hdr.op.toNat 0 10
      let w := (p.hdr.step.toNat + 65536 - (harnOf s h).base % 65536) % 65536
      let c := p.hdr.chunk.toNat
      (harnOf s h).loaded = true → w < 4 → contribCheck s d p =
        if chunksOf s h ≤ c ∨ 32 * p.hdr.len.toNat ≠ contribBytes s h c ∨ bit p.hdr.op.toNat 10 ≠ sumChecked s h then .refused .badHdr
        else if harnFast s h = true ∧ steady s = true then .refused .badOp
        else match (accelMembers s h).find? fun e => decide (e.2 = p.hdr.src.toNat) with
          | none => .fault evCollNotMember
          | some e =>
            if harnFast s h = true ∧ sumChecked s h = true ∧ sumCheck (decodeChunk 0 (elemsOf s h c) p.payload) ≠ p.hdr.aux.toNat then
              .fault evCollSumcheck
            else .key { die := d, h := h, step := ((harnOf s h).base + w) % 2 ^ 48, chunk := c } (itemOf s h c e.1 p.hdr.aux.toNat p.payload)) ∧
  (∀ s w r, contribCheck s (dieOf s w.port) w.pkt = .refused r →
      contribTaken s w = some (refuseLocal (recvNew s w.port w.pkt.hdr) w.port w.pkt r)) ∧
  (∀ s w code, contribCheck s (dieOf s w.port) w.pkt = .fault code →
      contribTaken s w = some (orFaulted (faultBlock (recvNew s w.port w.pkt.hdr) w.block code []) w)) ∧
  (∀ s w, (blockOf s w.block).st = .faulted → orFaulted s w = nackRefused s w.port w.pkt .jobFault) ∧
  (∀ s w k i, contribCheck s (dieOf s w.port) w.pkt = .key k i → (needsSpill s k = true ∧ spillRoom s i = false → contribTaken s w = none) ∧
      (needsSpill s k = false → contribTaken s w =
        some (orFaulted (enterItem (recvNew s w.port w.pkt.hdr) k w.check i) w))) ∧
  (∀ s k c i x, slotAt s k = some x → x.seen.contains i.rank = true →
      slotAdd s k c i = faultBlock s (harnOwner s k.h) evCollDuplicate []) ∧
  (∀ s k i x, slotAt s k = some x → x.seen.contains i.rank = false →
      slotAdd s k .memory i = faultBlock s (harnOwner s k.h) evCollEcc [k.die, x.num]) ∧
  (∀ s k c i x, slotAt s k = some x → x.seen.contains i.rank = false → c ≠ .memory → residueFails s x c i = true →
      slotAdd s k c i = faultBlock (if harnFast s k.h = true then ladleAdd s x c i else s) (harnOwner s k.h) evCollResidue []) ∧
  (∀ s k i x, slotAt s k = some x → x.seen.contains i.rank = false → harnOp s k.h = 0 → harnFast s k.h = false →
      residueFails s x .ok i = false → ∃ y, slotAt (slotAdd s k .ok i) k = some y ∧
        y.elems = (x.elems.zip i.elems).map (fun e => accAdd e.1 e.2) ∧ y.seen = x.seen ++ [i.rank] ∧ y.count = x.count + 1) ∧
  (∀ n s k cs x, slotAt s k = some x → x.count ≠ expected s k → finish (n + 1) s k cs = (s, cs)) ∧
  (∀ n s k cs x, slotAt s k = some x → x.count = expected s k → x.ready = false → harnFast s k.h = false → k.die ≠ treeRoot k.chunk →
      finish (n + 1) s k cs = (updSlot s k fun x => { x with ready := true }, cs)) ∧
  (∀ s k cs i, inWindow s k.h k.step = false → enterItem s k cs i =
      { s with coll := { s.coll with early := s.coll.early ++ [{ key := k, items := [i], startAt := s.now }] } })

/-- Descriptors: the first that its place has room for is read and checked; an accepted one leaves its thread awake and joins its engine's queue, or the
wait pool where it waits for a slot, any other faults its thread; a released one joins its engine's queue; one that waits past its image's limit faults
with cause 4; completion frees the engine and adds the bytes written and one packet to the done slot. ENGINE_WAIT_LIMIT's wait is log 3's and the ECC
operand log 13's DESIGN CHOICE (09 R211 to R217). -/
def Obligations.DescriptorsAreAcceptedAndCompleted : Prop :=
  (∀ s die e ecc, die < 4 → e < 6 → exec (.descriptorAccept die e ecc) s = .next (after s (if dpRuns s = true then descAccept s die e ecc else s))) ∧
  (∀ s die e ecc d a, (((submitters s die).filterMap (submitted s e)).find? fun x => acceptRoom s x.1) = some (d, a) →
      descAccept s die e ecc =
        (let r := thrRead s d.t a 64 ecc
         if r.1 = none then r.2
         else match acceptFault r.2 d a with
         | some (c, x) => threadFault r.2 d.t c x
         | none =>
          let u := retire { r.2 with descId := r.2.descId + 1 } d.t
          if waitEn d then updHub u die fun h => { h with waitPool := h.waitPool ++ [d] }
          else updEng u die e fun g => { g with queue := g.queue ++ [d] })) ∧
  (∀ s die e ecc, (((submitters s die).filterMap (submitted s e)).find? fun x => acceptRoom s x.1) = none → descAccept s die e ecc = s) ∧
  (∀ s die, die < 4 → exec (.descriptorWaitRelease die) s = .next (after s
      (match (hubOf s die).waitPool.find? fun d => waitDone s d && decide ((engOf s die d.engine).queue.length < 64) with
       | none => s
       | some d =>
        if dpRuns s = true then updEng (updHub s die fun h => { h with waitPool := h.waitPool.erase d })
          die d.engine fun g => { g with queue := g.queue ++ [d], released := (g.released + 1) % 2 ^ 32 }
        else s))) ∧
  (∀ s die, die < 4 → exec (.engineWaitLimit die) s = .next (after s
      (match minBy (fun d => ((d.at_ + 1000 * (imgOf s d.image).waitUs : Nat) : Int)) ((hubOf s die).waitPool.filter fun d => !waitDone s d) with
       | none => s
       | some d => if dpRuns s = true then engFault (elapse s (d.at_ + 1000 * (imgOf s d.image).waitUs + 1 - s.now)) d 4 0 else s))) ∧
  (∀ s die e cyc, die < 4 → e < 6 → exec (.descriptorComplete die e cyc) s = .next (after s
      (match (engOf s die e).exec with
       | none => s
       | some (d, n) =>
        if dpRuns s = true ∧ putPending s die d.id = false then
          let u := updEng s die e fun g => { g with exec := none, cycles := (g.cycles + cyc) % 2 ^ 64, done := (g.done + 1) % 2 ^ 32 }
          if doneEn d then countPlaced u d.block (fld d 2 2) n 1 else u
        else s))) ∧
  (∀ s b k n p, slotOf (countPlaced s b k n p) k = cslotAdd (slotOf s k) n p)

/-- The Ladle's descriptors at an idle engine: data that cannot be read faults with cause 1, else CONTRIB enters its item at the root; ACC_INIT writes
negative-zero states; ACC_ADD adds its inputs exactly to the states, a failed memory or residue check faulting with cause 1 or 5; ACC_ROUND rounds each
state once to its output; what cannot be read is reported with LARDER_UE where it stands in the larder. The ECC and residue outcomes as operands, and
the residue check of ACC_INIT, are log 13's (07 R165, R166, R180, 09 R217, R219 to R222, 10 R262). -/
def Obligations.LadleDescriptorsTakeEffect : Prop :=
  (∀ s die ecc c cs, die < 4 →
      exec (.contrib die ecc cs) s = .next (after s (engTurn die 0 0 ecc (fun s d => runContrib s d cs) s)) ∧
      exec (.accInit die c) s = .next (after s (engTurn die 0 1 .ok (fun s d =>
        accDone s d c (match c with | .upset j x => if j < accN d ∧ x ≠ 0 then some j else none | _ => none)
          (List.replicate (accN d) .negZero)) s)) ∧
      exec (.accAdd die ecc c) s = .next (after s (engTurn die 0 2 ecc (fun s d => runAccAdd s d c) s)) ∧
      exec (.accRound die ecc) s = .next (after s (engTurn die 0 3 ecc runAccRound s))) ∧
  (∀ die e op ecc body s, engTurn die e op ecc body s =
      match engTake s die e op with
      | none => s
      | some d => match (readSpans s d).findSome? (engBad s d), readSpans s d with
        | some a, _ => engUe s d a
        | none, [] => body s d
        | none, x :: _ => if ecc = .uncorrectable then engUe s d x.1 else body (engEcc s d x.1 ecc) d) ∧
  (∀ s d a, engUe s d a = engFault (match placeOf s d.t a with
      | .larder l _ => emitB (ueCount s l) d.block evLarderUe (ueItems s (l / 32 * 32))
      | _ => s) d 1 a) ∧
  (∀ s d cs,
      let h := cHarn d
      let ch := fld d 24 4
      let n := contribBytes s h ch
      let k : CKey := { die := treeRoot ch, h := h, step := ((harnOf s h).base + cDist s d) % 2 ^ 48, chunk := ch }
      let i := itemOf s h ch (fld d 18 1) (fld d 28 4) (engRead s d (fld d 32 8) n)
      cDist s d < 4 → (harnOf s h).formed.contains (k.step, ch) = false → harnFast s h = false → needsSpill s k = false →
      runContrib s d cs = enterItem (engRun s d n) k cs i) ∧
  (∀ s d miss new, accDone s d .memory miss new = engFault s d 1 (fld d 40 8)) ∧
  (∀ s d c j new, c ≠ .memory → accDone s d c (some j) new = engFault s d 5 (fld d 40 8 + 40 * j)) ∧
  (∀ s d c new, c ≠ .memory → accDone s d c none new = engRun (engWrite s d (fld d 40 8) (new.flatMap accBytes)) d (40 * accN d)) ∧
  (∀ s d c a, accStates s d = .inr a → runAccAdd s d c = engFault s d 1 a ∧ runAccRound s d = engFault s d 1 a) ∧
  (∀ s d old, accStates s d = .inl old →
      (∀ e ∈ enum (old.zip (decodeChunk (accFmt d) (accN d) (engRead s d (fld d 24 8) (vecSize (accFmt d) (accN d))))),
        residueMiss .ok e.1 e.2.1 e.2.2 = false) → runAccAdd s d .ok = engRun (engWrite s d (fld d 40 8)
        (((old.zip (decodeChunk (accFmt d) (accN d) (engRead s d (fld d 24 8) (vecSize (accFmt d) (accN d))))).map
          fun e => accAdd e.1 e.2).flatMap accBytes)) d (40 * accN d)) ∧
  (∀ s d st, accStates s d = .inl st → runAccRound s d =
      (let out := (encodeChunk (accFmt d) st (engDraw s d)).take (vecSize (accFmt d) (accN d))
       engRun (engWrite s d (fld d 32 8) out) d out.length))

/-- The Sieve's and the Tongs' descriptors at an idle engine: TOPK writes the first k records of the ranking, SORT all, THRESH those that meet the
threshold, in element order, SELECT_RANK the one of its rank; GATHER and SCATTER move elements in index order, PAGE_GATHER and PAGE_SCATTER tokens
through the page list, each to its place, and end with the engine's bytes; a place outside faults with cause 3, an entry that may not be used with
cause 2, unreadable data with cause 1. That an output of THRESH outside its ranges faults is log 18's, the ECC operand log 13's (09 R217, R225 to R228). -/
def Obligations.SieveAndTongsDescriptorsTakeEffect : Prop :=
  (∀ s die ecc, die < 4 →
      exec (.topk die ecc) s = .next (after s (engTurn die 1 0 ecc (fun s d => sieveOut s d ((sieveRank s d).take (sieveK d))) s)) ∧
      exec (.sort die ecc) s = .next (after s (engTurn die 1 1 ecc (fun s d => sieveOut s d (sieveRank s d)) s)) ∧
      exec (.thresh die ecc) s = .next (after s (engTurn die 1 2 ecc runThresh s)) ∧
      exec (.selectRank die ecc) s = .next (after s (engTurn die 1 3 ecc
        (fun s d => sieveOut s d (((sieveRank s d).drop (sieveK d)).take 1)) s)) ∧
      exec (.gather die ecc) s = .next (after s (engTurn die 2 0 ecc (fun s d => idxMove d false (tCount d) 0 s) s)) ∧
      exec (.scatter die ecc) s = .next (after s (engTurn die 2 1 ecc (fun s d => idxMove d true (tCount d) 0 s) s)) ∧
      exec (.pageGather die ecc) s = .next (after s (engTurn die 2 2 ecc (fun s d => pageMove d false (tCount d) 0 none s) s)) ∧
      exec (.pageScatter die ecc) s = .next (after s (engTurn die 2 3 ecc (fun s d => pageMove d true (tCount d) 0 none s) s))) ∧
  (∀ s d, (sieveRank s d).Perm (sieveRecs s d)) ∧
  (∀ s d, (sieveRank s d).Pairwise fun a b => keyLe (decide (fld d 17 1 = 1)) a.1 b.1 = true) ∧
  (∀ s d rs, sieveOut s d rs = engRun (engWrite s d (fld d 40 8) (rs.flatMap Prod.snd)) d (rs.flatMap Prod.snd).length) ∧
  (∀ s d, runThresh s d =
      (let kt := fld d 16 1
       let thr := sieveKey kt (fld d 28 4 % 2 ^ (8 * keySize kt))
       let hit := (sieveRecs s d).filter fun r => match r.1, thr with
         | some x, some y => if fld d 17 1 = 1 then decide (x ≤ y) else decide (y ≤ x)
         | _, _ => false
       if engOk s d (fld d 40 8) (hit.length * sieveRec d) 1 = true then sieveOut s d hit else engFault s d 3 (fld d 40 8))) ∧
  (∀ s d n i, let p := idxPlace s d i
      let b := fld d 40 8 + i * tEl d
      engOk s d p (tEl d) 1 = true → (engBad s d (b, tEl d) = none → idxMove d true (n + 1) i s =
        idxMove d true n (i + 1) (engWrite s d p (engRead s d b (tEl d)))) ∧
      ∀ a, engBad s d (b, tEl d) = some a → idxMove d true (n + 1) i s = engUe s d a) ∧
  (∀ s d n i a, engOk s d (idxPlace s d i) (tEl d) 0 = true → engBad s d (idxPlace s d i, tEl d) = some a →
      idxMove d false (n + 1) i s = engUe s d a) ∧
  (∀ s d sc i cur, idxMove d sc 0 i s = engRun s d (tCount d * tEl d) ∧ pageMove d sc 0 i cur s = engRun s d (tCount d * tEl d)) ∧
  (∀ s d n i, let j := (tFirst d + i) / max 1 (tTpp d)
      let e := getLe (engRead s d (fld d 32 8 + 8 * j) 8) 0 8
      let p := e + (tFirst d + i) % max 1 (tTpp d) * tEl d
      let b := fld d 40 8 + i * tEl d
      (∀ cur, cur = none ∨ cur = some (j, e) → pageOk s d e 0 = true → engBad s d (p, tEl d) = none → pageMove d false (n + 1) i cur s =
        pageMove d false n (i + 1) (some (j, e)) (engWrite s d b (engRead s d p (tEl d)))) ∧
      (∀ cur, cur = none ∨ cur = some (j, e) → pageOk s d e 1 = true → engBad s d (b, tEl d) = none → pageMove d true (n + 1) i cur s =
        pageMove d true n (i + 1) (some (j, e)) (engWrite s d p (engRead s d b (tEl d))))) ∧
  (∀ s d n i, let p := idxPlace s d i
      engOk s d p (tEl d) 0 = true → engBad s d (p, tEl d) = none → idxMove d false (n + 1) i s =
        idxMove d false n (i + 1) (engWrite s d (fld d 40 8 + i * tEl d) (engRead s d p (tEl d)))) ∧
  (∀ s d n i sc, engOk s d (idxPlace s d i) (tEl d) (b2n sc) = false → idxMove d sc (n + 1) i s = engFault s d 3 (idxPlace s d i)) ∧
  (∀ s d n i sc cur, let j := (tFirst d + i) / max 1 (tTpp d)
      let e := match cur with | some (k, e) => if k = j then e else getLe (engRead s d (fld d 32 8 + 8 * j) 8) 0 8
                              | none => getLe (engRead s d (fld d 32 8 + 8 * j) 8) 0 8
      pageOk s d e (b2n sc) = false → pageMove d sc (n + 1) i cur s = engFault s d 2 e)

/-- The other engines' descriptors at an idle engine: CONVERT scales each element exactly and rounds it once into its output; CRC64, SHAKE256 and SUMCHECK
write their digests; PUT sends its buffer as WRITEs of at most 2,048 B whose addresses follow each other, in order, with the bytes of the buffer, and
its completion counts them all. Fill bytes of an output are free values (log 7), the ECC operand is log 13's (09 R229 to R235). -/
def Obligations.WhiskCheckAndPutTakeEffect : Prop :=
  (∀ s die ecc, die < 4 →
    exec (.convert die ecc) s = .next (after s (engTurn die 3 0 ecc runConvert s)) ∧
    exec (.crc64 die ecc) s = .next (after s (engTurn die 4 0 ecc (fun s d => engRun
      (engWrite s d (fld d 32 8) (leBytes 8 (crc64 (engRead s d (fld d 24 8) (fld d 20 4))))) d 8) s)) ∧
    exec (.shake256 die ecc) s = .next (after s (engTurn die 4 1 ecc (fun s d => checkOut s d
      (shake256 (engRead s d (fld d 24 8) (fld d 20 4)) (fld d 17 1))) s)) ∧
    exec (.sumcheck die ecc) s = .next (after s (engTurn die 4 2 ecc (fun s d => engRun (engWrite s d (fld d 32 8) (leBytes 4 (sumCheck
      (decodeChunk (fld d 16 1) (fld d 20 4) (engRead s d (fld d 24 8) (chunkBytes (fld d 16 1) (fld d 20 4))))))) d 4) s)) ∧
    exec (.put die ecc) s = .next (after s (engTurn die 5 0 ecc runPut s))) ∧
  (∀ s d, let n := fld d 20 4
      let el := (decodeChunk (wIn d) n (engRead s d (fld d 24 8) (vecSize (wIn d) n))).map (whiskScale (wShift d))
      let out := (encodeChunk (wOut d) el (engDraw s d) 213).take (vecSize (wOut d) n)
      runConvert s d = engRun (engWrite s d (fld d 32 8) out) d out.length) ∧
  (∀ sh a, -64 ≤ sh → whiskScale sh (.fin a) = (let v := a * 2 ^ (sh + 64).toNat
      if (2 ^ 374 : Int) ≤ v then .pInf else if v < -(2 ^ 374 : Int) then .nInf else .fin v)) ∧
  (∀ n (l : List Byte), l.length ≤ 2048 * n → (partsOfResult n l).flatten = l ∧
      ∀ j x, (partsOfResult n l)[j]? = some x → x = (l.drop (2048 * j)).take 2048 ∧ x ≠ []) ∧
  (∀ s d, ∃ ks, (hubOf (runPut s d) d.t.die).held = (hubOf s d.t.die).held ++ ks ∧
      ks.map (fun x => x.pkt.payload) = partsOfResult (putBytes d / 2048 + 1) (engRead s d (fld d 24 8) (putBytes d)) ∧
      ∀ j x, ks[j]? = some x → x.purpose = .put d.t.die d.id ∧ x.pkt.hdr.addr = BitVec.ofNat 48 (fld d 32 6 + 2048 * j) ∧
        x.pkt.hdr.typ.toNat = tWRITE ∧ x.pkt.hdr.dst.toNat = putDst d % 2 ^ 16) ∧
  (∀ s d, (engOf (runPut s d) d.t.die d.engine).exec = some (d, putBytes d)) ∧
  (∀ s d, (hubOf (runPut s d) d.t.die).held.length = (hubOf s d.t.die).held.length +
    (partsOfResult (putBytes d / 2048 + 1) (engRead s d (fld d 24 8) (putBytes d))).length) ∧
  (∀ s d out, checkOut s d out = engRun (engWrite s d (fld d 32 8) out) d out.length)

/-- A step with a command at the front of the queue is that command's execution on the state with the queue's rest; a command's next state keeps
the queue's rest and what the factory fixed. On an empty queue one nanosecond passes and, where a galley thread is live, one core may issue the
instruction that its turn's thread stands before: an integer operation writes its result and goes on, a jump and a taken branch go where they say
(08 R185, R200); which happens on an empty queue, and when, is the model's choice, logs 1 and 18. -/
def Obligations.StepRunsTheFrontCommand : Prop :=
  (∀ c rest s, s.pending = c :: rest → step s = exec c { s with pending := rest }) ∧
  (∀ c s t, exec c s = .next t → t.pending = s.pending ∧ t.fixed = s.fixed) ∧
  (∀ s, s.pending = [] → step s = .next (after s (idleTick s))) ∧
  (∀ s, (∀ e ∈ s.thr, e.2.live = false) → idleTick s = { s with
    now := s.now + 1, axle := if s.mod.st = .off then s.axle else { s.axle with value := (s.axle.value + 1) % 2 ^ 64 } }) ∧
  (∀ s run, (liveCores (timeTick s)).filterMap (coreIssue (timeTick s)) = [run] → idleTick s = run (timeTick s)) ∧
  (∀ s c k run, firstFrom 4 (Tab.get 0 s.issue (coreKey c)) (fun k => ready s { c with thread := k }) = some k →
    standing s { c with thread := k } = .base run → ∃ f, coreIssue s c = some f ∧ f s = run (issued s { c with thread := k })) ∧
  (∀ s t op rd a b word, meaningOf s t (.op op rd a b word) = .base fun u =>
    retire (updThr u t fun x => rvSetX x rd (aluRun word op (rvX x a) (rvX x b))) t) ∧
  (∀ s t f3 a b imm, branchTaken f3 (rvX (thrOf s t) a) (rvX (thrOf s t) b) = true →
    meaningOf s t (.branch f3 a b imm) = baseJump t none (effAddr (thrOf s t).pc imm)) ∧
  (∀ s t w i, (thrOf s t).pc ≠ (thrOf s t).stub → fetchIns s t = some w → decInstr w = some i → standing s t = meaningOf s t i)

/-- What every step keeps, whatever command it runs and in every state: the module is in Run only while a block is Active, since Run ends as the last
Active block leaves it (01 R17); the alert byte is noted, so that the next change of it is seen (14 R371, R372); over any number of steps the factory's
facts are those at the start and the queue has lost its first commands alone. -/
def Obligations.StepsNoteTheAlertByte : Prop :=
  (∀ s t, step s = .next t → t.mod.st = .run → ∃ e ∈ t.blocks, e.2.st = .active) ∧
  (∀ n s t, RunHasActive s → Sys2Proof.core.run n s = .next t → RunHasActive t) ∧
  (∀ c rest s t, s.pending = c :: rest → step s = .next t → AlertNoted t ∧ t.pending = rest ∧ t.fixed = s.fixed) ∧
  (∀ s t, AlertNoted s → step s = .next t → AlertNoted t) ∧
  (∀ n s t, AlertNoted s → Sys2Proof.core.run n s = .next t → AlertNoted t ∧ t.fixed = s.fixed ∧ t.pending = s.pending.drop n)

/-- Every step keeps the byte memories of the larder, of scratch and of the clusters in their canonical form, from every state that has it, whatever the
front command is and whatever a galley core issues on an empty queue; the state after reset has it. That memory is such a list is the model's (log 4). -/
def Obligations.StepsKeepMemoryCanonical : Prop :=
  MemoryCanonical State.reset ∧ (∀ s t, MemoryCanonical s → step s = .next t → MemoryCanonical t) ∧
  (∀ n s t, MemoryCanonical s → Sys2Proof.core.run n s = .next t → MemoryCanonical t)

/-- The machine after reset: Off, no command waiting, no session, no presence, no seal open, every block undefined, every harness and image Free,
count slots and the axle counter 0 and unlocked, both table versions Writable, no window enabled, every memory canonical and nothing listed in
it, no alert (00, 01 R17, 02 R33, 02 R40, 03 R68, 05 R126, 13 R338). Values the spec does not give are the model's (log 2). -/
def Obligations.ResetStateIsOff : Prop :=
  State.reset.mod.st = .off ∧ State.reset.pending = [] ∧ State.reset.lonus.opened = false ∧ State.reset.lonus.orphan = false ∧
  State.reset.mgmt.opened = false ∧ (∀ b, (blockOf State.reset b).st = .unloaded) ∧ (∀ h, (harnOf State.reset h).loaded = false) ∧
  (∀ i, (imgOf State.reset i).st = 0) ∧ (∀ k, slotOf State.reset k = { bytes := 0, packets := 0, ovf := false }) ∧
  State.reset.axle.value = 0 ∧ State.reset.axle.locked = false ∧ State.reset.epoch.verA = .writable ∧ State.reset.epoch.verB = .writable ∧
  (∀ w, winEnable (winOf State.reset w) = false) ∧ (∀ p, (portOf State.reset p).stage ≠ .up) ∧
  Mem.wf State.reset.lard.mem = true ∧ Mem.wf State.reset.scratch = true ∧ Mem.wf State.reset.cmem = true ∧
  State.reset.lard.mem = [] ∧ State.reset.scratch = [] ∧ State.reset.cmem = [] ∧ alertByte State.reset = 0 ∧ AlertNoted State.reset ∧
  (∀ r d, regAt State.reset r d = d)

/-- Every Lonus command alike: where a check of 14 R358 fails, the command completes with that check's status, without items or bulk, and does
nothing else; where its turn has not come, or in Off, nothing changes. A completed command leaves the outstanding ones; in its own, open session
exactly one response with its tag, opcode and status is queued and kept for a tag that is sent again, in another session none, but that a SESSION_OPEN is
always answered. That a row whose tag no frame brought is a command of the open session, and which command a tag names where sessions share it, are log
12's DESIGN CHOICE (14 R353 to R355, R358). -/
def Obligations.RefusedCommandsAnswerAStatusAlone : Prop :=
  (∀ c s tag op st, lonusOf c = some (tag, op) → s.mod.st ≠ .off → mayStart s tag op = true → precheck s op = some st →
      exec c s = .next (answered s s tag op (st, [], []))) ∧
  (∀ c s tag op, lonusOf c = some (tag, op) → s.mod.st = .off ∨ mayStart s tag op = false → exec c s = .next (after s s)) ∧
  (∀ s op, s.mod.bootRom = true → op ∉ bootCmds → cmdRow op ≠ none → precheck s op = some .denied) ∧
  (∀ s op m p, cmdRow op = some (m, p, false) → s.lonus.orphan = true → precheck s op = some .denied) ∧
  (∀ s op m o, cmdRow op = some (m, true, o) → s.mod.bootRom = false → s.lonus.orphan = false → bit m (stateCode s.mod.st) = true →
      s.mgmt.opened = false → precheck s op = some .noPresence) ∧
  (∀ s tag op r, s.lonus.opened = true → cmdOf s tag = none ∨ (∃ c, cmdOf s tag = some c ∧ c.session = s.lonus.session) →
      let x : Response := { tag := tag, op := op, status := statusCode r.1, payload := r.2.1, bulk := r.2.2, axle := s.axle.value }
      (complete s tag op r).lonus.respQ = s.lonus.respQ ++ [x] ∧ x ∈ (complete s tag op r).lonus.kept) ∧
  (∀ s tag op r c, cmdOf s tag = some c → c.session ≠ s.lonus.session → op ≠ 0x0240 → (complete s tag op r).lonus.respQ = s.lonus.respQ ∧
      (complete s tag op r).lonus.kept = s.lonus.kept) ∧
  (∀ s tag r, ∃ x, (complete s tag 0x0240 r).lonus.respQ = s.lonus.respQ ++ [x] ∧ x.tag = tag ∧ x.status = statusCode r.1) ∧
  (∀ s tag op r c, cmdOf s tag = some c → (complete s tag op r).lonus.outstanding = s.lonus.outstanding.erase c) ∧
  (∀ s tag op r, s.lonus.opened = false → op ≠ 0x0240 → (complete s tag op r).lonus.respQ = s.lonus.respQ)

/-- The packet header's layout loses nothing: 32 bytes, from which every header is read back; the trailer does not depend on the mark bit, and a
packet formed by the module passes its check (03 R54, R59, R60). -/
def Obligations.HeadersAndTrailersRoundTrip : Prop :=
  (∀ h, headerOf (headerBytes h) = h ∧ (headerBytes h).length = 32) ∧
  (∀ h p m, trailerOf { h with mark := m } p = trailerOf h p) ∧
  (∀ p m, trailerOk (withMark p m) = trailerOk p) ∧
  (∀ h (p : List Byte), p.length % 32 = 0 → p.length ≤ 2048 → trailerOk (mkPacket h p) = true)

/-- State addition as its table gives it, row by row in order, and symmetric in its operands (07 R169). Sums of finite states that leave the finite
range are 07 R170's. -/
def Obligations.StateAdditionFollowsItsTable : Prop :=
  (∀ s t, s = .nan ∨ t = .nan → accAdd s t = .nan) ∧
  (∀ s t, (s = .pInf ∧ t = .nInf) ∨ (s = .nInf ∧ t = .pInf) → accAdd s t = .nan) ∧
  (∀ s t i, i = .pInf ∨ i = .nInf → s ≠ .nan → t ≠ .nan → s = i ∨ t = i → (s ≠ .pInf ∨ t ≠ .nInf) → (s ≠ .nInf ∨ t ≠ .pInf) →
      accAdd s t = i) ∧
  accAdd .negZero .negZero = .negZero ∧
  (∀ a, accAdd .negZero (.fin a) = .fin a ∧ accAdd (.fin a) .negZero = .fin a) ∧
  (∀ a b, -(2 ^ 310) ≤ a + b → a + b < 2 ^ 310 → accAdd (.fin a) (.fin b) = .fin (a + b)) ∧
  (∀ a b, 2 ^ 310 ≤ a + b → accAdd (.fin a) (.fin b) = .pInf) ∧
  (∀ a b, a + b < -(2 ^ 310) → accAdd (.fin a) (.fin b) = .nInf) ∧
  (∀ s t, accAdd s t = accAdd t s)

/-- The sum of a slot's element does not depend on the order in which its at most 256 inputs arrive: each input of a supported format is below 2^143
in magnitude, so that no partial sum leaves the finite range (07 R166, R169, R170; 06 R150). -/
def Obligations.SlotSumsAreOrderFree : Prop :=
  ∀ l m : List Acc, l.Perm m → l.length ≤ 256 → (∀ a, Acc.fin a ∈ l → a.natAbs < 2 ^ 292) →
    l.foldl accAdd .negZero = m.foldl accAdd .negZero

/-- Count slots: the 64-bit word of a slot spells it back; two updates have the same sum in either order; an update that would carry a field past its
maximum leaves both fields at their maximum with ovf set, and sends the block to Faulted with CSLOT_OVERFLOW (03 R68 to R70); that the event's item
is the slot number is the model's choice (log 17). -/
def Obligations.CountSlotsSaturateAndFault : Prop :=
  (∀ c : CSlot, c.bytes < 2 ^ 40 → c.packets < 2 ^ 23 → cslotOfWord (cslotWord c) = c ∧ cslotWord c < 2 ^ 64) ∧
  (∀ (c : CSlot) n j m k, cslotAdd (cslotAdd c n j) m k = cslotAdd (cslotAdd c m k) n j) ∧
  (∀ s b k n p, (slotOf s k).bytes + n ≤ 2 ^ 40 - 1 → (slotOf s k).packets + p ≤ 2 ^ 23 - 1 → slotOf (countPlaced s b k n p) k =
      { slotOf s k with bytes := (slotOf s k).bytes + n, packets := (slotOf s k).packets + p }) ∧
  (∀ s b k n p, (slotOf s k).bytes + n > 2 ^ 40 - 1 ∨ (slotOf s k).packets + p > 2 ^ 23 - 1 →
      slotOf (countPlaced s b k n p) k = { bytes := 2 ^ 40 - 1, packets := 2 ^ 23 - 1, ovf := true }) ∧
  (∀ s b k n p, (slotOf s k).bytes + n > 2 ^ 40 - 1 ∨ (slotOf s k).packets + p > 2 ^ 23 - 1 → (blockOf s b).st ≠ .unloaded →
      (blockOf s b).st ≠ .faulted → (blockOf (countPlaced s b k n p) b).st = .faulted ∧ ∃ u, countPlaced s b k n p = emitB u b evCslotOverflow [k])

/-- The 16-bit values that are valid EPAs: kind 0 with bits 14 to 7 zero, whose bits 6:4, 3:2 and 1:0 are x, y and z; kind 1 with bits 14 to 4 zero,
whose bits 3:0 are the plane, as in the module's own EPA; every other value is invalid (02 R27). -/
def Obligations.EndpointAddressLayout : Prop :=
  (∀ e : BitVec 16, validEpa e.toNat = true ↔
    (e.getLsbD 15 = false ∧ e.extractLsb' 7 8 = 0) ∨ (e.getLsbD 15 = true ∧ e.extractLsb' 4 11 = 0)) ∧
  (∀ e : BitVec 16, isAccel e.toNat = true ↔ e.getLsbD 15 = false ∧ e.extractLsb' 7 8 = 0) ∧
  (∀ e : BitVec 16, isModule e.toNat = true ↔ e.getLsbD 15 = true ∧ e.extractLsb' 4 11 = 0) ∧
  (∀ e : BitVec 16, epaX e.toNat = (e.extractLsb' 4 3).toNat ∧ epaY e.toNat = (e.extractLsb' 2 2).toNat ∧
    epaZ e.toNat = (e.extractLsb' 0 2).toNat) ∧
  (∀ s, s.mod.plane < 16 → isModule (ownEpa s) = true ∧ ownEpa s % 16 = s.mod.plane)

/-- The stored plan loses nothing: 2,120 bytes with their CRC-64, from which the plan is read back (13 R324). -/
def Obligations.PlansRoundTrip : Prop :=
  ∀ p : Plan, p.plane < 256 → p.rackPos < 256 → p.edits < 65536 → p.planId < 2 ^ 64 → p.widths.length = 16 → (∀ w ∈ p.widths, w < 4) →
    p.entries.length = 256 → (∀ e ∈ p.entries, e.epa < 65536 ∧ e.state < 256 ∧ e.partnerPort < 256) →
    planOf (planBytes p) = p ∧ (planBytes p).length = 2120 ∧ getLe (planBytes p) 2112 8 = crc64 ((planBytes p).take 2112)
end

