-- ==== Sys2Proof/Laws/Bits.lean ====
section
/-! SUPPORT. Byte order and sorting: what little-endian bytes read back as, and that sorting only reorders. -/

namespace Sys2Proof.Machine

-- Little-endian bytes (00 R7)

@[simp] theorem leBytes_length (n v : Nat) : (leBytes n v).length = n := by
  induction n generalizing v with
  | zero => rfl
  | succ n ih => simp [leBytes, ih]

theorem ofLe_leBytes (n v : Nat) : ofLe (leBytes n v) = v % 256 ^ n := by
  induction n generalizing v with
  | zero => simp [leBytes, ofLe, Nat.mod_one]
  | succ n ih =>
    have e : v % 256 ^ (n + 1) = v % 256 + 256 * (v / 256 % 256 ^ n) := by rw [pow_succ', Nat.mod_mul]
    rw [e]
    simp [leBytes, ofLe, ih]

/-- A field that lies inside the first of two pieces. -/
theorem getLe_append_left (a b : List Byte) (off n : Nat) (h : off + n ≤ a.length) : getLe (a ++ b) off n = getLe a off n := by
  unfold getLe slice
  have e : ((a ++ b).drop off).take n = (a.drop off).take n := by
    rw [List.drop_append_of_le_length (by omega), List.take_append_of_le_length (by simp; omega)]
  simp only [e]

/-- A field that lies past the first of two pieces. -/
theorem getLe_append_right (a b : List Byte) (off n : Nat) (h : a.length ≤ off) :
    getLe (a ++ b) off n = getLe b (off - a.length) n := by
  unfold getLe slice
  rw [List.drop_append]
  simp only [List.drop_eq_nil_of_le h, List.nil_append]

theorem getLe_leBytes (n v : Nat) : getLe (leBytes n v) 0 n = v % 256 ^ n := by
  unfold getLe slice
  simp only [List.drop_zero, List.take_of_length_le (le_of_eq (leBytes_length n v)), leBytes_length, Nat.sub_self,
    List.replicate_zero, List.append_nil, ofLe_leBytes]

-- CRC-64 (03 R59)

theorem crc64Bits_lt (n c : Nat) (h : c < 2 ^ 64) : crc64Bits n c < 2 ^ 64 := by
  induction n generalizing c with
  | zero => exact h
  | succ n ih =>
    refine ih _ ?_
    unfold crc64Bit
    split
    · exact Nat.xor_lt_two_pow (by omega) (by decide)
    · omega

theorem crc64_lt (bs : List Byte) : crc64 bs < 2 ^ 64 := by
  have run : ∀ (l : List Byte) c, c < 2 ^ 64 → crc64Run c l < 2 ^ 64 := by
    intro l
    induction l with
    | nil => intro c h; exact h
    | cons b l ih =>
      intro c h
      have hb : b.toNat < 2 ^ 64 := lt_trans b.isLt (by decide)
      exact ih _ (crc64Bits_lt 8 _ (Nat.xor_lt_two_pow h hb))
  exact Nat.xor_lt_two_pow (run bs _ (by decide)) (by decide)

-- Sorting

theorem insertBy_perm {α : Type} (le : α → α → Bool) (x : α) (l : List α) : (insertBy le x l).Perm (x :: l) := by
  induction l with
  | nil => exact List.Perm.refl _
  | cons y l ih =>
    unfold insertBy
    split
    · exact (ih.cons y).trans (List.Perm.swap _ _ _)
    · exact List.Perm.refl _

/-- Sorting reorders and does nothing else. -/
theorem sortBy_perm {α : Type} (le : α → α → Bool) (l : List α) : (sortBy le l).Perm l := by
  have key : ∀ (l acc : List α), (l.foldl (fun acc x => insertBy le x acc) acc).Perm (l ++ acc) := by
    intro l
    induction l with
    | nil => intro acc; exact List.Perm.refl _
    | cons x l ih => exact fun acc => (ih _).trans (((insertBy_perm le x acc).append_left l).trans List.perm_middle)
  have h := key l []
  rw [List.append_nil] at h
  exact h

end Sys2Proof.Machine
end

