-- ==== Sys2Proof/Laws/Command.lean ====
section
/-! SUPPORT. What the shared operations of every command do: the outcome operations, the execution of a Lonus command, its completion. -/

namespace Sys2Proof.Machine

/-- Every meaning that completes ends here. -/
theorem done_eq (s t : State) : done s t = .next (after s t) := rfl

/-- A row about a unit that the module has completes with the row's effect. -/
theorem onUnit_of {ok : Bool} (h : ok = true) (s : State) (f : State → State) : onUnit ok s f = .next (after s (f s)) := by
  simp [onUnit, h, done_eq]

/-- A row about a unit that the module lacks stops by name (log 5). -/
theorem onUnit_absent {ok : Bool} (h : ok = false) (s : State) (f : State → State) : onUnit ok s f = .fault .noSuchUnit := by
  simp [onUnit, h, absent]

/-- An executed command completes with what its body answers. -/
theorem lonusCmd_runs {s : State} {tag op : Nat} {args : List Item} (h : Runs s tag op args) (body : State → State × Option Reply) {t : State}
    {r : Reply} (hb : body s = (t, some r)) : lonusCmd tag op args s body = .next (answered s t tag op r) := by
  obtain ⟨h1, h2, h3, h4, h5⟩ := h
  simp [lonusCmd, runCmd, h1, h2, h3, h4, h5, hb, done_eq, answered]

/-- An executed command that completes later stays outstanding. -/
theorem lonusCmd_later {s : State} {tag op : Nat} {args : List Item} (h : Runs s tag op args) (body : State → State × Option Reply) {t : State}
    (hb : body s = (t, none)) : lonusCmd tag op args s body = .next (after s (keepOutstanding t tag op)) := by
  obtain ⟨h1, h2, h3, h4, h5⟩ := h
  simp [lonusCmd, runCmd, h1, h2, h3, h4, h5, hb, done_eq]

/-- An executed command ends as its body says. -/
theorem lonusCmd_ends {s : State} {tag op : Nat} {args : List Item} (h : Runs s tag op args) (body : State → State × Option Reply) :
    lonusCmd tag op args s body = .next (ends s tag op (body s)) := by
  rcases hb : body s with ⟨t, _ | r⟩
  · exact lonusCmd_later h body hb
  · exact lonusCmd_runs h body hb

@[simp] theorem ends_answer (s t : State) (tag op : Nat) (r : Reply) : ends s tag op (answer t r) = answered s t tag op r := rfl
@[simp] theorem ends_fail (s t : State) (tag op : Nat) (st : Status) : ends s tag op (fail t st) = answered s t tag op (rep st) := rfl

/-- A command that a check of 14 R358 refuses answers that status and does nothing else. -/
theorem lonusCmd_refused {s : State} {tag op : Nat} {args : List Item} {st : Status} (h1 : s.mod.st ≠ .off) (h2 : mayStart s tag op = true)
    (h3 : precheck s op = some st) (body : State → State × Option Reply) :
    lonusCmd tag op args s body = .next (answered s s tag op (rep st)) := by
  simp [lonusCmd, runCmd, h1, h2, h3, done_eq, answered]

/-- A row whose operands are not those of its frame changes nothing (14 R356). -/
theorem lonusCmd_notAsked {s : State} {tag op : Nat} {args : List Item} (h1 : s.mod.st ≠ .off) (h2 : mayStart s tag op = true)
    (h3 : precheck s op = none) (h4 : sized s tag op args = true) (h5 : asked s tag args = false) (body : State → State × Option Reply) :
    lonusCmd tag op args s body = .next (after s s) := by
  simp [lonusCmd, runCmd, h1, h2, h3, h4, h5, done_eq]

/-- A command whose payload has not the length of its parameters answers BADPARAM and does nothing else (14 R356, R358). -/
theorem lonusCmd_unsized {s : State} {tag op : Nat} {args : List Item} (h1 : s.mod.st ≠ .off) (h2 : mayStart s tag op = true)
    (h3 : precheck s op = none) (h4 : sized s tag op args = false) (body : State → State × Option Reply) :
    lonusCmd tag op args s body = .next (answered s s tag op (rep .badParam)) := by
  simp [lonusCmd, runCmd, h1, h2, h3, h4, done_eq, answered]

/-- A command whose turn has not come changes nothing. -/
theorem lonusCmd_waits {s : State} {tag op : Nat} {args : List Item} (h : s.mod.st = .off ∨ mayStart s tag op = false)
    (body : State → State × Option Reply) : lonusCmd tag op args s body = .next (after s s) := by
  rcases h with h | h <;> simp [lonusCmd, runCmd, h, done_eq]

@[simp] theorem after_pending (s t : State) : (after s t).pending = s.pending := rfl
@[simp] theorem after_fixed (s t : State) : (after s t).fixed = s.fixed := rfl

/-- The end of Run changes the module's state alone. -/
theorem endRun_eq (s : State) : ∃ m, endRun s = { s with mod := { s.mod with st := m } } ∧ (m = s.mod.st ∨ s.mod.st = .run ∧ m = .ready) := by
  unfold endRun
  split
  · next h => exact ⟨.ready, rfl, .inr ⟨h.1, rfl⟩⟩
  · exact ⟨s.mod.st, rfl, .inl rfl⟩

/-- Run with an Active block, and every other state, stay. -/
theorem endRun_of {s : State} (h : s.mod.st = .run → anyActive s = true) : endRun s = s := by
  unfold endRun
  rw [if_neg]
  rintro ⟨h1, h2⟩
  rw [h h1] at h2
  cases h2

/-- After the end of Run, Run has an Active block. -/
theorem endRun_run (s : State) : (endRun s).mod.st = .run → anyActive (endRun s) = true := by
  unfold endRun
  split
  · intro h; cases h
  · next h => intro h1; rw [← Bool.not_eq_false]; exact fun h2 => h ⟨h1, h2⟩

/-- The end of Run does not change the alert byte. -/
theorem alertByte_endRun (s : State) : alertByte (endRun s) = alertByte s := by
  unfold endRun
  split
  · next h => simp only [alertByte, alive, alertN, pwrAlertN, leakN, holdN, h.1]; rfl
  · rfl

@[simp] theorem after_lastAlert (s t : State) : (after s t).i3c.lastAlert = alertByte t := alertByte_endRun t

/-- Every next state of a command has an Active block in Run (01 R17). -/
theorem after_run (s t : State) : (after s t).mod.st = .run → anyActive (after s t) = true := endRun_run t

/-- The instruction before which the thread of a row stands completes with its effect, in the thread's turn. -/
theorem issueRow_runs {s : State} {t : ThreadRef} (h1 : thrExists t = true) (h2 : turn s t = true) (f : Meaning → Option (State → State))
    {g : State → State} (h3 : f (standing s t) = some g) : issueRow t s f = .next (after s (g (issued s t))) := by
  simp [issueRow, onUnit_of h1, h2, h3]

/-- An instruction of a thread whose turn has not come does not issue. -/
theorem issueRow_waits {s : State} {t : ThreadRef} (h1 : thrExists t = true) (h2 : turn s t = false) (f : Meaning → Option (State → State)) :
    issueRow t s f = .next (after s s) := by
  simp [issueRow, onUnit_of h1, h2]

/-- A row of an instruction before which its thread does not stand changes nothing. -/
theorem issueRow_other {s : State} {t : ThreadRef} (h1 : thrExists t = true) (f : Meaning → Option (State → State))
    (h3 : f (standing s t) = none) : issueRow t s f = .next (after s s) := by
  simp [issueRow, onUnit_of h1, h3]

/-- An Xtzgal instruction before which its thread stands completes with its effect. -/
theorem tzRow_runs {s : State} {t : ThreadRef} {op : TzOp} {rd rs1 rs2 : Nat} (h1 : thrExists t = true) (h2 : turn s t = true)
    (h3 : standing s t = .tz op rd rs1 rs2) (f : State → State) : tzRow t s op rd rs1 rs2 f = .next (after s (f (issued s t))) := by
  unfold tzRow
  exact issueRow_runs h1 h2 _ (by simp [h3, need])

/-- Good data counts nothing. -/
theorem engEcc_ok (s : State) (d : Desc) (a : Nat) : engEcc s d a .ok = s := by
  unfold engEcc; cases placeOf s d.t a <;> rfl

/-- The row of an operation of a die's engine completes with the operation. -/
theorem engRow_runs {die : Nat} (h : die < 4) (e op : Nat) (ecc : Ecc) (s : State) (body : State → Desc → State) :
    engRow die e op ecc s body = .next (after s (engTurn die e op ecc body s)) := onUnit_of (decide_eq_true h) s _

/-- An operation on the descriptor at the front of an idle engine's queue, whose data ECC finds good, runs its body. -/
theorem engTurn_ok {s : State} {die e op : Nat} {d : Desc} (h : engTake s die e op = some d) (hb : ∀ x ∈ readSpans s d, engBad s d x = none)
    (body : State → Desc → State) : engTurn die e op .ok body s = body s d := by
  have hf : (readSpans s d).findSome? (engBad s d) = none := List.findSome?_eq_none_iff.mpr hb
  simp only [engTurn, h, hf]
  cases hr : readSpans s d with
  | nil => rfl
  | cons x xs => simp only [engEcc_ok, reduceCtorEq, if_false]

/-- Bringing the Lonus line up to now changes its transmitter alone. -/
theorem lonusFill_eq (s : State) : lonusFill s = { s with lonus := { s.lonus with tx := (lonusFill s).lonus.tx } } := by
  unfold lonusFill; split <;> rfl

/-- A frame sent changes of the port its transmitter, the record of frames and that of the last 10 µs, and waits (14 R367). -/
theorem sendFrame_lonus (s : State) (x : Frame) : (sendFrame s x).lonus = { s.lonus with
    tx := (sendFrame s x).lonus.tx, sent := s.lonus.sent ++ [x],
    recent := (s.lonus.recent.filter fun e => decide ((sendFrame s x).now < e.1 + 10000)) ++
      [((sendFrame s x).now, frameSize x.payload.length)] } := by
  have go : ∀ (u : State) (n : Nat), (∃ tx, u.lonus = { s.lonus with tx := tx }) →
      let w := updLTx (waitUntil u (txFree lonusLine u.lonus.tx)) fun t => txSend lonusLine (frameBytes x) t
      let v := updLonus w fun l => { l with
        sent := l.sent ++ [x], recent := (l.recent.filter fun e => decide (w.now < e.1 + 10000)) ++ [(w.now, n)] }
      v.lonus = { s.lonus with
        tx := v.lonus.tx, sent := s.lonus.sent ++ [x],
        recent := (s.lonus.recent.filter fun e => decide (v.now < e.1 + 10000)) ++ [(v.now, n)] } := by
    rintro u n ⟨tx, h⟩
    simp [updLonus, updLTx, waitUntil, elapse, h]
  refine go _ _ ⟨(lonusFill (waitUntil s (rateAt (rateBytes s.lonus) (frameSize x.payload.length) s.now s.lonus.recent))).lonus.tx, ?_⟩
  rw [lonusFill_eq]
  rfl

/-- What a session's end leaves of the port (14 R351, R352). -/
theorem endSession_lonus (s : State) : (endSession s).lonus = { s.lonus with
    stream := (endSession s).lonus.stream, gapT := (endSession s).lonus.gapT, gapM := (endSession s).lonus.gapM,
    opened := false, closing := none, outstanding := s.lonus.outstanding.filter fun c => c.bulkDone,
    kept := [], respQ := [], bulkQ := [], telemQ := [], mirrorQ := [] } := by
  have sd : ∀ (l : Lonus) b n, streamDrop l b n = { l with
      stream := (streamDrop l b n).stream, gapT := (streamDrop l b n).gapT, gapM := (streamDrop l b n).gapM } := by
    intro l b n; unfold streamDrop; split <;> rfl
  have sa : ∀ s : State, (stageAbort s).lonus = s.lonus := fun _ => rfl
  simp only [endSession, updLonus]
  rw [sd (streamDrop _ _ _), sd _ true]
  split <;> simp [sa]

/-- The alert byte depends on no queue, no fixed fact and no noted byte. -/
theorem alertByte_after (s t : State) : alertByte (after s t) = alertByte t := alertByte_endRun t

end Sys2Proof.Machine
end

