-- ==== Sys2Proof/Laws/State.lean ====
section
/-! SUPPORT. What each shared update of the state does to each field, so that no proof unfolds a record update. -/

namespace Sys2Proof.Machine

-- updLonus

@[simp] theorem updLonus_pending (s : State) (f : Lonus → Lonus) : (updLonus s f).pending = s.pending := rfl
@[simp] theorem updLonus_now (s : State) (f : Lonus → Lonus) : (updLonus s f).now = s.now := rfl
@[simp] theorem updLonus_freeCtr (s : State) (f : Lonus → Lonus) : (updLonus s f).freeCtr = s.freeCtr := rfl
@[simp] theorem updLonus_flightId (s : State) (f : Lonus → Lonus) : (updLonus s f).flightId = s.flightId := rfl
@[simp] theorem updLonus_fixed (s : State) (f : Lonus → Lonus) : (updLonus s f).fixed = s.fixed := rfl
@[simp] theorem updLonus_nv (s : State) (f : Lonus → Lonus) : (updLonus s f).nv = s.nv := rfl
@[simp] theorem updLonus_mod (s : State) (f : Lonus → Lonus) : (updLonus s f).mod = s.mod := rfl
@[simp] theorem updLonus_lonus (s : State) (f : Lonus → Lonus) : (updLonus s f).lonus = f s.lonus := rfl
@[simp] theorem updLonus_i3c (s : State) (f : Lonus → Lonus) : (updLonus s f).i3c = s.i3c := rfl
@[simp] theorem updLonus_mgmt (s : State) (f : Lonus → Lonus) : (updLonus s f).mgmt = s.mgmt := rfl
@[simp] theorem updLonus_pwr (s : State) (f : Lonus → Lonus) : (updLonus s f).pwr = s.pwr := rfl
@[simp] theorem updLonus_therm (s : State) (f : Lonus → Lonus) : (updLonus s f).therm = s.therm := rfl
@[simp] theorem updLonus_cool (s : State) (f : Lonus → Lonus) : (updLonus s f).cool = s.cool := rfl
@[simp] theorem updLonus_ehrok (s : State) (f : Lonus → Lonus) : (updLonus s f).ehrok = s.ehrok := rfl
@[simp] theorem updLonus_regs (s : State) (f : Lonus → Lonus) : (updLonus s f).regs = s.regs := rfl
@[simp] theorem updLonus_held (s : State) (f : Lonus → Lonus) : (updLonus s f).held = s.held := rfl
@[simp] theorem updLonus_winEff (s : State) (f : Lonus → Lonus) : (updLonus s f).winEff = s.winEff := rfl
@[simp] theorem updLonus_winPend (s : State) (f : Lonus → Lonus) : (updLonus s f).winPend = s.winPend := rfl
@[simp] theorem updLonus_blocks (s : State) (f : Lonus → Lonus) : (updLonus s f).blocks = s.blocks := rfl
@[simp] theorem updLonus_noBlockAt (s : State) (f : Lonus → Lonus) : (updLonus s f).noBlockAt = s.noBlockAt := rfl
@[simp] theorem updLonus_cslots (s : State) (f : Lonus → Lonus) : (updLonus s f).cslots = s.cslots := rfl
@[simp] theorem updLonus_epoch (s : State) (f : Lonus → Lonus) : (updLonus s f).epoch = s.epoch := rfl
@[simp] theorem updLonus_harn (s : State) (f : Lonus → Lonus) : (updLonus s f).harn = s.harn := rfl
@[simp] theorem updLonus_coll (s : State) (f : Lonus → Lonus) : (updLonus s f).coll = s.coll := rfl
@[simp] theorem updLonus_localQ (s : State) (f : Lonus → Lonus) : (updLonus s f).localQ = s.localQ := rfl
@[simp] theorem updLonus_img (s : State) (f : Lonus → Lonus) : (updLonus s f).img = s.img := rfl
@[simp] theorem updLonus_clusters (s : State) (f : Lonus → Lonus) : (updLonus s f).clusters = s.clusters := rfl
@[simp] theorem updLonus_thr (s : State) (f : Lonus → Lonus) : (updLonus s f).thr = s.thr := rfl
@[simp] theorem updLonus_scratch (s : State) (f : Lonus → Lonus) : (updLonus s f).scratch = s.scratch := rfl
@[simp] theorem updLonus_cmem (s : State) (f : Lonus → Lonus) : (updLonus s f).cmem = s.cmem := rfl
@[simp] theorem updLonus_eng (s : State) (f : Lonus → Lonus) : (updLonus s f).eng = s.eng := rfl
@[simp] theorem updLonus_descId (s : State) (f : Lonus → Lonus) : (updLonus s f).descId = s.descId := rfl
@[simp] theorem updLonus_hub (s : State) (f : Lonus → Lonus) : (updLonus s f).hub = s.hub := rfl
@[simp] theorem updLonus_ports (s : State) (f : Lonus → Lonus) : (updLonus s f).ports = s.ports := rfl
@[simp] theorem updLonus_lanes (s : State) (f : Lonus → Lonus) : (updLonus s f).lanes = s.lanes := rfl
@[simp] theorem updLonus_lmap (s : State) (f : Lonus → Lonus) : (updLonus s f).lmap = s.lmap := rfl
@[simp] theorem updLonus_cmap (s : State) (f : Lonus → Lonus) : (updLonus s f).cmap = s.cmap := rfl
@[simp] theorem updLonus_code (s : State) (f : Lonus → Lonus) : (updLonus s f).code = s.code := rfl
@[simp] theorem updLonus_issue (s : State) (f : Lonus → Lonus) : (updLonus s f).issue = s.issue := rfl
@[simp] theorem updLonus_lard (s : State) (f : Lonus → Lonus) : (updLonus s f).lard = s.lard := rfl
@[simp] theorem updLonus_e2e (s : State) (f : Lonus → Lonus) : (updLonus s f).e2e = s.e2e := rfl
@[simp] theorem updLonus_axle (s : State) (f : Lonus → Lonus) : (updLonus s f).axle = s.axle := rfl
@[simp] theorem updLonus_cert (s : State) (f : Lonus → Lonus) : (updLonus s f).cert = s.cert := rfl
@[simp] theorem updLonus_certRuns (s : State) (f : Lonus → Lonus) : (updLonus s f).certRuns = s.certRuns := rfl
@[simp] theorem updLonus_certAt (s : State) (f : Lonus → Lonus) : (updLonus s f).certAt = s.certAt := rfl
@[simp] theorem updLonus_rings (s : State) (f : Lonus → Lonus) : (updLonus s f).rings = s.rings := rfl
@[simp] theorem updLonus_replay (s : State) (f : Lonus → Lonus) : (updLonus s f).replay = s.replay := rfl
@[simp] theorem updLonus_telem (s : State) (f : Lonus → Lonus) : (updLonus s f).telem = s.telem := rfl
@[simp] theorem updLonus_eye (s : State) (f : Lonus → Lonus) : (updLonus s f).eye = s.eye := rfl
@[simp] theorem updLonus_wire (s : State) (f : Lonus → Lonus) : (updLonus s f).wire = s.wire := rfl

-- updMod

@[simp] theorem updMod_pending (s : State) (f : Mod → Mod) : (updMod s f).pending = s.pending := rfl
@[simp] theorem updMod_now (s : State) (f : Mod → Mod) : (updMod s f).now = s.now := rfl
@[simp] theorem updMod_freeCtr (s : State) (f : Mod → Mod) : (updMod s f).freeCtr = s.freeCtr := rfl
@[simp] theorem updMod_flightId (s : State) (f : Mod → Mod) : (updMod s f).flightId = s.flightId := rfl
@[simp] theorem updMod_fixed (s : State) (f : Mod → Mod) : (updMod s f).fixed = s.fixed := rfl
@[simp] theorem updMod_nv (s : State) (f : Mod → Mod) : (updMod s f).nv = s.nv := rfl
@[simp] theorem updMod_mod (s : State) (f : Mod → Mod) : (updMod s f).mod = f s.mod := rfl
@[simp] theorem updMod_lonus (s : State) (f : Mod → Mod) : (updMod s f).lonus = s.lonus := rfl
@[simp] theorem updMod_i3c (s : State) (f : Mod → Mod) : (updMod s f).i3c = s.i3c := rfl
@[simp] theorem updMod_mgmt (s : State) (f : Mod → Mod) : (updMod s f).mgmt = s.mgmt := rfl
@[simp] theorem updMod_pwr (s : State) (f : Mod → Mod) : (updMod s f).pwr = s.pwr := rfl
@[simp] theorem updMod_therm (s : State) (f : Mod → Mod) : (updMod s f).therm = s.therm := rfl
@[simp] theorem updMod_cool (s : State) (f : Mod → Mod) : (updMod s f).cool = s.cool := rfl
@[simp] theorem updMod_ehrok (s : State) (f : Mod → Mod) : (updMod s f).ehrok = s.ehrok := rfl
@[simp] theorem updMod_regs (s : State) (f : Mod → Mod) : (updMod s f).regs = s.regs := rfl
@[simp] theorem updMod_held (s : State) (f : Mod → Mod) : (updMod s f).held = s.held := rfl
@[simp] theorem updMod_winEff (s : State) (f : Mod → Mod) : (updMod s f).winEff = s.winEff := rfl
@[simp] theorem updMod_winPend (s : State) (f : Mod → Mod) : (updMod s f).winPend = s.winPend := rfl
@[simp] theorem updMod_blocks (s : State) (f : Mod → Mod) : (updMod s f).blocks = s.blocks := rfl
@[simp] theorem updMod_noBlockAt (s : State) (f : Mod → Mod) : (updMod s f).noBlockAt = s.noBlockAt := rfl
@[simp] theorem updMod_cslots (s : State) (f : Mod → Mod) : (updMod s f).cslots = s.cslots := rfl
@[simp] theorem updMod_epoch (s : State) (f : Mod → Mod) : (updMod s f).epoch = s.epoch := rfl
@[simp] theorem updMod_harn (s : State) (f : Mod → Mod) : (updMod s f).harn = s.harn := rfl
@[simp] theorem updMod_coll (s : State) (f : Mod → Mod) : (updMod s f).coll = s.coll := rfl
@[simp] theorem updMod_localQ (s : State) (f : Mod → Mod) : (updMod s f).localQ = s.localQ := rfl
@[simp] theorem updMod_img (s : State) (f : Mod → Mod) : (updMod s f).img = s.img := rfl
@[simp] theorem updMod_clusters (s : State) (f : Mod → Mod) : (updMod s f).clusters = s.clusters := rfl
@[simp] theorem updMod_thr (s : State) (f : Mod → Mod) : (updMod s f).thr = s.thr := rfl
@[simp] theorem updMod_scratch (s : State) (f : Mod → Mod) : (updMod s f).scratch = s.scratch := rfl
@[simp] theorem updMod_cmem (s : State) (f : Mod → Mod) : (updMod s f).cmem = s.cmem := rfl
@[simp] theorem updMod_eng (s : State) (f : Mod → Mod) : (updMod s f).eng = s.eng := rfl
@[simp] theorem updMod_descId (s : State) (f : Mod → Mod) : (updMod s f).descId = s.descId := rfl
@[simp] theorem updMod_hub (s : State) (f : Mod → Mod) : (updMod s f).hub = s.hub := rfl
@[simp] theorem updMod_ports (s : State) (f : Mod → Mod) : (updMod s f).ports = s.ports := rfl
@[simp] theorem updMod_lanes (s : State) (f : Mod → Mod) : (updMod s f).lanes = s.lanes := rfl
@[simp] theorem updMod_lmap (s : State) (f : Mod → Mod) : (updMod s f).lmap = s.lmap := rfl
@[simp] theorem updMod_cmap (s : State) (f : Mod → Mod) : (updMod s f).cmap = s.cmap := rfl
@[simp] theorem updMod_code (s : State) (f : Mod → Mod) : (updMod s f).code = s.code := rfl
@[simp] theorem updMod_issue (s : State) (f : Mod → Mod) : (updMod s f).issue = s.issue := rfl
@[simp] theorem updMod_lard (s : State) (f : Mod → Mod) : (updMod s f).lard = s.lard := rfl
@[simp] theorem updMod_e2e (s : State) (f : Mod → Mod) : (updMod s f).e2e = s.e2e := rfl
@[simp] theorem updMod_axle (s : State) (f : Mod → Mod) : (updMod s f).axle = s.axle := rfl
@[simp] theorem updMod_cert (s : State) (f : Mod → Mod) : (updMod s f).cert = s.cert := rfl
@[simp] theorem updMod_certRuns (s : State) (f : Mod → Mod) : (updMod s f).certRuns = s.certRuns := rfl
@[simp] theorem updMod_certAt (s : State) (f : Mod → Mod) : (updMod s f).certAt = s.certAt := rfl
@[simp] theorem updMod_rings (s : State) (f : Mod → Mod) : (updMod s f).rings = s.rings := rfl
@[simp] theorem updMod_replay (s : State) (f : Mod → Mod) : (updMod s f).replay = s.replay := rfl
@[simp] theorem updMod_telem (s : State) (f : Mod → Mod) : (updMod s f).telem = s.telem := rfl
@[simp] theorem updMod_eye (s : State) (f : Mod → Mod) : (updMod s f).eye = s.eye := rfl
@[simp] theorem updMod_wire (s : State) (f : Mod → Mod) : (updMod s f).wire = s.wire := rfl

-- updPwr

@[simp] theorem updPwr_pending (s : State) (f : Power → Power) : (updPwr s f).pending = s.pending := rfl
@[simp] theorem updPwr_now (s : State) (f : Power → Power) : (updPwr s f).now = s.now := rfl
@[simp] theorem updPwr_freeCtr (s : State) (f : Power → Power) : (updPwr s f).freeCtr = s.freeCtr := rfl
@[simp] theorem updPwr_flightId (s : State) (f : Power → Power) : (updPwr s f).flightId = s.flightId := rfl
@[simp] theorem updPwr_fixed (s : State) (f : Power → Power) : (updPwr s f).fixed = s.fixed := rfl
@[simp] theorem updPwr_nv (s : State) (f : Power → Power) : (updPwr s f).nv = s.nv := rfl
@[simp] theorem updPwr_mod (s : State) (f : Power → Power) : (updPwr s f).mod = s.mod := rfl
@[simp] theorem updPwr_lonus (s : State) (f : Power → Power) : (updPwr s f).lonus = s.lonus := rfl
@[simp] theorem updPwr_i3c (s : State) (f : Power → Power) : (updPwr s f).i3c = s.i3c := rfl
@[simp] theorem updPwr_mgmt (s : State) (f : Power → Power) : (updPwr s f).mgmt = s.mgmt := rfl
@[simp] theorem updPwr_pwr (s : State) (f : Power → Power) : (updPwr s f).pwr = f s.pwr := rfl
@[simp] theorem updPwr_therm (s : State) (f : Power → Power) : (updPwr s f).therm = s.therm := rfl
@[simp] theorem updPwr_cool (s : State) (f : Power → Power) : (updPwr s f).cool = s.cool := rfl
@[simp] theorem updPwr_ehrok (s : State) (f : Power → Power) : (updPwr s f).ehrok = s.ehrok := rfl
@[simp] theorem updPwr_regs (s : State) (f : Power → Power) : (updPwr s f).regs = s.regs := rfl
@[simp] theorem updPwr_held (s : State) (f : Power → Power) : (updPwr s f).held = s.held := rfl
@[simp] theorem updPwr_winEff (s : State) (f : Power → Power) : (updPwr s f).winEff = s.winEff := rfl
@[simp] theorem updPwr_winPend (s : State) (f : Power → Power) : (updPwr s f).winPend = s.winPend := rfl
@[simp] theorem updPwr_blocks (s : State) (f : Power → Power) : (updPwr s f).blocks = s.blocks := rfl
@[simp] theorem updPwr_noBlockAt (s : State) (f : Power → Power) : (updPwr s f).noBlockAt = s.noBlockAt := rfl
@[simp] theorem updPwr_cslots (s : State) (f : Power → Power) : (updPwr s f).cslots = s.cslots := rfl
@[simp] theorem updPwr_epoch (s : State) (f : Power → Power) : (updPwr s f).epoch = s.epoch := rfl
@[simp] theorem updPwr_harn (s : State) (f : Power → Power) : (updPwr s f).harn = s.harn := rfl
@[simp] theorem updPwr_coll (s : State) (f : Power → Power) : (updPwr s f).coll = s.coll := rfl
@[simp] theorem updPwr_localQ (s : State) (f : Power → Power) : (updPwr s f).localQ = s.localQ := rfl
@[simp] theorem updPwr_img (s : State) (f : Power → Power) : (updPwr s f).img = s.img := rfl
@[simp] theorem updPwr_clusters (s : State) (f : Power → Power) : (updPwr s f).clusters = s.clusters := rfl
@[simp] theorem updPwr_thr (s : State) (f : Power → Power) : (updPwr s f).thr = s.thr := rfl
@[simp] theorem updPwr_scratch (s : State) (f : Power → Power) : (updPwr s f).scratch = s.scratch := rfl
@[simp] theorem updPwr_cmem (s : State) (f : Power → Power) : (updPwr s f).cmem = s.cmem := rfl
@[simp] theorem updPwr_eng (s : State) (f : Power → Power) : (updPwr s f).eng = s.eng := rfl
@[simp] theorem updPwr_descId (s : State) (f : Power → Power) : (updPwr s f).descId = s.descId := rfl
@[simp] theorem updPwr_hub (s : State) (f : Power → Power) : (updPwr s f).hub = s.hub := rfl
@[simp] theorem updPwr_ports (s : State) (f : Power → Power) : (updPwr s f).ports = s.ports := rfl
@[simp] theorem updPwr_lanes (s : State) (f : Power → Power) : (updPwr s f).lanes = s.lanes := rfl
@[simp] theorem updPwr_lmap (s : State) (f : Power → Power) : (updPwr s f).lmap = s.lmap := rfl
@[simp] theorem updPwr_cmap (s : State) (f : Power → Power) : (updPwr s f).cmap = s.cmap := rfl
@[simp] theorem updPwr_code (s : State) (f : Power → Power) : (updPwr s f).code = s.code := rfl
@[simp] theorem updPwr_issue (s : State) (f : Power → Power) : (updPwr s f).issue = s.issue := rfl
@[simp] theorem updPwr_lard (s : State) (f : Power → Power) : (updPwr s f).lard = s.lard := rfl
@[simp] theorem updPwr_e2e (s : State) (f : Power → Power) : (updPwr s f).e2e = s.e2e := rfl
@[simp] theorem updPwr_axle (s : State) (f : Power → Power) : (updPwr s f).axle = s.axle := rfl
@[simp] theorem updPwr_cert (s : State) (f : Power → Power) : (updPwr s f).cert = s.cert := rfl
@[simp] theorem updPwr_certRuns (s : State) (f : Power → Power) : (updPwr s f).certRuns = s.certRuns := rfl
@[simp] theorem updPwr_certAt (s : State) (f : Power → Power) : (updPwr s f).certAt = s.certAt := rfl
@[simp] theorem updPwr_rings (s : State) (f : Power → Power) : (updPwr s f).rings = s.rings := rfl
@[simp] theorem updPwr_replay (s : State) (f : Power → Power) : (updPwr s f).replay = s.replay := rfl
@[simp] theorem updPwr_telem (s : State) (f : Power → Power) : (updPwr s f).telem = s.telem := rfl
@[simp] theorem updPwr_eye (s : State) (f : Power → Power) : (updPwr s f).eye = s.eye := rfl
@[simp] theorem updPwr_wire (s : State) (f : Power → Power) : (updPwr s f).wire = s.wire := rfl

-- updNv

@[simp] theorem updNv_pending (s : State) (f : NonVolatile → NonVolatile) : (updNv s f).pending = s.pending := rfl
@[simp] theorem updNv_now (s : State) (f : NonVolatile → NonVolatile) : (updNv s f).now = s.now := rfl
@[simp] theorem updNv_freeCtr (s : State) (f : NonVolatile → NonVolatile) : (updNv s f).freeCtr = s.freeCtr := rfl
@[simp] theorem updNv_flightId (s : State) (f : NonVolatile → NonVolatile) : (updNv s f).flightId = s.flightId := rfl
@[simp] theorem updNv_fixed (s : State) (f : NonVolatile → NonVolatile) : (updNv s f).fixed = s.fixed := rfl
@[simp] theorem updNv_nv (s : State) (f : NonVolatile → NonVolatile) : (updNv s f).nv = f s.nv := rfl
@[simp] theorem updNv_mod (s : State) (f : NonVolatile → NonVolatile) : (updNv s f).mod = s.mod := rfl
@[simp] theorem updNv_lonus (s : State) (f : NonVolatile → NonVolatile) : (updNv s f).lonus = s.lonus := rfl
@[simp] theorem updNv_i3c (s : State) (f : NonVolatile → NonVolatile) : (updNv s f).i3c = s.i3c := rfl
@[simp] theorem updNv_mgmt (s : State) (f : NonVolatile → NonVolatile) : (updNv s f).mgmt = s.mgmt := rfl
@[simp] theorem updNv_pwr (s : State) (f : NonVolatile → NonVolatile) : (updNv s f).pwr = s.pwr := rfl
@[simp] theorem updNv_therm (s : State) (f : NonVolatile → NonVolatile) : (updNv s f).therm = s.therm := rfl
@[simp] theorem updNv_cool (s : State) (f : NonVolatile → NonVolatile) : (updNv s f).cool = s.cool := rfl
@[simp] theorem updNv_ehrok (s : State) (f : NonVolatile → NonVolatile) : (updNv s f).ehrok = s.ehrok := rfl
@[simp] theorem updNv_regs (s : State) (f : NonVolatile → NonVolatile) : (updNv s f).regs = s.regs := rfl
@[simp] theorem updNv_held (s : State) (f : NonVolatile → NonVolatile) : (updNv s f).held = s.held := rfl
@[simp] theorem updNv_winEff (s : State) (f : NonVolatile → NonVolatile) : (updNv s f).winEff = s.winEff := rfl
@[simp] theorem updNv_winPend (s : State) (f : NonVolatile → NonVolatile) : (updNv s f).winPend = s.winPend := rfl
@[simp] theorem updNv_blocks (s : State) (f : NonVolatile → NonVolatile) : (updNv s f).blocks = s.blocks := rfl
@[simp] theorem updNv_noBlockAt (s : State) (f : NonVolatile → NonVolatile) : (updNv s f).noBlockAt = s.noBlockAt := rfl
@[simp] theorem updNv_cslots (s : State) (f : NonVolatile → NonVolatile) : (updNv s f).cslots = s.cslots := rfl
@[simp] theorem updNv_epoch (s : State) (f : NonVolatile → NonVolatile) : (updNv s f).epoch = s.epoch := rfl
@[simp] theorem updNv_harn (s : State) (f : NonVolatile → NonVolatile) : (updNv s f).harn = s.harn := rfl
@[simp] theorem updNv_coll (s : State) (f : NonVolatile → NonVolatile) : (updNv s f).coll = s.coll := rfl
@[simp] theorem updNv_localQ (s : State) (f : NonVolatile → NonVolatile) : (updNv s f).localQ = s.localQ := rfl
@[simp] theorem updNv_img (s : State) (f : NonVolatile → NonVolatile) : (updNv s f).img = s.img := rfl
@[simp] theorem updNv_clusters (s : State) (f : NonVolatile → NonVolatile) : (updNv s f).clusters = s.clusters := rfl
@[simp] theorem updNv_thr (s : State) (f : NonVolatile → NonVolatile) : (updNv s f).thr = s.thr := rfl
@[simp] theorem updNv_scratch (s : State) (f : NonVolatile → NonVolatile) : (updNv s f).scratch = s.scratch := rfl
@[simp] theorem updNv_cmem (s : State) (f : NonVolatile → NonVolatile) : (updNv s f).cmem = s.cmem := rfl
@[simp] theorem updNv_eng (s : State) (f : NonVolatile → NonVolatile) : (updNv s f).eng = s.eng := rfl
@[simp] theorem updNv_descId (s : State) (f : NonVolatile → NonVolatile) : (updNv s f).descId = s.descId := rfl
@[simp] theorem updNv_hub (s : State) (f : NonVolatile → NonVolatile) : (updNv s f).hub = s.hub := rfl
@[simp] theorem updNv_ports (s : State) (f : NonVolatile → NonVolatile) : (updNv s f).ports = s.ports := rfl
@[simp] theorem updNv_lanes (s : State) (f : NonVolatile → NonVolatile) : (updNv s f).lanes = s.lanes := rfl
@[simp] theorem updNv_lmap (s : State) (f : NonVolatile → NonVolatile) : (updNv s f).lmap = s.lmap := rfl
@[simp] theorem updNv_cmap (s : State) (f : NonVolatile → NonVolatile) : (updNv s f).cmap = s.cmap := rfl
@[simp] theorem updNv_code (s : State) (f : NonVolatile → NonVolatile) : (updNv s f).code = s.code := rfl
@[simp] theorem updNv_issue (s : State) (f : NonVolatile → NonVolatile) : (updNv s f).issue = s.issue := rfl
@[simp] theorem updNv_lard (s : State) (f : NonVolatile → NonVolatile) : (updNv s f).lard = s.lard := rfl
@[simp] theorem updNv_e2e (s : State) (f : NonVolatile → NonVolatile) : (updNv s f).e2e = s.e2e := rfl
@[simp] theorem updNv_axle (s : State) (f : NonVolatile → NonVolatile) : (updNv s f).axle = s.axle := rfl
@[simp] theorem updNv_cert (s : State) (f : NonVolatile → NonVolatile) : (updNv s f).cert = s.cert := rfl
@[simp] theorem updNv_certRuns (s : State) (f : NonVolatile → NonVolatile) : (updNv s f).certRuns = s.certRuns := rfl
@[simp] theorem updNv_certAt (s : State) (f : NonVolatile → NonVolatile) : (updNv s f).certAt = s.certAt := rfl
@[simp] theorem updNv_rings (s : State) (f : NonVolatile → NonVolatile) : (updNv s f).rings = s.rings := rfl
@[simp] theorem updNv_replay (s : State) (f : NonVolatile → NonVolatile) : (updNv s f).replay = s.replay := rfl
@[simp] theorem updNv_telem (s : State) (f : NonVolatile → NonVolatile) : (updNv s f).telem = s.telem := rfl
@[simp] theorem updNv_eye (s : State) (f : NonVolatile → NonVolatile) : (updNv s f).eye = s.eye := rfl
@[simp] theorem updNv_wire (s : State) (f : NonVolatile → NonVolatile) : (updNv s f).wire = s.wire := rfl

-- updBlock

@[simp] theorem updBlock_pending (s : State) (b : Nat) (f : Block → Block) : (updBlock s b f).pending = s.pending := rfl
@[simp] theorem updBlock_now (s : State) (b : Nat) (f : Block → Block) : (updBlock s b f).now = s.now := rfl
@[simp] theorem updBlock_freeCtr (s : State) (b : Nat) (f : Block → Block) : (updBlock s b f).freeCtr = s.freeCtr := rfl
@[simp] theorem updBlock_flightId (s : State) (b : Nat) (f : Block → Block) : (updBlock s b f).flightId = s.flightId := rfl
@[simp] theorem updBlock_fixed (s : State) (b : Nat) (f : Block → Block) : (updBlock s b f).fixed = s.fixed := rfl
@[simp] theorem updBlock_nv (s : State) (b : Nat) (f : Block → Block) : (updBlock s b f).nv = s.nv := rfl
@[simp] theorem updBlock_mod (s : State) (b : Nat) (f : Block → Block) : (updBlock s b f).mod = s.mod := rfl
@[simp] theorem updBlock_lonus (s : State) (b : Nat) (f : Block → Block) : (updBlock s b f).lonus = s.lonus := rfl
@[simp] theorem updBlock_i3c (s : State) (b : Nat) (f : Block → Block) : (updBlock s b f).i3c = s.i3c := rfl
@[simp] theorem updBlock_mgmt (s : State) (b : Nat) (f : Block → Block) : (updBlock s b f).mgmt = s.mgmt := rfl
@[simp] theorem updBlock_pwr (s : State) (b : Nat) (f : Block → Block) : (updBlock s b f).pwr = s.pwr := rfl
@[simp] theorem updBlock_therm (s : State) (b : Nat) (f : Block → Block) : (updBlock s b f).therm = s.therm := rfl
@[simp] theorem updBlock_cool (s : State) (b : Nat) (f : Block → Block) : (updBlock s b f).cool = s.cool := rfl
@[simp] theorem updBlock_ehrok (s : State) (b : Nat) (f : Block → Block) : (updBlock s b f).ehrok = s.ehrok := rfl
@[simp] theorem updBlock_regs (s : State) (b : Nat) (f : Block → Block) : (updBlock s b f).regs = s.regs := rfl
@[simp] theorem updBlock_held (s : State) (b : Nat) (f : Block → Block) : (updBlock s b f).held = s.held := rfl
@[simp] theorem updBlock_winEff (s : State) (b : Nat) (f : Block → Block) : (updBlock s b f).winEff = s.winEff := rfl
@[simp] theorem updBlock_winPend (s : State) (b : Nat) (f : Block → Block) : (updBlock s b f).winPend = s.winPend := rfl
@[simp] theorem updBlock_blocks (s : State) (b : Nat) (f : Block → Block) : (updBlock s b f).blocks = Tab.upd {} s.blocks b f := rfl
@[simp] theorem updBlock_noBlockAt (s : State) (b : Nat) (f : Block → Block) : (updBlock s b f).noBlockAt = s.noBlockAt := rfl
@[simp] theorem updBlock_cslots (s : State) (b : Nat) (f : Block → Block) : (updBlock s b f).cslots = s.cslots := rfl
@[simp] theorem updBlock_epoch (s : State) (b : Nat) (f : Block → Block) : (updBlock s b f).epoch = s.epoch := rfl
@[simp] theorem updBlock_harn (s : State) (b : Nat) (f : Block → Block) : (updBlock s b f).harn = s.harn := rfl
@[simp] theorem updBlock_coll (s : State) (b : Nat) (f : Block → Block) : (updBlock s b f).coll = s.coll := rfl
@[simp] theorem updBlock_localQ (s : State) (b : Nat) (f : Block → Block) : (updBlock s b f).localQ = s.localQ := rfl
@[simp] theorem updBlock_img (s : State) (b : Nat) (f : Block → Block) : (updBlock s b f).img = s.img := rfl
@[simp] theorem updBlock_clusters (s : State) (b : Nat) (f : Block → Block) : (updBlock s b f).clusters = s.clusters := rfl
@[simp] theorem updBlock_thr (s : State) (b : Nat) (f : Block → Block) : (updBlock s b f).thr = s.thr := rfl
@[simp] theorem updBlock_scratch (s : State) (b : Nat) (f : Block → Block) : (updBlock s b f).scratch = s.scratch := rfl
@[simp] theorem updBlock_cmem (s : State) (b : Nat) (f : Block → Block) : (updBlock s b f).cmem = s.cmem := rfl
@[simp] theorem updBlock_eng (s : State) (b : Nat) (f : Block → Block) : (updBlock s b f).eng = s.eng := rfl
@[simp] theorem updBlock_descId (s : State) (b : Nat) (f : Block → Block) : (updBlock s b f).descId = s.descId := rfl
@[simp] theorem updBlock_hub (s : State) (b : Nat) (f : Block → Block) : (updBlock s b f).hub = s.hub := rfl
@[simp] theorem updBlock_ports (s : State) (b : Nat) (f : Block → Block) : (updBlock s b f).ports = s.ports := rfl
@[simp] theorem updBlock_lanes (s : State) (b : Nat) (f : Block → Block) : (updBlock s b f).lanes = s.lanes := rfl
@[simp] theorem updBlock_lmap (s : State) (b : Nat) (f : Block → Block) : (updBlock s b f).lmap = s.lmap := rfl
@[simp] theorem updBlock_cmap (s : State) (b : Nat) (f : Block → Block) : (updBlock s b f).cmap = s.cmap := rfl
@[simp] theorem updBlock_code (s : State) (b : Nat) (f : Block → Block) : (updBlock s b f).code = s.code := rfl
@[simp] theorem updBlock_issue (s : State) (b : Nat) (f : Block → Block) : (updBlock s b f).issue = s.issue := rfl
@[simp] theorem updBlock_lard (s : State) (b : Nat) (f : Block → Block) : (updBlock s b f).lard = s.lard := rfl
@[simp] theorem updBlock_e2e (s : State) (b : Nat) (f : Block → Block) : (updBlock s b f).e2e = s.e2e := rfl
@[simp] theorem updBlock_axle (s : State) (b : Nat) (f : Block → Block) : (updBlock s b f).axle = s.axle := rfl
@[simp] theorem updBlock_cert (s : State) (b : Nat) (f : Block → Block) : (updBlock s b f).cert = s.cert := rfl
@[simp] theorem updBlock_certRuns (s : State) (b : Nat) (f : Block → Block) : (updBlock s b f).certRuns = s.certRuns := rfl
@[simp] theorem updBlock_certAt (s : State) (b : Nat) (f : Block → Block) : (updBlock s b f).certAt = s.certAt := rfl
@[simp] theorem updBlock_rings (s : State) (b : Nat) (f : Block → Block) : (updBlock s b f).rings = s.rings := rfl
@[simp] theorem updBlock_replay (s : State) (b : Nat) (f : Block → Block) : (updBlock s b f).replay = s.replay := rfl
@[simp] theorem updBlock_telem (s : State) (b : Nat) (f : Block → Block) : (updBlock s b f).telem = s.telem := rfl
@[simp] theorem updBlock_eye (s : State) (b : Nat) (f : Block → Block) : (updBlock s b f).eye = s.eye := rfl
@[simp] theorem updBlock_wire (s : State) (b : Nat) (f : Block → Block) : (updBlock s b f).wire = s.wire := rfl

-- updPort

@[simp] theorem updPort_pending (s : State) (p : Nat) (f : Port → Port) : (updPort s p f).pending = s.pending := rfl
@[simp] theorem updPort_now (s : State) (p : Nat) (f : Port → Port) : (updPort s p f).now = s.now := rfl
@[simp] theorem updPort_freeCtr (s : State) (p : Nat) (f : Port → Port) : (updPort s p f).freeCtr = s.freeCtr := rfl
@[simp] theorem updPort_flightId (s : State) (p : Nat) (f : Port → Port) : (updPort s p f).flightId = s.flightId := rfl
@[simp] theorem updPort_fixed (s : State) (p : Nat) (f : Port → Port) : (updPort s p f).fixed = s.fixed := rfl
@[simp] theorem updPort_nv (s : State) (p : Nat) (f : Port → Port) : (updPort s p f).nv = s.nv := rfl
@[simp] theorem updPort_mod (s : State) (p : Nat) (f : Port → Port) : (updPort s p f).mod = s.mod := rfl
@[simp] theorem updPort_lonus (s : State) (p : Nat) (f : Port → Port) : (updPort s p f).lonus = s.lonus := rfl
@[simp] theorem updPort_i3c (s : State) (p : Nat) (f : Port → Port) : (updPort s p f).i3c = s.i3c := rfl
@[simp] theorem updPort_mgmt (s : State) (p : Nat) (f : Port → Port) : (updPort s p f).mgmt = s.mgmt := rfl
@[simp] theorem updPort_pwr (s : State) (p : Nat) (f : Port → Port) : (updPort s p f).pwr = s.pwr := rfl
@[simp] theorem updPort_therm (s : State) (p : Nat) (f : Port → Port) : (updPort s p f).therm = s.therm := rfl
@[simp] theorem updPort_cool (s : State) (p : Nat) (f : Port → Port) : (updPort s p f).cool = s.cool := rfl
@[simp] theorem updPort_ehrok (s : State) (p : Nat) (f : Port → Port) : (updPort s p f).ehrok = s.ehrok := rfl
@[simp] theorem updPort_regs (s : State) (p : Nat) (f : Port → Port) : (updPort s p f).regs = s.regs := rfl
@[simp] theorem updPort_held (s : State) (p : Nat) (f : Port → Port) : (updPort s p f).held = s.held := rfl
@[simp] theorem updPort_winEff (s : State) (p : Nat) (f : Port → Port) : (updPort s p f).winEff = s.winEff := rfl
@[simp] theorem updPort_winPend (s : State) (p : Nat) (f : Port → Port) : (updPort s p f).winPend = s.winPend := rfl
@[simp] theorem updPort_blocks (s : State) (p : Nat) (f : Port → Port) : (updPort s p f).blocks = s.blocks := rfl
@[simp] theorem updPort_noBlockAt (s : State) (p : Nat) (f : Port → Port) : (updPort s p f).noBlockAt = s.noBlockAt := rfl
@[simp] theorem updPort_cslots (s : State) (p : Nat) (f : Port → Port) : (updPort s p f).cslots = s.cslots := rfl
@[simp] theorem updPort_epoch (s : State) (p : Nat) (f : Port → Port) : (updPort s p f).epoch = s.epoch := rfl
@[simp] theorem updPort_harn (s : State) (p : Nat) (f : Port → Port) : (updPort s p f).harn = s.harn := rfl
@[simp] theorem updPort_coll (s : State) (p : Nat) (f : Port → Port) : (updPort s p f).coll = s.coll := rfl
@[simp] theorem updPort_localQ (s : State) (p : Nat) (f : Port → Port) : (updPort s p f).localQ = s.localQ := rfl
@[simp] theorem updPort_img (s : State) (p : Nat) (f : Port → Port) : (updPort s p f).img = s.img := rfl
@[simp] theorem updPort_clusters (s : State) (p : Nat) (f : Port → Port) : (updPort s p f).clusters = s.clusters := rfl
@[simp] theorem updPort_thr (s : State) (p : Nat) (f : Port → Port) : (updPort s p f).thr = s.thr := rfl
@[simp] theorem updPort_scratch (s : State) (p : Nat) (f : Port → Port) : (updPort s p f).scratch = s.scratch := rfl
@[simp] theorem updPort_cmem (s : State) (p : Nat) (f : Port → Port) : (updPort s p f).cmem = s.cmem := rfl
@[simp] theorem updPort_eng (s : State) (p : Nat) (f : Port → Port) : (updPort s p f).eng = s.eng := rfl
@[simp] theorem updPort_descId (s : State) (p : Nat) (f : Port → Port) : (updPort s p f).descId = s.descId := rfl
@[simp] theorem updPort_hub (s : State) (p : Nat) (f : Port → Port) : (updPort s p f).hub = s.hub := rfl
@[simp] theorem updPort_ports (s : State) (p : Nat) (f : Port → Port) : (updPort s p f).ports = Tab.upd {} s.ports p f := rfl
@[simp] theorem updPort_lanes (s : State) (p : Nat) (f : Port → Port) : (updPort s p f).lanes = s.lanes := rfl
@[simp] theorem updPort_lmap (s : State) (p : Nat) (f : Port → Port) : (updPort s p f).lmap = s.lmap := rfl
@[simp] theorem updPort_cmap (s : State) (p : Nat) (f : Port → Port) : (updPort s p f).cmap = s.cmap := rfl
@[simp] theorem updPort_code (s : State) (p : Nat) (f : Port → Port) : (updPort s p f).code = s.code := rfl
@[simp] theorem updPort_issue (s : State) (p : Nat) (f : Port → Port) : (updPort s p f).issue = s.issue := rfl
@[simp] theorem updPort_lard (s : State) (p : Nat) (f : Port → Port) : (updPort s p f).lard = s.lard := rfl
@[simp] theorem updPort_e2e (s : State) (p : Nat) (f : Port → Port) : (updPort s p f).e2e = s.e2e := rfl
@[simp] theorem updPort_axle (s : State) (p : Nat) (f : Port → Port) : (updPort s p f).axle = s.axle := rfl
@[simp] theorem updPort_cert (s : State) (p : Nat) (f : Port → Port) : (updPort s p f).cert = s.cert := rfl
@[simp] theorem updPort_certRuns (s : State) (p : Nat) (f : Port → Port) : (updPort s p f).certRuns = s.certRuns := rfl
@[simp] theorem updPort_certAt (s : State) (p : Nat) (f : Port → Port) : (updPort s p f).certAt = s.certAt := rfl
@[simp] theorem updPort_rings (s : State) (p : Nat) (f : Port → Port) : (updPort s p f).rings = s.rings := rfl
@[simp] theorem updPort_replay (s : State) (p : Nat) (f : Port → Port) : (updPort s p f).replay = s.replay := rfl
@[simp] theorem updPort_telem (s : State) (p : Nat) (f : Port → Port) : (updPort s p f).telem = s.telem := rfl
@[simp] theorem updPort_eye (s : State) (p : Nat) (f : Port → Port) : (updPort s p f).eye = s.eye := rfl
@[simp] theorem updPort_wire (s : State) (p : Nat) (f : Port → Port) : (updPort s p f).wire = s.wire := rfl

-- updLane

@[simp] theorem updLane_pending (s : State) (l : Nat) (f : Lane → Lane) : (updLane s l f).pending = s.pending := rfl
@[simp] theorem updLane_now (s : State) (l : Nat) (f : Lane → Lane) : (updLane s l f).now = s.now := rfl
@[simp] theorem updLane_freeCtr (s : State) (l : Nat) (f : Lane → Lane) : (updLane s l f).freeCtr = s.freeCtr := rfl
@[simp] theorem updLane_flightId (s : State) (l : Nat) (f : Lane → Lane) : (updLane s l f).flightId = s.flightId := rfl
@[simp] theorem updLane_fixed (s : State) (l : Nat) (f : Lane → Lane) : (updLane s l f).fixed = s.fixed := rfl
@[simp] theorem updLane_nv (s : State) (l : Nat) (f : Lane → Lane) : (updLane s l f).nv = s.nv := rfl
@[simp] theorem updLane_mod (s : State) (l : Nat) (f : Lane → Lane) : (updLane s l f).mod = s.mod := rfl
@[simp] theorem updLane_lonus (s : State) (l : Nat) (f : Lane → Lane) : (updLane s l f).lonus = s.lonus := rfl
@[simp] theorem updLane_i3c (s : State) (l : Nat) (f : Lane → Lane) : (updLane s l f).i3c = s.i3c := rfl
@[simp] theorem updLane_mgmt (s : State) (l : Nat) (f : Lane → Lane) : (updLane s l f).mgmt = s.mgmt := rfl
@[simp] theorem updLane_pwr (s : State) (l : Nat) (f : Lane → Lane) : (updLane s l f).pwr = s.pwr := rfl
@[simp] theorem updLane_therm (s : State) (l : Nat) (f : Lane → Lane) : (updLane s l f).therm = s.therm := rfl
@[simp] theorem updLane_cool (s : State) (l : Nat) (f : Lane → Lane) : (updLane s l f).cool = s.cool := rfl
@[simp] theorem updLane_ehrok (s : State) (l : Nat) (f : Lane → Lane) : (updLane s l f).ehrok = s.ehrok := rfl
@[simp] theorem updLane_regs (s : State) (l : Nat) (f : Lane → Lane) : (updLane s l f).regs = s.regs := rfl
@[simp] theorem updLane_held (s : State) (l : Nat) (f : Lane → Lane) : (updLane s l f).held = s.held := rfl
@[simp] theorem updLane_winEff (s : State) (l : Nat) (f : Lane → Lane) : (updLane s l f).winEff = s.winEff := rfl
@[simp] theorem updLane_winPend (s : State) (l : Nat) (f : Lane → Lane) : (updLane s l f).winPend = s.winPend := rfl
@[simp] theorem updLane_blocks (s : State) (l : Nat) (f : Lane → Lane) : (updLane s l f).blocks = s.blocks := rfl
@[simp] theorem updLane_noBlockAt (s : State) (l : Nat) (f : Lane → Lane) : (updLane s l f).noBlockAt = s.noBlockAt := rfl
@[simp] theorem updLane_cslots (s : State) (l : Nat) (f : Lane → Lane) : (updLane s l f).cslots = s.cslots := rfl
@[simp] theorem updLane_epoch (s : State) (l : Nat) (f : Lane → Lane) : (updLane s l f).epoch = s.epoch := rfl
@[simp] theorem updLane_harn (s : State) (l : Nat) (f : Lane → Lane) : (updLane s l f).harn = s.harn := rfl
@[simp] theorem updLane_coll (s : State) (l : Nat) (f : Lane → Lane) : (updLane s l f).coll = s.coll := rfl
@[simp] theorem updLane_localQ (s : State) (l : Nat) (f : Lane → Lane) : (updLane s l f).localQ = s.localQ := rfl
@[simp] theorem updLane_img (s : State) (l : Nat) (f : Lane → Lane) : (updLane s l f).img = s.img := rfl
@[simp] theorem updLane_clusters (s : State) (l : Nat) (f : Lane → Lane) : (updLane s l f).clusters = s.clusters := rfl
@[simp] theorem updLane_thr (s : State) (l : Nat) (f : Lane → Lane) : (updLane s l f).thr = s.thr := rfl
@[simp] theorem updLane_scratch (s : State) (l : Nat) (f : Lane → Lane) : (updLane s l f).scratch = s.scratch := rfl
@[simp] theorem updLane_cmem (s : State) (l : Nat) (f : Lane → Lane) : (updLane s l f).cmem = s.cmem := rfl
@[simp] theorem updLane_eng (s : State) (l : Nat) (f : Lane → Lane) : (updLane s l f).eng = s.eng := rfl
@[simp] theorem updLane_descId (s : State) (l : Nat) (f : Lane → Lane) : (updLane s l f).descId = s.descId := rfl
@[simp] theorem updLane_hub (s : State) (l : Nat) (f : Lane → Lane) : (updLane s l f).hub = s.hub := rfl
@[simp] theorem updLane_ports (s : State) (l : Nat) (f : Lane → Lane) : (updLane s l f).ports = s.ports := rfl
@[simp] theorem updLane_lanes (s : State) (l : Nat) (f : Lane → Lane) : (updLane s l f).lanes = Tab.upd {} s.lanes l f := rfl
@[simp] theorem updLane_lmap (s : State) (l : Nat) (f : Lane → Lane) : (updLane s l f).lmap = s.lmap := rfl
@[simp] theorem updLane_cmap (s : State) (l : Nat) (f : Lane → Lane) : (updLane s l f).cmap = s.cmap := rfl
@[simp] theorem updLane_code (s : State) (l : Nat) (f : Lane → Lane) : (updLane s l f).code = s.code := rfl
@[simp] theorem updLane_issue (s : State) (l : Nat) (f : Lane → Lane) : (updLane s l f).issue = s.issue := rfl
@[simp] theorem updLane_lard (s : State) (l : Nat) (f : Lane → Lane) : (updLane s l f).lard = s.lard := rfl
@[simp] theorem updLane_e2e (s : State) (l : Nat) (f : Lane → Lane) : (updLane s l f).e2e = s.e2e := rfl
@[simp] theorem updLane_axle (s : State) (l : Nat) (f : Lane → Lane) : (updLane s l f).axle = s.axle := rfl
@[simp] theorem updLane_cert (s : State) (l : Nat) (f : Lane → Lane) : (updLane s l f).cert = s.cert := rfl
@[simp] theorem updLane_certRuns (s : State) (l : Nat) (f : Lane → Lane) : (updLane s l f).certRuns = s.certRuns := rfl
@[simp] theorem updLane_certAt (s : State) (l : Nat) (f : Lane → Lane) : (updLane s l f).certAt = s.certAt := rfl
@[simp] theorem updLane_rings (s : State) (l : Nat) (f : Lane → Lane) : (updLane s l f).rings = s.rings := rfl
@[simp] theorem updLane_replay (s : State) (l : Nat) (f : Lane → Lane) : (updLane s l f).replay = s.replay := rfl
@[simp] theorem updLane_telem (s : State) (l : Nat) (f : Lane → Lane) : (updLane s l f).telem = s.telem := rfl
@[simp] theorem updLane_eye (s : State) (l : Nat) (f : Lane → Lane) : (updLane s l f).eye = s.eye := rfl
@[simp] theorem updLane_wire (s : State) (l : Nat) (f : Lane → Lane) : (updLane s l f).wire = s.wire := rfl

-- updHub

@[simp] theorem updHub_pending (s : State) (d : Nat) (f : Hub → Hub) : (updHub s d f).pending = s.pending := rfl
@[simp] theorem updHub_now (s : State) (d : Nat) (f : Hub → Hub) : (updHub s d f).now = s.now := rfl
@[simp] theorem updHub_freeCtr (s : State) (d : Nat) (f : Hub → Hub) : (updHub s d f).freeCtr = s.freeCtr := rfl
@[simp] theorem updHub_flightId (s : State) (d : Nat) (f : Hub → Hub) : (updHub s d f).flightId = s.flightId := rfl
@[simp] theorem updHub_fixed (s : State) (d : Nat) (f : Hub → Hub) : (updHub s d f).fixed = s.fixed := rfl
@[simp] theorem updHub_nv (s : State) (d : Nat) (f : Hub → Hub) : (updHub s d f).nv = s.nv := rfl
@[simp] theorem updHub_mod (s : State) (d : Nat) (f : Hub → Hub) : (updHub s d f).mod = s.mod := rfl
@[simp] theorem updHub_lonus (s : State) (d : Nat) (f : Hub → Hub) : (updHub s d f).lonus = s.lonus := rfl
@[simp] theorem updHub_i3c (s : State) (d : Nat) (f : Hub → Hub) : (updHub s d f).i3c = s.i3c := rfl
@[simp] theorem updHub_mgmt (s : State) (d : Nat) (f : Hub → Hub) : (updHub s d f).mgmt = s.mgmt := rfl
@[simp] theorem updHub_pwr (s : State) (d : Nat) (f : Hub → Hub) : (updHub s d f).pwr = s.pwr := rfl
@[simp] theorem updHub_therm (s : State) (d : Nat) (f : Hub → Hub) : (updHub s d f).therm = s.therm := rfl
@[simp] theorem updHub_cool (s : State) (d : Nat) (f : Hub → Hub) : (updHub s d f).cool = s.cool := rfl
@[simp] theorem updHub_ehrok (s : State) (d : Nat) (f : Hub → Hub) : (updHub s d f).ehrok = s.ehrok := rfl
@[simp] theorem updHub_regs (s : State) (d : Nat) (f : Hub → Hub) : (updHub s d f).regs = s.regs := rfl
@[simp] theorem updHub_held (s : State) (d : Nat) (f : Hub → Hub) : (updHub s d f).held = s.held := rfl
@[simp] theorem updHub_winEff (s : State) (d : Nat) (f : Hub → Hub) : (updHub s d f).winEff = s.winEff := rfl
@[simp] theorem updHub_winPend (s : State) (d : Nat) (f : Hub → Hub) : (updHub s d f).winPend = s.winPend := rfl
@[simp] theorem updHub_blocks (s : State) (d : Nat) (f : Hub → Hub) : (updHub s d f).blocks = s.blocks := rfl
@[simp] theorem updHub_noBlockAt (s : State) (d : Nat) (f : Hub → Hub) : (updHub s d f).noBlockAt = s.noBlockAt := rfl
@[simp] theorem updHub_cslots (s : State) (d : Nat) (f : Hub → Hub) : (updHub s d f).cslots = s.cslots := rfl
@[simp] theorem updHub_epoch (s : State) (d : Nat) (f : Hub → Hub) : (updHub s d f).epoch = s.epoch := rfl
@[simp] theorem updHub_harn (s : State) (d : Nat) (f : Hub → Hub) : (updHub s d f).harn = s.harn := rfl
@[simp] theorem updHub_coll (s : State) (d : Nat) (f : Hub → Hub) : (updHub s d f).coll = s.coll := rfl
@[simp] theorem updHub_localQ (s : State) (d : Nat) (f : Hub → Hub) : (updHub s d f).localQ = s.localQ := rfl
@[simp] theorem updHub_img (s : State) (d : Nat) (f : Hub → Hub) : (updHub s d f).img = s.img := rfl
@[simp] theorem updHub_clusters (s : State) (d : Nat) (f : Hub → Hub) : (updHub s d f).clusters = s.clusters := rfl
@[simp] theorem updHub_thr (s : State) (d : Nat) (f : Hub → Hub) : (updHub s d f).thr = s.thr := rfl
@[simp] theorem updHub_scratch (s : State) (d : Nat) (f : Hub → Hub) : (updHub s d f).scratch = s.scratch := rfl
@[simp] theorem updHub_cmem (s : State) (d : Nat) (f : Hub → Hub) : (updHub s d f).cmem = s.cmem := rfl
@[simp] theorem updHub_eng (s : State) (d : Nat) (f : Hub → Hub) : (updHub s d f).eng = s.eng := rfl
@[simp] theorem updHub_descId (s : State) (d : Nat) (f : Hub → Hub) : (updHub s d f).descId = s.descId := rfl
@[simp] theorem updHub_hub (s : State) (d : Nat) (f : Hub → Hub) : (updHub s d f).hub = Tab.upd {} s.hub d f := rfl
@[simp] theorem updHub_ports (s : State) (d : Nat) (f : Hub → Hub) : (updHub s d f).ports = s.ports := rfl
@[simp] theorem updHub_lanes (s : State) (d : Nat) (f : Hub → Hub) : (updHub s d f).lanes = s.lanes := rfl
@[simp] theorem updHub_lmap (s : State) (d : Nat) (f : Hub → Hub) : (updHub s d f).lmap = s.lmap := rfl
@[simp] theorem updHub_cmap (s : State) (d : Nat) (f : Hub → Hub) : (updHub s d f).cmap = s.cmap := rfl
@[simp] theorem updHub_code (s : State) (d : Nat) (f : Hub → Hub) : (updHub s d f).code = s.code := rfl
@[simp] theorem updHub_issue (s : State) (d : Nat) (f : Hub → Hub) : (updHub s d f).issue = s.issue := rfl
@[simp] theorem updHub_lard (s : State) (d : Nat) (f : Hub → Hub) : (updHub s d f).lard = s.lard := rfl
@[simp] theorem updHub_e2e (s : State) (d : Nat) (f : Hub → Hub) : (updHub s d f).e2e = s.e2e := rfl
@[simp] theorem updHub_axle (s : State) (d : Nat) (f : Hub → Hub) : (updHub s d f).axle = s.axle := rfl
@[simp] theorem updHub_cert (s : State) (d : Nat) (f : Hub → Hub) : (updHub s d f).cert = s.cert := rfl
@[simp] theorem updHub_certRuns (s : State) (d : Nat) (f : Hub → Hub) : (updHub s d f).certRuns = s.certRuns := rfl
@[simp] theorem updHub_certAt (s : State) (d : Nat) (f : Hub → Hub) : (updHub s d f).certAt = s.certAt := rfl
@[simp] theorem updHub_rings (s : State) (d : Nat) (f : Hub → Hub) : (updHub s d f).rings = s.rings := rfl
@[simp] theorem updHub_replay (s : State) (d : Nat) (f : Hub → Hub) : (updHub s d f).replay = s.replay := rfl
@[simp] theorem updHub_telem (s : State) (d : Nat) (f : Hub → Hub) : (updHub s d f).telem = s.telem := rfl
@[simp] theorem updHub_eye (s : State) (d : Nat) (f : Hub → Hub) : (updHub s d f).eye = s.eye := rfl
@[simp] theorem updHub_wire (s : State) (d : Nat) (f : Hub → Hub) : (updHub s d f).wire = s.wire := rfl

-- updEng

@[simp] theorem updEng_pending (s : State) (d e : Nat) (f : Engine → Engine) : (updEng s d e f).pending = s.pending := rfl
@[simp] theorem updEng_now (s : State) (d e : Nat) (f : Engine → Engine) : (updEng s d e f).now = s.now := rfl
@[simp] theorem updEng_freeCtr (s : State) (d e : Nat) (f : Engine → Engine) : (updEng s d e f).freeCtr = s.freeCtr := rfl
@[simp] theorem updEng_flightId (s : State) (d e : Nat) (f : Engine → Engine) : (updEng s d e f).flightId = s.flightId := rfl
@[simp] theorem updEng_fixed (s : State) (d e : Nat) (f : Engine → Engine) : (updEng s d e f).fixed = s.fixed := rfl
@[simp] theorem updEng_nv (s : State) (d e : Nat) (f : Engine → Engine) : (updEng s d e f).nv = s.nv := rfl
@[simp] theorem updEng_mod (s : State) (d e : Nat) (f : Engine → Engine) : (updEng s d e f).mod = s.mod := rfl
@[simp] theorem updEng_lonus (s : State) (d e : Nat) (f : Engine → Engine) : (updEng s d e f).lonus = s.lonus := rfl
@[simp] theorem updEng_i3c (s : State) (d e : Nat) (f : Engine → Engine) : (updEng s d e f).i3c = s.i3c := rfl
@[simp] theorem updEng_mgmt (s : State) (d e : Nat) (f : Engine → Engine) : (updEng s d e f).mgmt = s.mgmt := rfl
@[simp] theorem updEng_pwr (s : State) (d e : Nat) (f : Engine → Engine) : (updEng s d e f).pwr = s.pwr := rfl
@[simp] theorem updEng_therm (s : State) (d e : Nat) (f : Engine → Engine) : (updEng s d e f).therm = s.therm := rfl
@[simp] theorem updEng_cool (s : State) (d e : Nat) (f : Engine → Engine) : (updEng s d e f).cool = s.cool := rfl
@[simp] theorem updEng_ehrok (s : State) (d e : Nat) (f : Engine → Engine) : (updEng s d e f).ehrok = s.ehrok := rfl
@[simp] theorem updEng_regs (s : State) (d e : Nat) (f : Engine → Engine) : (updEng s d e f).regs = s.regs := rfl
@[simp] theorem updEng_held (s : State) (d e : Nat) (f : Engine → Engine) : (updEng s d e f).held = s.held := rfl
@[simp] theorem updEng_winEff (s : State) (d e : Nat) (f : Engine → Engine) : (updEng s d e f).winEff = s.winEff := rfl
@[simp] theorem updEng_winPend (s : State) (d e : Nat) (f : Engine → Engine) : (updEng s d e f).winPend = s.winPend := rfl
@[simp] theorem updEng_blocks (s : State) (d e : Nat) (f : Engine → Engine) : (updEng s d e f).blocks = s.blocks := rfl
@[simp] theorem updEng_noBlockAt (s : State) (d e : Nat) (f : Engine → Engine) : (updEng s d e f).noBlockAt = s.noBlockAt := rfl
@[simp] theorem updEng_cslots (s : State) (d e : Nat) (f : Engine → Engine) : (updEng s d e f).cslots = s.cslots := rfl
@[simp] theorem updEng_epoch (s : State) (d e : Nat) (f : Engine → Engine) : (updEng s d e f).epoch = s.epoch := rfl
@[simp] theorem updEng_harn (s : State) (d e : Nat) (f : Engine → Engine) : (updEng s d e f).harn = s.harn := rfl
@[simp] theorem updEng_coll (s : State) (d e : Nat) (f : Engine → Engine) : (updEng s d e f).coll = s.coll := rfl
@[simp] theorem updEng_localQ (s : State) (d e : Nat) (f : Engine → Engine) : (updEng s d e f).localQ = s.localQ := rfl
@[simp] theorem updEng_img (s : State) (d e : Nat) (f : Engine → Engine) : (updEng s d e f).img = s.img := rfl
@[simp] theorem updEng_clusters (s : State) (d e : Nat) (f : Engine → Engine) : (updEng s d e f).clusters = s.clusters := rfl
@[simp] theorem updEng_thr (s : State) (d e : Nat) (f : Engine → Engine) : (updEng s d e f).thr = s.thr := rfl
@[simp] theorem updEng_scratch (s : State) (d e : Nat) (f : Engine → Engine) : (updEng s d e f).scratch = s.scratch := rfl
@[simp] theorem updEng_cmem (s : State) (d e : Nat) (f : Engine → Engine) : (updEng s d e f).cmem = s.cmem := rfl
@[simp] theorem updEng_eng (s : State) (d e : Nat) (f : Engine → Engine) : (updEng s d e f).eng = Tab.upd {} s.eng (8 * d + e) f := rfl
@[simp] theorem updEng_descId (s : State) (d e : Nat) (f : Engine → Engine) : (updEng s d e f).descId = s.descId := rfl
@[simp] theorem updEng_hub (s : State) (d e : Nat) (f : Engine → Engine) : (updEng s d e f).hub = s.hub := rfl
@[simp] theorem updEng_ports (s : State) (d e : Nat) (f : Engine → Engine) : (updEng s d e f).ports = s.ports := rfl
@[simp] theorem updEng_lanes (s : State) (d e : Nat) (f : Engine → Engine) : (updEng s d e f).lanes = s.lanes := rfl
@[simp] theorem updEng_lmap (s : State) (d e : Nat) (f : Engine → Engine) : (updEng s d e f).lmap = s.lmap := rfl
@[simp] theorem updEng_cmap (s : State) (d e : Nat) (f : Engine → Engine) : (updEng s d e f).cmap = s.cmap := rfl
@[simp] theorem updEng_code (s : State) (d e : Nat) (f : Engine → Engine) : (updEng s d e f).code = s.code := rfl
@[simp] theorem updEng_issue (s : State) (d e : Nat) (f : Engine → Engine) : (updEng s d e f).issue = s.issue := rfl
@[simp] theorem updEng_lard (s : State) (d e : Nat) (f : Engine → Engine) : (updEng s d e f).lard = s.lard := rfl
@[simp] theorem updEng_e2e (s : State) (d e : Nat) (f : Engine → Engine) : (updEng s d e f).e2e = s.e2e := rfl
@[simp] theorem updEng_axle (s : State) (d e : Nat) (f : Engine → Engine) : (updEng s d e f).axle = s.axle := rfl
@[simp] theorem updEng_cert (s : State) (d e : Nat) (f : Engine → Engine) : (updEng s d e f).cert = s.cert := rfl
@[simp] theorem updEng_certRuns (s : State) (d e : Nat) (f : Engine → Engine) : (updEng s d e f).certRuns = s.certRuns := rfl
@[simp] theorem updEng_certAt (s : State) (d e : Nat) (f : Engine → Engine) : (updEng s d e f).certAt = s.certAt := rfl
@[simp] theorem updEng_rings (s : State) (d e : Nat) (f : Engine → Engine) : (updEng s d e f).rings = s.rings := rfl
@[simp] theorem updEng_replay (s : State) (d e : Nat) (f : Engine → Engine) : (updEng s d e f).replay = s.replay := rfl
@[simp] theorem updEng_telem (s : State) (d e : Nat) (f : Engine → Engine) : (updEng s d e f).telem = s.telem := rfl
@[simp] theorem updEng_eye (s : State) (d e : Nat) (f : Engine → Engine) : (updEng s d e f).eye = s.eye := rfl
@[simp] theorem updEng_wire (s : State) (d e : Nat) (f : Engine → Engine) : (updEng s d e f).wire = s.wire := rfl

-- updImg

@[simp] theorem updImg_pending (s : State) (i : Nat) (f : Image → Image) : (updImg s i f).pending = s.pending := rfl
@[simp] theorem updImg_now (s : State) (i : Nat) (f : Image → Image) : (updImg s i f).now = s.now := rfl
@[simp] theorem updImg_freeCtr (s : State) (i : Nat) (f : Image → Image) : (updImg s i f).freeCtr = s.freeCtr := rfl
@[simp] theorem updImg_flightId (s : State) (i : Nat) (f : Image → Image) : (updImg s i f).flightId = s.flightId := rfl
@[simp] theorem updImg_fixed (s : State) (i : Nat) (f : Image → Image) : (updImg s i f).fixed = s.fixed := rfl
@[simp] theorem updImg_nv (s : State) (i : Nat) (f : Image → Image) : (updImg s i f).nv = s.nv := rfl
@[simp] theorem updImg_mod (s : State) (i : Nat) (f : Image → Image) : (updImg s i f).mod = s.mod := rfl
@[simp] theorem updImg_lonus (s : State) (i : Nat) (f : Image → Image) : (updImg s i f).lonus = s.lonus := rfl
@[simp] theorem updImg_i3c (s : State) (i : Nat) (f : Image → Image) : (updImg s i f).i3c = s.i3c := rfl
@[simp] theorem updImg_mgmt (s : State) (i : Nat) (f : Image → Image) : (updImg s i f).mgmt = s.mgmt := rfl
@[simp] theorem updImg_pwr (s : State) (i : Nat) (f : Image → Image) : (updImg s i f).pwr = s.pwr := rfl
@[simp] theorem updImg_therm (s : State) (i : Nat) (f : Image → Image) : (updImg s i f).therm = s.therm := rfl
@[simp] theorem updImg_cool (s : State) (i : Nat) (f : Image → Image) : (updImg s i f).cool = s.cool := rfl
@[simp] theorem updImg_ehrok (s : State) (i : Nat) (f : Image → Image) : (updImg s i f).ehrok = s.ehrok := rfl
@[simp] theorem updImg_regs (s : State) (i : Nat) (f : Image → Image) : (updImg s i f).regs = s.regs := rfl
@[simp] theorem updImg_held (s : State) (i : Nat) (f : Image → Image) : (updImg s i f).held = s.held := rfl
@[simp] theorem updImg_winEff (s : State) (i : Nat) (f : Image → Image) : (updImg s i f).winEff = s.winEff := rfl
@[simp] theorem updImg_winPend (s : State) (i : Nat) (f : Image → Image) : (updImg s i f).winPend = s.winPend := rfl
@[simp] theorem updImg_blocks (s : State) (i : Nat) (f : Image → Image) : (updImg s i f).blocks = s.blocks := rfl
@[simp] theorem updImg_noBlockAt (s : State) (i : Nat) (f : Image → Image) : (updImg s i f).noBlockAt = s.noBlockAt := rfl
@[simp] theorem updImg_cslots (s : State) (i : Nat) (f : Image → Image) : (updImg s i f).cslots = s.cslots := rfl
@[simp] theorem updImg_epoch (s : State) (i : Nat) (f : Image → Image) : (updImg s i f).epoch = s.epoch := rfl
@[simp] theorem updImg_harn (s : State) (i : Nat) (f : Image → Image) : (updImg s i f).harn = s.harn := rfl
@[simp] theorem updImg_coll (s : State) (i : Nat) (f : Image → Image) : (updImg s i f).coll = s.coll := rfl
@[simp] theorem updImg_localQ (s : State) (i : Nat) (f : Image → Image) : (updImg s i f).localQ = s.localQ := rfl
@[simp] theorem updImg_img (s : State) (i : Nat) (f : Image → Image) : (updImg s i f).img = Tab.upd {} s.img i f := rfl
@[simp] theorem updImg_clusters (s : State) (i : Nat) (f : Image → Image) : (updImg s i f).clusters = s.clusters := rfl
@[simp] theorem updImg_thr (s : State) (i : Nat) (f : Image → Image) : (updImg s i f).thr = s.thr := rfl
@[simp] theorem updImg_scratch (s : State) (i : Nat) (f : Image → Image) : (updImg s i f).scratch = s.scratch := rfl
@[simp] theorem updImg_cmem (s : State) (i : Nat) (f : Image → Image) : (updImg s i f).cmem = s.cmem := rfl
@[simp] theorem updImg_eng (s : State) (i : Nat) (f : Image → Image) : (updImg s i f).eng = s.eng := rfl
@[simp] theorem updImg_descId (s : State) (i : Nat) (f : Image → Image) : (updImg s i f).descId = s.descId := rfl
@[simp] theorem updImg_hub (s : State) (i : Nat) (f : Image → Image) : (updImg s i f).hub = s.hub := rfl
@[simp] theorem updImg_ports (s : State) (i : Nat) (f : Image → Image) : (updImg s i f).ports = s.ports := rfl
@[simp] theorem updImg_lanes (s : State) (i : Nat) (f : Image → Image) : (updImg s i f).lanes = s.lanes := rfl
@[simp] theorem updImg_lmap (s : State) (i : Nat) (f : Image → Image) : (updImg s i f).lmap = s.lmap := rfl
@[simp] theorem updImg_cmap (s : State) (i : Nat) (f : Image → Image) : (updImg s i f).cmap = s.cmap := rfl
@[simp] theorem updImg_code (s : State) (i : Nat) (f : Image → Image) : (updImg s i f).code = s.code := rfl
@[simp] theorem updImg_issue (s : State) (i : Nat) (f : Image → Image) : (updImg s i f).issue = s.issue := rfl
@[simp] theorem updImg_lard (s : State) (i : Nat) (f : Image → Image) : (updImg s i f).lard = s.lard := rfl
@[simp] theorem updImg_e2e (s : State) (i : Nat) (f : Image → Image) : (updImg s i f).e2e = s.e2e := rfl
@[simp] theorem updImg_axle (s : State) (i : Nat) (f : Image → Image) : (updImg s i f).axle = s.axle := rfl
@[simp] theorem updImg_cert (s : State) (i : Nat) (f : Image → Image) : (updImg s i f).cert = s.cert := rfl
@[simp] theorem updImg_certRuns (s : State) (i : Nat) (f : Image → Image) : (updImg s i f).certRuns = s.certRuns := rfl
@[simp] theorem updImg_certAt (s : State) (i : Nat) (f : Image → Image) : (updImg s i f).certAt = s.certAt := rfl
@[simp] theorem updImg_rings (s : State) (i : Nat) (f : Image → Image) : (updImg s i f).rings = s.rings := rfl
@[simp] theorem updImg_replay (s : State) (i : Nat) (f : Image → Image) : (updImg s i f).replay = s.replay := rfl
@[simp] theorem updImg_telem (s : State) (i : Nat) (f : Image → Image) : (updImg s i f).telem = s.telem := rfl
@[simp] theorem updImg_eye (s : State) (i : Nat) (f : Image → Image) : (updImg s i f).eye = s.eye := rfl
@[simp] theorem updImg_wire (s : State) (i : Nat) (f : Image → Image) : (updImg s i f).wire = s.wire := rfl

-- updHarn

@[simp] theorem updHarn_pending (s : State) (h : Nat) (f : Harness → Harness) : (updHarn s h f).pending = s.pending := rfl
@[simp] theorem updHarn_now (s : State) (h : Nat) (f : Harness → Harness) : (updHarn s h f).now = s.now := rfl
@[simp] theorem updHarn_freeCtr (s : State) (h : Nat) (f : Harness → Harness) : (updHarn s h f).freeCtr = s.freeCtr := rfl
@[simp] theorem updHarn_flightId (s : State) (h : Nat) (f : Harness → Harness) : (updHarn s h f).flightId = s.flightId := rfl
@[simp] theorem updHarn_fixed (s : State) (h : Nat) (f : Harness → Harness) : (updHarn s h f).fixed = s.fixed := rfl
@[simp] theorem updHarn_nv (s : State) (h : Nat) (f : Harness → Harness) : (updHarn s h f).nv = s.nv := rfl
@[simp] theorem updHarn_mod (s : State) (h : Nat) (f : Harness → Harness) : (updHarn s h f).mod = s.mod := rfl
@[simp] theorem updHarn_lonus (s : State) (h : Nat) (f : Harness → Harness) : (updHarn s h f).lonus = s.lonus := rfl
@[simp] theorem updHarn_i3c (s : State) (h : Nat) (f : Harness → Harness) : (updHarn s h f).i3c = s.i3c := rfl
@[simp] theorem updHarn_mgmt (s : State) (h : Nat) (f : Harness → Harness) : (updHarn s h f).mgmt = s.mgmt := rfl
@[simp] theorem updHarn_pwr (s : State) (h : Nat) (f : Harness → Harness) : (updHarn s h f).pwr = s.pwr := rfl
@[simp] theorem updHarn_therm (s : State) (h : Nat) (f : Harness → Harness) : (updHarn s h f).therm = s.therm := rfl
@[simp] theorem updHarn_cool (s : State) (h : Nat) (f : Harness → Harness) : (updHarn s h f).cool = s.cool := rfl
@[simp] theorem updHarn_ehrok (s : State) (h : Nat) (f : Harness → Harness) : (updHarn s h f).ehrok = s.ehrok := rfl
@[simp] theorem updHarn_regs (s : State) (h : Nat) (f : Harness → Harness) : (updHarn s h f).regs = s.regs := rfl
@[simp] theorem updHarn_held (s : State) (h : Nat) (f : Harness → Harness) : (updHarn s h f).held = s.held := rfl
@[simp] theorem updHarn_winEff (s : State) (h : Nat) (f : Harness → Harness) : (updHarn s h f).winEff = s.winEff := rfl
@[simp] theorem updHarn_winPend (s : State) (h : Nat) (f : Harness → Harness) : (updHarn s h f).winPend = s.winPend := rfl
@[simp] theorem updHarn_blocks (s : State) (h : Nat) (f : Harness → Harness) : (updHarn s h f).blocks = s.blocks := rfl
@[simp] theorem updHarn_noBlockAt (s : State) (h : Nat) (f : Harness → Harness) : (updHarn s h f).noBlockAt = s.noBlockAt := rfl
@[simp] theorem updHarn_cslots (s : State) (h : Nat) (f : Harness → Harness) : (updHarn s h f).cslots = s.cslots := rfl
@[simp] theorem updHarn_epoch (s : State) (h : Nat) (f : Harness → Harness) : (updHarn s h f).epoch = s.epoch := rfl
@[simp] theorem updHarn_harn (s : State) (h : Nat) (f : Harness → Harness) : (updHarn s h f).harn = Tab.upd {} s.harn h f := rfl
@[simp] theorem updHarn_coll (s : State) (h : Nat) (f : Harness → Harness) : (updHarn s h f).coll = s.coll := rfl
@[simp] theorem updHarn_localQ (s : State) (h : Nat) (f : Harness → Harness) : (updHarn s h f).localQ = s.localQ := rfl
@[simp] theorem updHarn_img (s : State) (h : Nat) (f : Harness → Harness) : (updHarn s h f).img = s.img := rfl
@[simp] theorem updHarn_clusters (s : State) (h : Nat) (f : Harness → Harness) : (updHarn s h f).clusters = s.clusters := rfl
@[simp] theorem updHarn_thr (s : State) (h : Nat) (f : Harness → Harness) : (updHarn s h f).thr = s.thr := rfl
@[simp] theorem updHarn_scratch (s : State) (h : Nat) (f : Harness → Harness) : (updHarn s h f).scratch = s.scratch := rfl
@[simp] theorem updHarn_cmem (s : State) (h : Nat) (f : Harness → Harness) : (updHarn s h f).cmem = s.cmem := rfl
@[simp] theorem updHarn_eng (s : State) (h : Nat) (f : Harness → Harness) : (updHarn s h f).eng = s.eng := rfl
@[simp] theorem updHarn_descId (s : State) (h : Nat) (f : Harness → Harness) : (updHarn s h f).descId = s.descId := rfl
@[simp] theorem updHarn_hub (s : State) (h : Nat) (f : Harness → Harness) : (updHarn s h f).hub = s.hub := rfl
@[simp] theorem updHarn_ports (s : State) (h : Nat) (f : Harness → Harness) : (updHarn s h f).ports = s.ports := rfl
@[simp] theorem updHarn_lanes (s : State) (h : Nat) (f : Harness → Harness) : (updHarn s h f).lanes = s.lanes := rfl
@[simp] theorem updHarn_lmap (s : State) (h : Nat) (f : Harness → Harness) : (updHarn s h f).lmap = s.lmap := rfl
@[simp] theorem updHarn_cmap (s : State) (h : Nat) (f : Harness → Harness) : (updHarn s h f).cmap = s.cmap := rfl
@[simp] theorem updHarn_code (s : State) (h : Nat) (f : Harness → Harness) : (updHarn s h f).code = s.code := rfl
@[simp] theorem updHarn_issue (s : State) (h : Nat) (f : Harness → Harness) : (updHarn s h f).issue = s.issue := rfl
@[simp] theorem updHarn_lard (s : State) (h : Nat) (f : Harness → Harness) : (updHarn s h f).lard = s.lard := rfl
@[simp] theorem updHarn_e2e (s : State) (h : Nat) (f : Harness → Harness) : (updHarn s h f).e2e = s.e2e := rfl
@[simp] theorem updHarn_axle (s : State) (h : Nat) (f : Harness → Harness) : (updHarn s h f).axle = s.axle := rfl
@[simp] theorem updHarn_cert (s : State) (h : Nat) (f : Harness → Harness) : (updHarn s h f).cert = s.cert := rfl
@[simp] theorem updHarn_certRuns (s : State) (h : Nat) (f : Harness → Harness) : (updHarn s h f).certRuns = s.certRuns := rfl
@[simp] theorem updHarn_certAt (s : State) (h : Nat) (f : Harness → Harness) : (updHarn s h f).certAt = s.certAt := rfl
@[simp] theorem updHarn_rings (s : State) (h : Nat) (f : Harness → Harness) : (updHarn s h f).rings = s.rings := rfl
@[simp] theorem updHarn_replay (s : State) (h : Nat) (f : Harness → Harness) : (updHarn s h f).replay = s.replay := rfl
@[simp] theorem updHarn_telem (s : State) (h : Nat) (f : Harness → Harness) : (updHarn s h f).telem = s.telem := rfl
@[simp] theorem updHarn_eye (s : State) (h : Nat) (f : Harness → Harness) : (updHarn s h f).eye = s.eye := rfl
@[simp] theorem updHarn_wire (s : State) (h : Nat) (f : Harness → Harness) : (updHarn s h f).wire = s.wire := rfl

-- updRing

@[simp] theorem updRing_pending (s : State) (r : Nat) (f : Ring → Ring) : (updRing s r f).pending = s.pending := rfl
@[simp] theorem updRing_now (s : State) (r : Nat) (f : Ring → Ring) : (updRing s r f).now = s.now := rfl
@[simp] theorem updRing_freeCtr (s : State) (r : Nat) (f : Ring → Ring) : (updRing s r f).freeCtr = s.freeCtr := rfl
@[simp] theorem updRing_flightId (s : State) (r : Nat) (f : Ring → Ring) : (updRing s r f).flightId = s.flightId := rfl
@[simp] theorem updRing_fixed (s : State) (r : Nat) (f : Ring → Ring) : (updRing s r f).fixed = s.fixed := rfl
@[simp] theorem updRing_nv (s : State) (r : Nat) (f : Ring → Ring) : (updRing s r f).nv = s.nv := rfl
@[simp] theorem updRing_mod (s : State) (r : Nat) (f : Ring → Ring) : (updRing s r f).mod = s.mod := rfl
@[simp] theorem updRing_lonus (s : State) (r : Nat) (f : Ring → Ring) : (updRing s r f).lonus = s.lonus := rfl
@[simp] theorem updRing_i3c (s : State) (r : Nat) (f : Ring → Ring) : (updRing s r f).i3c = s.i3c := rfl
@[simp] theorem updRing_mgmt (s : State) (r : Nat) (f : Ring → Ring) : (updRing s r f).mgmt = s.mgmt := rfl
@[simp] theorem updRing_pwr (s : State) (r : Nat) (f : Ring → Ring) : (updRing s r f).pwr = s.pwr := rfl
@[simp] theorem updRing_therm (s : State) (r : Nat) (f : Ring → Ring) : (updRing s r f).therm = s.therm := rfl
@[simp] theorem updRing_cool (s : State) (r : Nat) (f : Ring → Ring) : (updRing s r f).cool = s.cool := rfl
@[simp] theorem updRing_ehrok (s : State) (r : Nat) (f : Ring → Ring) : (updRing s r f).ehrok = s.ehrok := rfl
@[simp] theorem updRing_regs (s : State) (r : Nat) (f : Ring → Ring) : (updRing s r f).regs = s.regs := rfl
@[simp] theorem updRing_held (s : State) (r : Nat) (f : Ring → Ring) : (updRing s r f).held = s.held := rfl
@[simp] theorem updRing_winEff (s : State) (r : Nat) (f : Ring → Ring) : (updRing s r f).winEff = s.winEff := rfl
@[simp] theorem updRing_winPend (s : State) (r : Nat) (f : Ring → Ring) : (updRing s r f).winPend = s.winPend := rfl
@[simp] theorem updRing_blocks (s : State) (r : Nat) (f : Ring → Ring) : (updRing s r f).blocks = s.blocks := rfl
@[simp] theorem updRing_noBlockAt (s : State) (r : Nat) (f : Ring → Ring) : (updRing s r f).noBlockAt = s.noBlockAt := rfl
@[simp] theorem updRing_cslots (s : State) (r : Nat) (f : Ring → Ring) : (updRing s r f).cslots = s.cslots := rfl
@[simp] theorem updRing_epoch (s : State) (r : Nat) (f : Ring → Ring) : (updRing s r f).epoch = s.epoch := rfl
@[simp] theorem updRing_harn (s : State) (r : Nat) (f : Ring → Ring) : (updRing s r f).harn = s.harn := rfl
@[simp] theorem updRing_coll (s : State) (r : Nat) (f : Ring → Ring) : (updRing s r f).coll = s.coll := rfl
@[simp] theorem updRing_localQ (s : State) (r : Nat) (f : Ring → Ring) : (updRing s r f).localQ = s.localQ := rfl
@[simp] theorem updRing_img (s : State) (r : Nat) (f : Ring → Ring) : (updRing s r f).img = s.img := rfl
@[simp] theorem updRing_clusters (s : State) (r : Nat) (f : Ring → Ring) : (updRing s r f).clusters = s.clusters := rfl
@[simp] theorem updRing_thr (s : State) (r : Nat) (f : Ring → Ring) : (updRing s r f).thr = s.thr := rfl
@[simp] theorem updRing_scratch (s : State) (r : Nat) (f : Ring → Ring) : (updRing s r f).scratch = s.scratch := rfl
@[simp] theorem updRing_cmem (s : State) (r : Nat) (f : Ring → Ring) : (updRing s r f).cmem = s.cmem := rfl
@[simp] theorem updRing_eng (s : State) (r : Nat) (f : Ring → Ring) : (updRing s r f).eng = s.eng := rfl
@[simp] theorem updRing_descId (s : State) (r : Nat) (f : Ring → Ring) : (updRing s r f).descId = s.descId := rfl
@[simp] theorem updRing_hub (s : State) (r : Nat) (f : Ring → Ring) : (updRing s r f).hub = s.hub := rfl
@[simp] theorem updRing_ports (s : State) (r : Nat) (f : Ring → Ring) : (updRing s r f).ports = s.ports := rfl
@[simp] theorem updRing_lanes (s : State) (r : Nat) (f : Ring → Ring) : (updRing s r f).lanes = s.lanes := rfl
@[simp] theorem updRing_lmap (s : State) (r : Nat) (f : Ring → Ring) : (updRing s r f).lmap = s.lmap := rfl
@[simp] theorem updRing_cmap (s : State) (r : Nat) (f : Ring → Ring) : (updRing s r f).cmap = s.cmap := rfl
@[simp] theorem updRing_code (s : State) (r : Nat) (f : Ring → Ring) : (updRing s r f).code = s.code := rfl
@[simp] theorem updRing_issue (s : State) (r : Nat) (f : Ring → Ring) : (updRing s r f).issue = s.issue := rfl
@[simp] theorem updRing_lard (s : State) (r : Nat) (f : Ring → Ring) : (updRing s r f).lard = s.lard := rfl
@[simp] theorem updRing_e2e (s : State) (r : Nat) (f : Ring → Ring) : (updRing s r f).e2e = s.e2e := rfl
@[simp] theorem updRing_axle (s : State) (r : Nat) (f : Ring → Ring) : (updRing s r f).axle = s.axle := rfl
@[simp] theorem updRing_cert (s : State) (r : Nat) (f : Ring → Ring) : (updRing s r f).cert = s.cert := rfl
@[simp] theorem updRing_certRuns (s : State) (r : Nat) (f : Ring → Ring) : (updRing s r f).certRuns = s.certRuns := rfl
@[simp] theorem updRing_certAt (s : State) (r : Nat) (f : Ring → Ring) : (updRing s r f).certAt = s.certAt := rfl
@[simp] theorem updRing_rings (s : State) (r : Nat) (f : Ring → Ring) : (updRing s r f).rings = Tab.upd {} s.rings r f := rfl
@[simp] theorem updRing_replay (s : State) (r : Nat) (f : Ring → Ring) : (updRing s r f).replay = s.replay := rfl
@[simp] theorem updRing_telem (s : State) (r : Nat) (f : Ring → Ring) : (updRing s r f).telem = s.telem := rfl
@[simp] theorem updRing_eye (s : State) (r : Nat) (f : Ring → Ring) : (updRing s r f).eye = s.eye := rfl
@[simp] theorem updRing_wire (s : State) (r : Nat) (f : Ring → Ring) : (updRing s r f).wire = s.wire := rfl

-- updThr

@[simp] theorem updThr_pending (s : State) (t : ThreadRef) (f : Thread → Thread) : (updThr s t f).pending = s.pending := rfl
@[simp] theorem updThr_now (s : State) (t : ThreadRef) (f : Thread → Thread) : (updThr s t f).now = s.now := rfl
@[simp] theorem updThr_freeCtr (s : State) (t : ThreadRef) (f : Thread → Thread) : (updThr s t f).freeCtr = s.freeCtr := rfl
@[simp] theorem updThr_flightId (s : State) (t : ThreadRef) (f : Thread → Thread) : (updThr s t f).flightId = s.flightId := rfl
@[simp] theorem updThr_fixed (s : State) (t : ThreadRef) (f : Thread → Thread) : (updThr s t f).fixed = s.fixed := rfl
@[simp] theorem updThr_nv (s : State) (t : ThreadRef) (f : Thread → Thread) : (updThr s t f).nv = s.nv := rfl
@[simp] theorem updThr_mod (s : State) (t : ThreadRef) (f : Thread → Thread) : (updThr s t f).mod = s.mod := rfl
@[simp] theorem updThr_lonus (s : State) (t : ThreadRef) (f : Thread → Thread) : (updThr s t f).lonus = s.lonus := rfl
@[simp] theorem updThr_i3c (s : State) (t : ThreadRef) (f : Thread → Thread) : (updThr s t f).i3c = s.i3c := rfl
@[simp] theorem updThr_mgmt (s : State) (t : ThreadRef) (f : Thread → Thread) : (updThr s t f).mgmt = s.mgmt := rfl
@[simp] theorem updThr_pwr (s : State) (t : ThreadRef) (f : Thread → Thread) : (updThr s t f).pwr = s.pwr := rfl
@[simp] theorem updThr_therm (s : State) (t : ThreadRef) (f : Thread → Thread) : (updThr s t f).therm = s.therm := rfl
@[simp] theorem updThr_cool (s : State) (t : ThreadRef) (f : Thread → Thread) : (updThr s t f).cool = s.cool := rfl
@[simp] theorem updThr_ehrok (s : State) (t : ThreadRef) (f : Thread → Thread) : (updThr s t f).ehrok = s.ehrok := rfl
@[simp] theorem updThr_regs (s : State) (t : ThreadRef) (f : Thread → Thread) : (updThr s t f).regs = s.regs := rfl
@[simp] theorem updThr_held (s : State) (t : ThreadRef) (f : Thread → Thread) : (updThr s t f).held = s.held := rfl
@[simp] theorem updThr_winEff (s : State) (t : ThreadRef) (f : Thread → Thread) : (updThr s t f).winEff = s.winEff := rfl
@[simp] theorem updThr_winPend (s : State) (t : ThreadRef) (f : Thread → Thread) : (updThr s t f).winPend = s.winPend := rfl
@[simp] theorem updThr_blocks (s : State) (t : ThreadRef) (f : Thread → Thread) : (updThr s t f).blocks = s.blocks := rfl
@[simp] theorem updThr_noBlockAt (s : State) (t : ThreadRef) (f : Thread → Thread) : (updThr s t f).noBlockAt = s.noBlockAt := rfl
@[simp] theorem updThr_cslots (s : State) (t : ThreadRef) (f : Thread → Thread) : (updThr s t f).cslots = s.cslots := rfl
@[simp] theorem updThr_epoch (s : State) (t : ThreadRef) (f : Thread → Thread) : (updThr s t f).epoch = s.epoch := rfl
@[simp] theorem updThr_harn (s : State) (t : ThreadRef) (f : Thread → Thread) : (updThr s t f).harn = s.harn := rfl
@[simp] theorem updThr_coll (s : State) (t : ThreadRef) (f : Thread → Thread) : (updThr s t f).coll = s.coll := rfl
@[simp] theorem updThr_localQ (s : State) (t : ThreadRef) (f : Thread → Thread) : (updThr s t f).localQ = s.localQ := rfl
@[simp] theorem updThr_img (s : State) (t : ThreadRef) (f : Thread → Thread) : (updThr s t f).img = s.img := rfl
@[simp] theorem updThr_clusters (s : State) (t : ThreadRef) (f : Thread → Thread) : (updThr s t f).clusters = s.clusters := rfl
@[simp] theorem updThr_thr (s : State) (t : ThreadRef) (f : Thread → Thread) : (updThr s t f).thr = Tab.upd {} s.thr (thrKey t) f := rfl
@[simp] theorem updThr_scratch (s : State) (t : ThreadRef) (f : Thread → Thread) : (updThr s t f).scratch = s.scratch := rfl
@[simp] theorem updThr_cmem (s : State) (t : ThreadRef) (f : Thread → Thread) : (updThr s t f).cmem = s.cmem := rfl
@[simp] theorem updThr_eng (s : State) (t : ThreadRef) (f : Thread → Thread) : (updThr s t f).eng = s.eng := rfl
@[simp] theorem updThr_descId (s : State) (t : ThreadRef) (f : Thread → Thread) : (updThr s t f).descId = s.descId := rfl
@[simp] theorem updThr_hub (s : State) (t : ThreadRef) (f : Thread → Thread) : (updThr s t f).hub = s.hub := rfl
@[simp] theorem updThr_ports (s : State) (t : ThreadRef) (f : Thread → Thread) : (updThr s t f).ports = s.ports := rfl
@[simp] theorem updThr_lanes (s : State) (t : ThreadRef) (f : Thread → Thread) : (updThr s t f).lanes = s.lanes := rfl
@[simp] theorem updThr_lmap (s : State) (t : ThreadRef) (f : Thread → Thread) : (updThr s t f).lmap = s.lmap := rfl
@[simp] theorem updThr_cmap (s : State) (t : ThreadRef) (f : Thread → Thread) : (updThr s t f).cmap = s.cmap := rfl
@[simp] theorem updThr_code (s : State) (t : ThreadRef) (f : Thread → Thread) : (updThr s t f).code = s.code := rfl
@[simp] theorem updThr_issue (s : State) (t : ThreadRef) (f : Thread → Thread) : (updThr s t f).issue = s.issue := rfl
@[simp] theorem updThr_lard (s : State) (t : ThreadRef) (f : Thread → Thread) : (updThr s t f).lard = s.lard := rfl
@[simp] theorem updThr_e2e (s : State) (t : ThreadRef) (f : Thread → Thread) : (updThr s t f).e2e = s.e2e := rfl
@[simp] theorem updThr_axle (s : State) (t : ThreadRef) (f : Thread → Thread) : (updThr s t f).axle = s.axle := rfl
@[simp] theorem updThr_cert (s : State) (t : ThreadRef) (f : Thread → Thread) : (updThr s t f).cert = s.cert := rfl
@[simp] theorem updThr_certRuns (s : State) (t : ThreadRef) (f : Thread → Thread) : (updThr s t f).certRuns = s.certRuns := rfl
@[simp] theorem updThr_certAt (s : State) (t : ThreadRef) (f : Thread → Thread) : (updThr s t f).certAt = s.certAt := rfl
@[simp] theorem updThr_rings (s : State) (t : ThreadRef) (f : Thread → Thread) : (updThr s t f).rings = s.rings := rfl
@[simp] theorem updThr_replay (s : State) (t : ThreadRef) (f : Thread → Thread) : (updThr s t f).replay = s.replay := rfl
@[simp] theorem updThr_telem (s : State) (t : ThreadRef) (f : Thread → Thread) : (updThr s t f).telem = s.telem := rfl
@[simp] theorem updThr_eye (s : State) (t : ThreadRef) (f : Thread → Thread) : (updThr s t f).eye = s.eye := rfl
@[simp] theorem updThr_wire (s : State) (t : ThreadRef) (f : Thread → Thread) : (updThr s t f).wire = s.wire := rfl

-- updLd

@[simp] theorem updLd_pending (s : State) (d : Nat) (f : LDie → LDie) : (updLd s d f).pending = s.pending := rfl
@[simp] theorem updLd_now (s : State) (d : Nat) (f : LDie → LDie) : (updLd s d f).now = s.now := rfl
@[simp] theorem updLd_freeCtr (s : State) (d : Nat) (f : LDie → LDie) : (updLd s d f).freeCtr = s.freeCtr := rfl
@[simp] theorem updLd_flightId (s : State) (d : Nat) (f : LDie → LDie) : (updLd s d f).flightId = s.flightId := rfl
@[simp] theorem updLd_fixed (s : State) (d : Nat) (f : LDie → LDie) : (updLd s d f).fixed = s.fixed := rfl
@[simp] theorem updLd_nv (s : State) (d : Nat) (f : LDie → LDie) : (updLd s d f).nv = s.nv := rfl
@[simp] theorem updLd_mod (s : State) (d : Nat) (f : LDie → LDie) : (updLd s d f).mod = s.mod := rfl
@[simp] theorem updLd_lonus (s : State) (d : Nat) (f : LDie → LDie) : (updLd s d f).lonus = s.lonus := rfl
@[simp] theorem updLd_i3c (s : State) (d : Nat) (f : LDie → LDie) : (updLd s d f).i3c = s.i3c := rfl
@[simp] theorem updLd_mgmt (s : State) (d : Nat) (f : LDie → LDie) : (updLd s d f).mgmt = s.mgmt := rfl
@[simp] theorem updLd_pwr (s : State) (d : Nat) (f : LDie → LDie) : (updLd s d f).pwr = s.pwr := rfl
@[simp] theorem updLd_therm (s : State) (d : Nat) (f : LDie → LDie) : (updLd s d f).therm = s.therm := rfl
@[simp] theorem updLd_cool (s : State) (d : Nat) (f : LDie → LDie) : (updLd s d f).cool = s.cool := rfl
@[simp] theorem updLd_ehrok (s : State) (d : Nat) (f : LDie → LDie) : (updLd s d f).ehrok = s.ehrok := rfl
@[simp] theorem updLd_regs (s : State) (d : Nat) (f : LDie → LDie) : (updLd s d f).regs = s.regs := rfl
@[simp] theorem updLd_held (s : State) (d : Nat) (f : LDie → LDie) : (updLd s d f).held = s.held := rfl
@[simp] theorem updLd_winEff (s : State) (d : Nat) (f : LDie → LDie) : (updLd s d f).winEff = s.winEff := rfl
@[simp] theorem updLd_winPend (s : State) (d : Nat) (f : LDie → LDie) : (updLd s d f).winPend = s.winPend := rfl
@[simp] theorem updLd_blocks (s : State) (d : Nat) (f : LDie → LDie) : (updLd s d f).blocks = s.blocks := rfl
@[simp] theorem updLd_noBlockAt (s : State) (d : Nat) (f : LDie → LDie) : (updLd s d f).noBlockAt = s.noBlockAt := rfl
@[simp] theorem updLd_cslots (s : State) (d : Nat) (f : LDie → LDie) : (updLd s d f).cslots = s.cslots := rfl
@[simp] theorem updLd_epoch (s : State) (d : Nat) (f : LDie → LDie) : (updLd s d f).epoch = s.epoch := rfl
@[simp] theorem updLd_harn (s : State) (d : Nat) (f : LDie → LDie) : (updLd s d f).harn = s.harn := rfl
@[simp] theorem updLd_coll (s : State) (d : Nat) (f : LDie → LDie) : (updLd s d f).coll = s.coll := rfl
@[simp] theorem updLd_localQ (s : State) (d : Nat) (f : LDie → LDie) : (updLd s d f).localQ = s.localQ := rfl
@[simp] theorem updLd_img (s : State) (d : Nat) (f : LDie → LDie) : (updLd s d f).img = s.img := rfl
@[simp] theorem updLd_clusters (s : State) (d : Nat) (f : LDie → LDie) : (updLd s d f).clusters = s.clusters := rfl
@[simp] theorem updLd_thr (s : State) (d : Nat) (f : LDie → LDie) : (updLd s d f).thr = s.thr := rfl
@[simp] theorem updLd_scratch (s : State) (d : Nat) (f : LDie → LDie) : (updLd s d f).scratch = s.scratch := rfl
@[simp] theorem updLd_cmem (s : State) (d : Nat) (f : LDie → LDie) : (updLd s d f).cmem = s.cmem := rfl
@[simp] theorem updLd_eng (s : State) (d : Nat) (f : LDie → LDie) : (updLd s d f).eng = s.eng := rfl
@[simp] theorem updLd_descId (s : State) (d : Nat) (f : LDie → LDie) : (updLd s d f).descId = s.descId := rfl
@[simp] theorem updLd_hub (s : State) (d : Nat) (f : LDie → LDie) : (updLd s d f).hub = s.hub := rfl
@[simp] theorem updLd_ports (s : State) (d : Nat) (f : LDie → LDie) : (updLd s d f).ports = s.ports := rfl
@[simp] theorem updLd_lanes (s : State) (d : Nat) (f : LDie → LDie) : (updLd s d f).lanes = s.lanes := rfl
@[simp] theorem updLd_lmap (s : State) (d : Nat) (f : LDie → LDie) : (updLd s d f).lmap = s.lmap := rfl
@[simp] theorem updLd_cmap (s : State) (d : Nat) (f : LDie → LDie) : (updLd s d f).cmap = s.cmap := rfl
@[simp] theorem updLd_code (s : State) (d : Nat) (f : LDie → LDie) : (updLd s d f).code = s.code := rfl
@[simp] theorem updLd_issue (s : State) (d : Nat) (f : LDie → LDie) : (updLd s d f).issue = s.issue := rfl
@[simp] theorem updLd_lard (s : State) (d : Nat) (f : LDie → LDie) : (updLd s d f).lard = { s.lard with dies := Tab.upd {} s.lard.dies d f } := rfl
@[simp] theorem updLd_e2e (s : State) (d : Nat) (f : LDie → LDie) : (updLd s d f).e2e = s.e2e := rfl
@[simp] theorem updLd_axle (s : State) (d : Nat) (f : LDie → LDie) : (updLd s d f).axle = s.axle := rfl
@[simp] theorem updLd_cert (s : State) (d : Nat) (f : LDie → LDie) : (updLd s d f).cert = s.cert := rfl
@[simp] theorem updLd_certRuns (s : State) (d : Nat) (f : LDie → LDie) : (updLd s d f).certRuns = s.certRuns := rfl
@[simp] theorem updLd_certAt (s : State) (d : Nat) (f : LDie → LDie) : (updLd s d f).certAt = s.certAt := rfl
@[simp] theorem updLd_rings (s : State) (d : Nat) (f : LDie → LDie) : (updLd s d f).rings = s.rings := rfl
@[simp] theorem updLd_replay (s : State) (d : Nat) (f : LDie → LDie) : (updLd s d f).replay = s.replay := rfl
@[simp] theorem updLd_telem (s : State) (d : Nat) (f : LDie → LDie) : (updLd s d f).telem = s.telem := rfl
@[simp] theorem updLd_eye (s : State) (d : Nat) (f : LDie → LDie) : (updLd s d f).eye = s.eye := rfl
@[simp] theorem updLd_wire (s : State) (d : Nat) (f : LDie → LDie) : (updLd s d f).wire = s.wire := rfl

-- updRecv

@[simp] theorem updRecv_pending (s : State) (e : Nat) (f : Recv → Recv) : (updRecv s e f).pending = s.pending := rfl
@[simp] theorem updRecv_now (s : State) (e : Nat) (f : Recv → Recv) : (updRecv s e f).now = s.now := rfl
@[simp] theorem updRecv_freeCtr (s : State) (e : Nat) (f : Recv → Recv) : (updRecv s e f).freeCtr = s.freeCtr := rfl
@[simp] theorem updRecv_flightId (s : State) (e : Nat) (f : Recv → Recv) : (updRecv s e f).flightId = s.flightId := rfl
@[simp] theorem updRecv_fixed (s : State) (e : Nat) (f : Recv → Recv) : (updRecv s e f).fixed = s.fixed := rfl
@[simp] theorem updRecv_nv (s : State) (e : Nat) (f : Recv → Recv) : (updRecv s e f).nv = s.nv := rfl
@[simp] theorem updRecv_mod (s : State) (e : Nat) (f : Recv → Recv) : (updRecv s e f).mod = s.mod := rfl
@[simp] theorem updRecv_lonus (s : State) (e : Nat) (f : Recv → Recv) : (updRecv s e f).lonus = s.lonus := rfl
@[simp] theorem updRecv_i3c (s : State) (e : Nat) (f : Recv → Recv) : (updRecv s e f).i3c = s.i3c := rfl
@[simp] theorem updRecv_mgmt (s : State) (e : Nat) (f : Recv → Recv) : (updRecv s e f).mgmt = s.mgmt := rfl
@[simp] theorem updRecv_pwr (s : State) (e : Nat) (f : Recv → Recv) : (updRecv s e f).pwr = s.pwr := rfl
@[simp] theorem updRecv_therm (s : State) (e : Nat) (f : Recv → Recv) : (updRecv s e f).therm = s.therm := rfl
@[simp] theorem updRecv_cool (s : State) (e : Nat) (f : Recv → Recv) : (updRecv s e f).cool = s.cool := rfl
@[simp] theorem updRecv_ehrok (s : State) (e : Nat) (f : Recv → Recv) : (updRecv s e f).ehrok = s.ehrok := rfl
@[simp] theorem updRecv_regs (s : State) (e : Nat) (f : Recv → Recv) : (updRecv s e f).regs = s.regs := rfl
@[simp] theorem updRecv_held (s : State) (e : Nat) (f : Recv → Recv) : (updRecv s e f).held = s.held := rfl
@[simp] theorem updRecv_winEff (s : State) (e : Nat) (f : Recv → Recv) : (updRecv s e f).winEff = s.winEff := rfl
@[simp] theorem updRecv_winPend (s : State) (e : Nat) (f : Recv → Recv) : (updRecv s e f).winPend = s.winPend := rfl
@[simp] theorem updRecv_blocks (s : State) (e : Nat) (f : Recv → Recv) : (updRecv s e f).blocks = s.blocks := rfl
@[simp] theorem updRecv_noBlockAt (s : State) (e : Nat) (f : Recv → Recv) : (updRecv s e f).noBlockAt = s.noBlockAt := rfl
@[simp] theorem updRecv_cslots (s : State) (e : Nat) (f : Recv → Recv) : (updRecv s e f).cslots = s.cslots := rfl
@[simp] theorem updRecv_epoch (s : State) (e : Nat) (f : Recv → Recv) : (updRecv s e f).epoch = s.epoch := rfl
@[simp] theorem updRecv_harn (s : State) (e : Nat) (f : Recv → Recv) : (updRecv s e f).harn = s.harn := rfl
@[simp] theorem updRecv_coll (s : State) (e : Nat) (f : Recv → Recv) : (updRecv s e f).coll = s.coll := rfl
@[simp] theorem updRecv_localQ (s : State) (e : Nat) (f : Recv → Recv) : (updRecv s e f).localQ = s.localQ := rfl
@[simp] theorem updRecv_img (s : State) (e : Nat) (f : Recv → Recv) : (updRecv s e f).img = s.img := rfl
@[simp] theorem updRecv_clusters (s : State) (e : Nat) (f : Recv → Recv) : (updRecv s e f).clusters = s.clusters := rfl
@[simp] theorem updRecv_thr (s : State) (e : Nat) (f : Recv → Recv) : (updRecv s e f).thr = s.thr := rfl
@[simp] theorem updRecv_scratch (s : State) (e : Nat) (f : Recv → Recv) : (updRecv s e f).scratch = s.scratch := rfl
@[simp] theorem updRecv_cmem (s : State) (e : Nat) (f : Recv → Recv) : (updRecv s e f).cmem = s.cmem := rfl
@[simp] theorem updRecv_eng (s : State) (e : Nat) (f : Recv → Recv) : (updRecv s e f).eng = s.eng := rfl
@[simp] theorem updRecv_descId (s : State) (e : Nat) (f : Recv → Recv) : (updRecv s e f).descId = s.descId := rfl
@[simp] theorem updRecv_hub (s : State) (e : Nat) (f : Recv → Recv) : (updRecv s e f).hub = s.hub := rfl
@[simp] theorem updRecv_ports (s : State) (e : Nat) (f : Recv → Recv) : (updRecv s e f).ports = s.ports := rfl
@[simp] theorem updRecv_lanes (s : State) (e : Nat) (f : Recv → Recv) : (updRecv s e f).lanes = s.lanes := rfl
@[simp] theorem updRecv_lmap (s : State) (e : Nat) (f : Recv → Recv) : (updRecv s e f).lmap = s.lmap := rfl
@[simp] theorem updRecv_cmap (s : State) (e : Nat) (f : Recv → Recv) : (updRecv s e f).cmap = s.cmap := rfl
@[simp] theorem updRecv_code (s : State) (e : Nat) (f : Recv → Recv) : (updRecv s e f).code = s.code := rfl
@[simp] theorem updRecv_issue (s : State) (e : Nat) (f : Recv → Recv) : (updRecv s e f).issue = s.issue := rfl
@[simp] theorem updRecv_lard (s : State) (e : Nat) (f : Recv → Recv) : (updRecv s e f).lard = s.lard := rfl
@[simp] theorem updRecv_e2e (s : State) (e : Nat) (f : Recv → Recv) : (updRecv s e f).e2e = { s.e2e with recv := Tab.upd {} s.e2e.recv e f } := rfl
@[simp] theorem updRecv_axle (s : State) (e : Nat) (f : Recv → Recv) : (updRecv s e f).axle = s.axle := rfl
@[simp] theorem updRecv_cert (s : State) (e : Nat) (f : Recv → Recv) : (updRecv s e f).cert = s.cert := rfl
@[simp] theorem updRecv_certRuns (s : State) (e : Nat) (f : Recv → Recv) : (updRecv s e f).certRuns = s.certRuns := rfl
@[simp] theorem updRecv_certAt (s : State) (e : Nat) (f : Recv → Recv) : (updRecv s e f).certAt = s.certAt := rfl
@[simp] theorem updRecv_rings (s : State) (e : Nat) (f : Recv → Recv) : (updRecv s e f).rings = s.rings := rfl
@[simp] theorem updRecv_replay (s : State) (e : Nat) (f : Recv → Recv) : (updRecv s e f).replay = s.replay := rfl
@[simp] theorem updRecv_telem (s : State) (e : Nat) (f : Recv → Recv) : (updRecv s e f).telem = s.telem := rfl
@[simp] theorem updRecv_eye (s : State) (e : Nat) (f : Recv → Recv) : (updRecv s e f).eye = s.eye := rfl
@[simp] theorem updRecv_wire (s : State) (e : Nat) (f : Recv → Recv) : (updRecv s e f).wire = s.wire := rfl

-- lardWrite

@[simp] theorem lardWrite_pending (s : State) (a : Nat) (bs : List Byte) : (lardWrite s a bs).pending = s.pending := rfl
@[simp] theorem lardWrite_now (s : State) (a : Nat) (bs : List Byte) : (lardWrite s a bs).now = s.now := rfl
@[simp] theorem lardWrite_freeCtr (s : State) (a : Nat) (bs : List Byte) : (lardWrite s a bs).freeCtr = s.freeCtr := rfl
@[simp] theorem lardWrite_flightId (s : State) (a : Nat) (bs : List Byte) : (lardWrite s a bs).flightId = s.flightId := rfl
@[simp] theorem lardWrite_fixed (s : State) (a : Nat) (bs : List Byte) : (lardWrite s a bs).fixed = s.fixed := rfl
@[simp] theorem lardWrite_nv (s : State) (a : Nat) (bs : List Byte) : (lardWrite s a bs).nv = s.nv := rfl
@[simp] theorem lardWrite_mod (s : State) (a : Nat) (bs : List Byte) : (lardWrite s a bs).mod = s.mod := rfl
@[simp] theorem lardWrite_lonus (s : State) (a : Nat) (bs : List Byte) : (lardWrite s a bs).lonus = s.lonus := rfl
@[simp] theorem lardWrite_i3c (s : State) (a : Nat) (bs : List Byte) : (lardWrite s a bs).i3c = s.i3c := rfl
@[simp] theorem lardWrite_mgmt (s : State) (a : Nat) (bs : List Byte) : (lardWrite s a bs).mgmt = s.mgmt := rfl
@[simp] theorem lardWrite_pwr (s : State) (a : Nat) (bs : List Byte) : (lardWrite s a bs).pwr = s.pwr := rfl
@[simp] theorem lardWrite_therm (s : State) (a : Nat) (bs : List Byte) : (lardWrite s a bs).therm = s.therm := rfl
@[simp] theorem lardWrite_cool (s : State) (a : Nat) (bs : List Byte) : (lardWrite s a bs).cool = s.cool := rfl
@[simp] theorem lardWrite_ehrok (s : State) (a : Nat) (bs : List Byte) : (lardWrite s a bs).ehrok = s.ehrok := rfl
@[simp] theorem lardWrite_regs (s : State) (a : Nat) (bs : List Byte) : (lardWrite s a bs).regs = s.regs := rfl
@[simp] theorem lardWrite_held (s : State) (a : Nat) (bs : List Byte) : (lardWrite s a bs).held = s.held := rfl
@[simp] theorem lardWrite_winEff (s : State) (a : Nat) (bs : List Byte) : (lardWrite s a bs).winEff = s.winEff := rfl
@[simp] theorem lardWrite_winPend (s : State) (a : Nat) (bs : List Byte) : (lardWrite s a bs).winPend = s.winPend := rfl
@[simp] theorem lardWrite_blocks (s : State) (a : Nat) (bs : List Byte) : (lardWrite s a bs).blocks = s.blocks := rfl
@[simp] theorem lardWrite_noBlockAt (s : State) (a : Nat) (bs : List Byte) : (lardWrite s a bs).noBlockAt = s.noBlockAt := rfl
@[simp] theorem lardWrite_cslots (s : State) (a : Nat) (bs : List Byte) : (lardWrite s a bs).cslots = s.cslots := rfl
@[simp] theorem lardWrite_epoch (s : State) (a : Nat) (bs : List Byte) : (lardWrite s a bs).epoch = s.epoch := rfl
@[simp] theorem lardWrite_harn (s : State) (a : Nat) (bs : List Byte) : (lardWrite s a bs).harn = s.harn := rfl
@[simp] theorem lardWrite_coll (s : State) (a : Nat) (bs : List Byte) : (lardWrite s a bs).coll = s.coll := rfl
@[simp] theorem lardWrite_localQ (s : State) (a : Nat) (bs : List Byte) : (lardWrite s a bs).localQ = s.localQ := rfl
@[simp] theorem lardWrite_img (s : State) (a : Nat) (bs : List Byte) : (lardWrite s a bs).img = s.img := rfl
@[simp] theorem lardWrite_clusters (s : State) (a : Nat) (bs : List Byte) : (lardWrite s a bs).clusters = s.clusters := rfl
@[simp] theorem lardWrite_thr (s : State) (a : Nat) (bs : List Byte) : (lardWrite s a bs).thr = s.thr := rfl
@[simp] theorem lardWrite_scratch (s : State) (a : Nat) (bs : List Byte) : (lardWrite s a bs).scratch = s.scratch := rfl
@[simp] theorem lardWrite_cmem (s : State) (a : Nat) (bs : List Byte) : (lardWrite s a bs).cmem = s.cmem := rfl
@[simp] theorem lardWrite_eng (s : State) (a : Nat) (bs : List Byte) : (lardWrite s a bs).eng = s.eng := rfl
@[simp] theorem lardWrite_descId (s : State) (a : Nat) (bs : List Byte) : (lardWrite s a bs).descId = s.descId := rfl
@[simp] theorem lardWrite_hub (s : State) (a : Nat) (bs : List Byte) : (lardWrite s a bs).hub = s.hub := rfl
@[simp] theorem lardWrite_ports (s : State) (a : Nat) (bs : List Byte) : (lardWrite s a bs).ports = s.ports := rfl
@[simp] theorem lardWrite_lanes (s : State) (a : Nat) (bs : List Byte) : (lardWrite s a bs).lanes = s.lanes := rfl
@[simp] theorem lardWrite_lmap (s : State) (a : Nat) (bs : List Byte) : (lardWrite s a bs).lmap = s.lmap := rfl
@[simp] theorem lardWrite_cmap (s : State) (a : Nat) (bs : List Byte) : (lardWrite s a bs).cmap = s.cmap := rfl
@[simp] theorem lardWrite_code (s : State) (a : Nat) (bs : List Byte) : (lardWrite s a bs).code = s.code := rfl
@[simp] theorem lardWrite_issue (s : State) (a : Nat) (bs : List Byte) : (lardWrite s a bs).issue = s.issue := rfl
@[simp] theorem lardWrite_lard (s : State) (a : Nat) (bs : List Byte) : (lardWrite s a bs).lard = { s.lard with mem := Mem.write s.lard.mem a bs } := rfl
@[simp] theorem lardWrite_e2e (s : State) (a : Nat) (bs : List Byte) : (lardWrite s a bs).e2e = s.e2e := rfl
@[simp] theorem lardWrite_axle (s : State) (a : Nat) (bs : List Byte) : (lardWrite s a bs).axle = s.axle := rfl
@[simp] theorem lardWrite_cert (s : State) (a : Nat) (bs : List Byte) : (lardWrite s a bs).cert = s.cert := rfl
@[simp] theorem lardWrite_certRuns (s : State) (a : Nat) (bs : List Byte) : (lardWrite s a bs).certRuns = s.certRuns := rfl
@[simp] theorem lardWrite_certAt (s : State) (a : Nat) (bs : List Byte) : (lardWrite s a bs).certAt = s.certAt := rfl
@[simp] theorem lardWrite_rings (s : State) (a : Nat) (bs : List Byte) : (lardWrite s a bs).rings = s.rings := rfl
@[simp] theorem lardWrite_replay (s : State) (a : Nat) (bs : List Byte) : (lardWrite s a bs).replay = s.replay := rfl
@[simp] theorem lardWrite_telem (s : State) (a : Nat) (bs : List Byte) : (lardWrite s a bs).telem = s.telem := rfl
@[simp] theorem lardWrite_eye (s : State) (a : Nat) (bs : List Byte) : (lardWrite s a bs).eye = s.eye := rfl
@[simp] theorem lardWrite_wire (s : State) (a : Nat) (bs : List Byte) : (lardWrite s a bs).wire = s.wire := rfl

-- emitX

@[simp] theorem emitX_pending (s : State) (code block : Nat) (items : List Nat) (datum : List Byte) : (emitX s code block items datum).pending = s.pending := rfl
@[simp] theorem emitX_now (s : State) (code block : Nat) (items : List Nat) (datum : List Byte) : (emitX s code block items datum).now = s.now := rfl
@[simp] theorem emitX_freeCtr (s : State) (code block : Nat) (items : List Nat) (datum : List Byte) : (emitX s code block items datum).freeCtr = s.freeCtr := rfl
@[simp] theorem emitX_flightId (s : State) (code block : Nat) (items : List Nat) (datum : List Byte) : (emitX s code block items datum).flightId = s.flightId := rfl
@[simp] theorem emitX_fixed (s : State) (code block : Nat) (items : List Nat) (datum : List Byte) : (emitX s code block items datum).fixed = s.fixed := rfl
@[simp] theorem emitX_nv (s : State) (code block : Nat) (items : List Nat) (datum : List Byte) : (emitX s code block items datum).nv = s.nv := rfl
@[simp] theorem emitX_mod (s : State) (code block : Nat) (items : List Nat) (datum : List Byte) : (emitX s code block items datum).mod = s.mod := rfl
@[simp] theorem emitX_i3c (s : State) (code block : Nat) (items : List Nat) (datum : List Byte) : (emitX s code block items datum).i3c = s.i3c := rfl
@[simp] theorem emitX_mgmt (s : State) (code block : Nat) (items : List Nat) (datum : List Byte) : (emitX s code block items datum).mgmt = s.mgmt := rfl
@[simp] theorem emitX_pwr (s : State) (code block : Nat) (items : List Nat) (datum : List Byte) : (emitX s code block items datum).pwr = s.pwr := rfl
@[simp] theorem emitX_therm (s : State) (code block : Nat) (items : List Nat) (datum : List Byte) : (emitX s code block items datum).therm = s.therm := rfl
@[simp] theorem emitX_cool (s : State) (code block : Nat) (items : List Nat) (datum : List Byte) : (emitX s code block items datum).cool = s.cool := rfl
@[simp] theorem emitX_ehrok (s : State) (code block : Nat) (items : List Nat) (datum : List Byte) : (emitX s code block items datum).ehrok = s.ehrok := rfl
@[simp] theorem emitX_regs (s : State) (code block : Nat) (items : List Nat) (datum : List Byte) : (emitX s code block items datum).regs = s.regs := rfl
@[simp] theorem emitX_held (s : State) (code block : Nat) (items : List Nat) (datum : List Byte) : (emitX s code block items datum).held = s.held := rfl
@[simp] theorem emitX_winEff (s : State) (code block : Nat) (items : List Nat) (datum : List Byte) : (emitX s code block items datum).winEff = s.winEff := rfl
@[simp] theorem emitX_winPend (s : State) (code block : Nat) (items : List Nat) (datum : List Byte) : (emitX s code block items datum).winPend = s.winPend := rfl
@[simp] theorem emitX_blocks (s : State) (code block : Nat) (items : List Nat) (datum : List Byte) : (emitX s code block items datum).blocks = s.blocks := rfl
@[simp] theorem emitX_noBlockAt (s : State) (code block : Nat) (items : List Nat) (datum : List Byte) : (emitX s code block items datum).noBlockAt = s.noBlockAt := rfl
@[simp] theorem emitX_cslots (s : State) (code block : Nat) (items : List Nat) (datum : List Byte) : (emitX s code block items datum).cslots = s.cslots := rfl
@[simp] theorem emitX_epoch (s : State) (code block : Nat) (items : List Nat) (datum : List Byte) : (emitX s code block items datum).epoch = s.epoch := rfl
@[simp] theorem emitX_harn (s : State) (code block : Nat) (items : List Nat) (datum : List Byte) : (emitX s code block items datum).harn = s.harn := rfl
@[simp] theorem emitX_coll (s : State) (code block : Nat) (items : List Nat) (datum : List Byte) : (emitX s code block items datum).coll = s.coll := rfl
@[simp] theorem emitX_localQ (s : State) (code block : Nat) (items : List Nat) (datum : List Byte) : (emitX s code block items datum).localQ = s.localQ := rfl
@[simp] theorem emitX_img (s : State) (code block : Nat) (items : List Nat) (datum : List Byte) : (emitX s code block items datum).img = s.img := rfl
@[simp] theorem emitX_clusters (s : State) (code block : Nat) (items : List Nat) (datum : List Byte) : (emitX s code block items datum).clusters = s.clusters := rfl
@[simp] theorem emitX_thr (s : State) (code block : Nat) (items : List Nat) (datum : List Byte) : (emitX s code block items datum).thr = s.thr := rfl
@[simp] theorem emitX_scratch (s : State) (code block : Nat) (items : List Nat) (datum : List Byte) : (emitX s code block items datum).scratch = s.scratch := rfl
@[simp] theorem emitX_cmem (s : State) (code block : Nat) (items : List Nat) (datum : List Byte) : (emitX s code block items datum).cmem = s.cmem := rfl
@[simp] theorem emitX_eng (s : State) (code block : Nat) (items : List Nat) (datum : List Byte) : (emitX s code block items datum).eng = s.eng := rfl
@[simp] theorem emitX_descId (s : State) (code block : Nat) (items : List Nat) (datum : List Byte) : (emitX s code block items datum).descId = s.descId := rfl
@[simp] theorem emitX_hub (s : State) (code block : Nat) (items : List Nat) (datum : List Byte) : (emitX s code block items datum).hub = s.hub := rfl
@[simp] theorem emitX_ports (s : State) (code block : Nat) (items : List Nat) (datum : List Byte) : (emitX s code block items datum).ports = s.ports := rfl
@[simp] theorem emitX_lanes (s : State) (code block : Nat) (items : List Nat) (datum : List Byte) : (emitX s code block items datum).lanes = s.lanes := rfl
@[simp] theorem emitX_lmap (s : State) (code block : Nat) (items : List Nat) (datum : List Byte) : (emitX s code block items datum).lmap = s.lmap := rfl
@[simp] theorem emitX_cmap (s : State) (code block : Nat) (items : List Nat) (datum : List Byte) : (emitX s code block items datum).cmap = s.cmap := rfl
@[simp] theorem emitX_code (s : State) (code block : Nat) (items : List Nat) (datum : List Byte) : (emitX s code block items datum).code = s.code := rfl
@[simp] theorem emitX_issue (s : State) (code block : Nat) (items : List Nat) (datum : List Byte) : (emitX s code block items datum).issue = s.issue := rfl
@[simp] theorem emitX_lard (s : State) (code block : Nat) (items : List Nat) (datum : List Byte) : (emitX s code block items datum).lard = s.lard := rfl
@[simp] theorem emitX_e2e (s : State) (code block : Nat) (items : List Nat) (datum : List Byte) : (emitX s code block items datum).e2e = s.e2e := rfl
@[simp] theorem emitX_axle (s : State) (code block : Nat) (items : List Nat) (datum : List Byte) : (emitX s code block items datum).axle = s.axle := rfl
@[simp] theorem emitX_cert (s : State) (code block : Nat) (items : List Nat) (datum : List Byte) : (emitX s code block items datum).cert = s.cert := rfl
@[simp] theorem emitX_certRuns (s : State) (code block : Nat) (items : List Nat) (datum : List Byte) : (emitX s code block items datum).certRuns = s.certRuns := rfl
@[simp] theorem emitX_certAt (s : State) (code block : Nat) (items : List Nat) (datum : List Byte) : (emitX s code block items datum).certAt = s.certAt := rfl
@[simp] theorem emitX_rings (s : State) (code block : Nat) (items : List Nat) (datum : List Byte) : (emitX s code block items datum).rings = s.rings := rfl
@[simp] theorem emitX_replay (s : State) (code block : Nat) (items : List Nat) (datum : List Byte) : (emitX s code block items datum).replay = s.replay := rfl
@[simp] theorem emitX_telem (s : State) (code block : Nat) (items : List Nat) (datum : List Byte) : (emitX s code block items datum).telem = s.telem := rfl
@[simp] theorem emitX_eye (s : State) (code block : Nat) (items : List Nat) (datum : List Byte) : (emitX s code block items datum).eye = s.eye := rfl
@[simp] theorem emitX_wire (s : State) (code block : Nat) (items : List Nat) (datum : List Byte) : (emitX s code block items datum).wire = s.wire := rfl

-- emit

@[simp] theorem emit_pending (s : State) (code : Nat) (items : List Nat) : (emit s code items).pending = s.pending := rfl
@[simp] theorem emit_now (s : State) (code : Nat) (items : List Nat) : (emit s code items).now = s.now := rfl
@[simp] theorem emit_freeCtr (s : State) (code : Nat) (items : List Nat) : (emit s code items).freeCtr = s.freeCtr := rfl
@[simp] theorem emit_flightId (s : State) (code : Nat) (items : List Nat) : (emit s code items).flightId = s.flightId := rfl
@[simp] theorem emit_fixed (s : State) (code : Nat) (items : List Nat) : (emit s code items).fixed = s.fixed := rfl
@[simp] theorem emit_nv (s : State) (code : Nat) (items : List Nat) : (emit s code items).nv = s.nv := rfl
@[simp] theorem emit_mod (s : State) (code : Nat) (items : List Nat) : (emit s code items).mod = s.mod := rfl
@[simp] theorem emit_i3c (s : State) (code : Nat) (items : List Nat) : (emit s code items).i3c = s.i3c := rfl
@[simp] theorem emit_mgmt (s : State) (code : Nat) (items : List Nat) : (emit s code items).mgmt = s.mgmt := rfl
@[simp] theorem emit_pwr (s : State) (code : Nat) (items : List Nat) : (emit s code items).pwr = s.pwr := rfl
@[simp] theorem emit_therm (s : State) (code : Nat) (items : List Nat) : (emit s code items).therm = s.therm := rfl
@[simp] theorem emit_cool (s : State) (code : Nat) (items : List Nat) : (emit s code items).cool = s.cool := rfl
@[simp] theorem emit_ehrok (s : State) (code : Nat) (items : List Nat) : (emit s code items).ehrok = s.ehrok := rfl
@[simp] theorem emit_regs (s : State) (code : Nat) (items : List Nat) : (emit s code items).regs = s.regs := rfl
@[simp] theorem emit_held (s : State) (code : Nat) (items : List Nat) : (emit s code items).held = s.held := rfl
@[simp] theorem emit_winEff (s : State) (code : Nat) (items : List Nat) : (emit s code items).winEff = s.winEff := rfl
@[simp] theorem emit_winPend (s : State) (code : Nat) (items : List Nat) : (emit s code items).winPend = s.winPend := rfl
@[simp] theorem emit_blocks (s : State) (code : Nat) (items : List Nat) : (emit s code items).blocks = s.blocks := rfl
@[simp] theorem emit_noBlockAt (s : State) (code : Nat) (items : List Nat) : (emit s code items).noBlockAt = s.noBlockAt := rfl
@[simp] theorem emit_cslots (s : State) (code : Nat) (items : List Nat) : (emit s code items).cslots = s.cslots := rfl
@[simp] theorem emit_epoch (s : State) (code : Nat) (items : List Nat) : (emit s code items).epoch = s.epoch := rfl
@[simp] theorem emit_harn (s : State) (code : Nat) (items : List Nat) : (emit s code items).harn = s.harn := rfl
@[simp] theorem emit_coll (s : State) (code : Nat) (items : List Nat) : (emit s code items).coll = s.coll := rfl
@[simp] theorem emit_localQ (s : State) (code : Nat) (items : List Nat) : (emit s code items).localQ = s.localQ := rfl
@[simp] theorem emit_img (s : State) (code : Nat) (items : List Nat) : (emit s code items).img = s.img := rfl
@[simp] theorem emit_clusters (s : State) (code : Nat) (items : List Nat) : (emit s code items).clusters = s.clusters := rfl
@[simp] theorem emit_thr (s : State) (code : Nat) (items : List Nat) : (emit s code items).thr = s.thr := rfl
@[simp] theorem emit_scratch (s : State) (code : Nat) (items : List Nat) : (emit s code items).scratch = s.scratch := rfl
@[simp] theorem emit_cmem (s : State) (code : Nat) (items : List Nat) : (emit s code items).cmem = s.cmem := rfl
@[simp] theorem emit_eng (s : State) (code : Nat) (items : List Nat) : (emit s code items).eng = s.eng := rfl
@[simp] theorem emit_descId (s : State) (code : Nat) (items : List Nat) : (emit s code items).descId = s.descId := rfl
@[simp] theorem emit_hub (s : State) (code : Nat) (items : List Nat) : (emit s code items).hub = s.hub := rfl
@[simp] theorem emit_ports (s : State) (code : Nat) (items : List Nat) : (emit s code items).ports = s.ports := rfl
@[simp] theorem emit_lanes (s : State) (code : Nat) (items : List Nat) : (emit s code items).lanes = s.lanes := rfl
@[simp] theorem emit_lmap (s : State) (code : Nat) (items : List Nat) : (emit s code items).lmap = s.lmap := rfl
@[simp] theorem emit_cmap (s : State) (code : Nat) (items : List Nat) : (emit s code items).cmap = s.cmap := rfl
@[simp] theorem emit_code (s : State) (code : Nat) (items : List Nat) : (emit s code items).code = s.code := rfl
@[simp] theorem emit_issue (s : State) (code : Nat) (items : List Nat) : (emit s code items).issue = s.issue := rfl
@[simp] theorem emit_lard (s : State) (code : Nat) (items : List Nat) : (emit s code items).lard = s.lard := rfl
@[simp] theorem emit_e2e (s : State) (code : Nat) (items : List Nat) : (emit s code items).e2e = s.e2e := rfl
@[simp] theorem emit_axle (s : State) (code : Nat) (items : List Nat) : (emit s code items).axle = s.axle := rfl
@[simp] theorem emit_cert (s : State) (code : Nat) (items : List Nat) : (emit s code items).cert = s.cert := rfl
@[simp] theorem emit_certRuns (s : State) (code : Nat) (items : List Nat) : (emit s code items).certRuns = s.certRuns := rfl
@[simp] theorem emit_certAt (s : State) (code : Nat) (items : List Nat) : (emit s code items).certAt = s.certAt := rfl
@[simp] theorem emit_rings (s : State) (code : Nat) (items : List Nat) : (emit s code items).rings = s.rings := rfl
@[simp] theorem emit_replay (s : State) (code : Nat) (items : List Nat) : (emit s code items).replay = s.replay := rfl
@[simp] theorem emit_telem (s : State) (code : Nat) (items : List Nat) : (emit s code items).telem = s.telem := rfl
@[simp] theorem emit_eye (s : State) (code : Nat) (items : List Nat) : (emit s code items).eye = s.eye := rfl
@[simp] theorem emit_wire (s : State) (code : Nat) (items : List Nat) : (emit s code items).wire = s.wire := rfl

-- emitB

@[simp] theorem emitB_pending (s : State) (b code : Nat) (items : List Nat) : (emitB s b code items).pending = s.pending := rfl
@[simp] theorem emitB_now (s : State) (b code : Nat) (items : List Nat) : (emitB s b code items).now = s.now := rfl
@[simp] theorem emitB_freeCtr (s : State) (b code : Nat) (items : List Nat) : (emitB s b code items).freeCtr = s.freeCtr := rfl
@[simp] theorem emitB_flightId (s : State) (b code : Nat) (items : List Nat) : (emitB s b code items).flightId = s.flightId := rfl
@[simp] theorem emitB_fixed (s : State) (b code : Nat) (items : List Nat) : (emitB s b code items).fixed = s.fixed := rfl
@[simp] theorem emitB_nv (s : State) (b code : Nat) (items : List Nat) : (emitB s b code items).nv = s.nv := rfl
@[simp] theorem emitB_mod (s : State) (b code : Nat) (items : List Nat) : (emitB s b code items).mod = s.mod := rfl
@[simp] theorem emitB_i3c (s : State) (b code : Nat) (items : List Nat) : (emitB s b code items).i3c = s.i3c := rfl
@[simp] theorem emitB_mgmt (s : State) (b code : Nat) (items : List Nat) : (emitB s b code items).mgmt = s.mgmt := rfl
@[simp] theorem emitB_pwr (s : State) (b code : Nat) (items : List Nat) : (emitB s b code items).pwr = s.pwr := rfl
@[simp] theorem emitB_therm (s : State) (b code : Nat) (items : List Nat) : (emitB s b code items).therm = s.therm := rfl
@[simp] theorem emitB_cool (s : State) (b code : Nat) (items : List Nat) : (emitB s b code items).cool = s.cool := rfl
@[simp] theorem emitB_ehrok (s : State) (b code : Nat) (items : List Nat) : (emitB s b code items).ehrok = s.ehrok := rfl
@[simp] theorem emitB_regs (s : State) (b code : Nat) (items : List Nat) : (emitB s b code items).regs = s.regs := rfl
@[simp] theorem emitB_held (s : State) (b code : Nat) (items : List Nat) : (emitB s b code items).held = s.held := rfl
@[simp] theorem emitB_winEff (s : State) (b code : Nat) (items : List Nat) : (emitB s b code items).winEff = s.winEff := rfl
@[simp] theorem emitB_winPend (s : State) (b code : Nat) (items : List Nat) : (emitB s b code items).winPend = s.winPend := rfl
@[simp] theorem emitB_blocks (s : State) (b code : Nat) (items : List Nat) : (emitB s b code items).blocks = s.blocks := rfl
@[simp] theorem emitB_noBlockAt (s : State) (b code : Nat) (items : List Nat) : (emitB s b code items).noBlockAt = s.noBlockAt := rfl
@[simp] theorem emitB_cslots (s : State) (b code : Nat) (items : List Nat) : (emitB s b code items).cslots = s.cslots := rfl
@[simp] theorem emitB_epoch (s : State) (b code : Nat) (items : List Nat) : (emitB s b code items).epoch = s.epoch := rfl
@[simp] theorem emitB_harn (s : State) (b code : Nat) (items : List Nat) : (emitB s b code items).harn = s.harn := rfl
@[simp] theorem emitB_coll (s : State) (b code : Nat) (items : List Nat) : (emitB s b code items).coll = s.coll := rfl
@[simp] theorem emitB_localQ (s : State) (b code : Nat) (items : List Nat) : (emitB s b code items).localQ = s.localQ := rfl
@[simp] theorem emitB_img (s : State) (b code : Nat) (items : List Nat) : (emitB s b code items).img = s.img := rfl
@[simp] theorem emitB_clusters (s : State) (b code : Nat) (items : List Nat) : (emitB s b code items).clusters = s.clusters := rfl
@[simp] theorem emitB_thr (s : State) (b code : Nat) (items : List Nat) : (emitB s b code items).thr = s.thr := rfl
@[simp] theorem emitB_scratch (s : State) (b code : Nat) (items : List Nat) : (emitB s b code items).scratch = s.scratch := rfl
@[simp] theorem emitB_cmem (s : State) (b code : Nat) (items : List Nat) : (emitB s b code items).cmem = s.cmem := rfl
@[simp] theorem emitB_eng (s : State) (b code : Nat) (items : List Nat) : (emitB s b code items).eng = s.eng := rfl
@[simp] theorem emitB_descId (s : State) (b code : Nat) (items : List Nat) : (emitB s b code items).descId = s.descId := rfl
@[simp] theorem emitB_hub (s : State) (b code : Nat) (items : List Nat) : (emitB s b code items).hub = s.hub := rfl
@[simp] theorem emitB_ports (s : State) (b code : Nat) (items : List Nat) : (emitB s b code items).ports = s.ports := rfl
@[simp] theorem emitB_lanes (s : State) (b code : Nat) (items : List Nat) : (emitB s b code items).lanes = s.lanes := rfl
@[simp] theorem emitB_lmap (s : State) (b code : Nat) (items : List Nat) : (emitB s b code items).lmap = s.lmap := rfl
@[simp] theorem emitB_cmap (s : State) (b code : Nat) (items : List Nat) : (emitB s b code items).cmap = s.cmap := rfl
@[simp] theorem emitB_code (s : State) (b code : Nat) (items : List Nat) : (emitB s b code items).code = s.code := rfl
@[simp] theorem emitB_issue (s : State) (b code : Nat) (items : List Nat) : (emitB s b code items).issue = s.issue := rfl
@[simp] theorem emitB_lard (s : State) (b code : Nat) (items : List Nat) : (emitB s b code items).lard = s.lard := rfl
@[simp] theorem emitB_e2e (s : State) (b code : Nat) (items : List Nat) : (emitB s b code items).e2e = s.e2e := rfl
@[simp] theorem emitB_axle (s : State) (b code : Nat) (items : List Nat) : (emitB s b code items).axle = s.axle := rfl
@[simp] theorem emitB_cert (s : State) (b code : Nat) (items : List Nat) : (emitB s b code items).cert = s.cert := rfl
@[simp] theorem emitB_certRuns (s : State) (b code : Nat) (items : List Nat) : (emitB s b code items).certRuns = s.certRuns := rfl
@[simp] theorem emitB_certAt (s : State) (b code : Nat) (items : List Nat) : (emitB s b code items).certAt = s.certAt := rfl
@[simp] theorem emitB_rings (s : State) (b code : Nat) (items : List Nat) : (emitB s b code items).rings = s.rings := rfl
@[simp] theorem emitB_replay (s : State) (b code : Nat) (items : List Nat) : (emitB s b code items).replay = s.replay := rfl
@[simp] theorem emitB_telem (s : State) (b code : Nat) (items : List Nat) : (emitB s b code items).telem = s.telem := rfl
@[simp] theorem emitB_eye (s : State) (b code : Nat) (items : List Nat) : (emitB s b code items).eye = s.eye := rfl
@[simp] theorem emitB_wire (s : State) (b code : Nat) (items : List Nat) : (emitB s b code items).wire = s.wire := rfl

-- elapse

@[simp] theorem elapse_pending (s : State) (n : Nat) : (elapse s n).pending = s.pending := rfl
@[simp] theorem elapse_now (s : State) (n : Nat) : (elapse s n).now = s.now + n := rfl
@[simp] theorem elapse_freeCtr (s : State) (n : Nat) : (elapse s n).freeCtr = s.freeCtr := rfl
@[simp] theorem elapse_flightId (s : State) (n : Nat) : (elapse s n).flightId = s.flightId := rfl
@[simp] theorem elapse_fixed (s : State) (n : Nat) : (elapse s n).fixed = s.fixed := rfl
@[simp] theorem elapse_nv (s : State) (n : Nat) : (elapse s n).nv = s.nv := rfl
@[simp] theorem elapse_mod (s : State) (n : Nat) : (elapse s n).mod = s.mod := rfl
@[simp] theorem elapse_lonus (s : State) (n : Nat) : (elapse s n).lonus = s.lonus := rfl
@[simp] theorem elapse_i3c (s : State) (n : Nat) : (elapse s n).i3c = s.i3c := rfl
@[simp] theorem elapse_mgmt (s : State) (n : Nat) : (elapse s n).mgmt = s.mgmt := rfl
@[simp] theorem elapse_pwr (s : State) (n : Nat) : (elapse s n).pwr = s.pwr := rfl
@[simp] theorem elapse_therm (s : State) (n : Nat) : (elapse s n).therm = s.therm := rfl
@[simp] theorem elapse_cool (s : State) (n : Nat) : (elapse s n).cool = s.cool := rfl
@[simp] theorem elapse_ehrok (s : State) (n : Nat) : (elapse s n).ehrok = s.ehrok := rfl
@[simp] theorem elapse_regs (s : State) (n : Nat) : (elapse s n).regs = s.regs := rfl
@[simp] theorem elapse_held (s : State) (n : Nat) : (elapse s n).held = s.held := rfl
@[simp] theorem elapse_winEff (s : State) (n : Nat) : (elapse s n).winEff = s.winEff := rfl
@[simp] theorem elapse_winPend (s : State) (n : Nat) : (elapse s n).winPend = s.winPend := rfl
@[simp] theorem elapse_blocks (s : State) (n : Nat) : (elapse s n).blocks = s.blocks := rfl
@[simp] theorem elapse_noBlockAt (s : State) (n : Nat) : (elapse s n).noBlockAt = s.noBlockAt := rfl
@[simp] theorem elapse_cslots (s : State) (n : Nat) : (elapse s n).cslots = s.cslots := rfl
@[simp] theorem elapse_epoch (s : State) (n : Nat) : (elapse s n).epoch = s.epoch := rfl
@[simp] theorem elapse_harn (s : State) (n : Nat) : (elapse s n).harn = s.harn := rfl
@[simp] theorem elapse_coll (s : State) (n : Nat) : (elapse s n).coll = s.coll := rfl
@[simp] theorem elapse_localQ (s : State) (n : Nat) : (elapse s n).localQ = s.localQ := rfl
@[simp] theorem elapse_img (s : State) (n : Nat) : (elapse s n).img = s.img := rfl
@[simp] theorem elapse_clusters (s : State) (n : Nat) : (elapse s n).clusters = s.clusters := rfl
@[simp] theorem elapse_thr (s : State) (n : Nat) : (elapse s n).thr = s.thr := rfl
@[simp] theorem elapse_scratch (s : State) (n : Nat) : (elapse s n).scratch = s.scratch := rfl
@[simp] theorem elapse_cmem (s : State) (n : Nat) : (elapse s n).cmem = s.cmem := rfl
@[simp] theorem elapse_eng (s : State) (n : Nat) : (elapse s n).eng = s.eng := rfl
@[simp] theorem elapse_descId (s : State) (n : Nat) : (elapse s n).descId = s.descId := rfl
@[simp] theorem elapse_hub (s : State) (n : Nat) : (elapse s n).hub = s.hub := rfl
@[simp] theorem elapse_ports (s : State) (n : Nat) : (elapse s n).ports = s.ports := rfl
@[simp] theorem elapse_lanes (s : State) (n : Nat) : (elapse s n).lanes = s.lanes := rfl
@[simp] theorem elapse_lmap (s : State) (n : Nat) : (elapse s n).lmap = s.lmap := rfl
@[simp] theorem elapse_cmap (s : State) (n : Nat) : (elapse s n).cmap = s.cmap := rfl
@[simp] theorem elapse_code (s : State) (n : Nat) : (elapse s n).code = s.code := rfl
@[simp] theorem elapse_issue (s : State) (n : Nat) : (elapse s n).issue = s.issue := rfl
@[simp] theorem elapse_lard (s : State) (n : Nat) : (elapse s n).lard = s.lard := rfl
@[simp] theorem elapse_e2e (s : State) (n : Nat) : (elapse s n).e2e = s.e2e := rfl
@[simp] theorem elapse_cert (s : State) (n : Nat) : (elapse s n).cert = s.cert := rfl
@[simp] theorem elapse_certRuns (s : State) (n : Nat) : (elapse s n).certRuns = s.certRuns := rfl
@[simp] theorem elapse_certAt (s : State) (n : Nat) : (elapse s n).certAt = s.certAt := rfl
@[simp] theorem elapse_rings (s : State) (n : Nat) : (elapse s n).rings = s.rings := rfl
@[simp] theorem elapse_replay (s : State) (n : Nat) : (elapse s n).replay = s.replay := rfl
@[simp] theorem elapse_telem (s : State) (n : Nat) : (elapse s n).telem = s.telem := rfl
@[simp] theorem elapse_eye (s : State) (n : Nat) : (elapse s n).eye = s.eye := rfl
@[simp] theorem elapse_wire (s : State) (n : Nat) : (elapse s n).wire = s.wire := rfl

-- ibiNote

@[simp] theorem ibiNote_pending (s : State) : (ibiNote s).pending = s.pending := rfl
@[simp] theorem ibiNote_now (s : State) : (ibiNote s).now = s.now := rfl
@[simp] theorem ibiNote_freeCtr (s : State) : (ibiNote s).freeCtr = s.freeCtr := rfl
@[simp] theorem ibiNote_flightId (s : State) : (ibiNote s).flightId = s.flightId := rfl
@[simp] theorem ibiNote_fixed (s : State) : (ibiNote s).fixed = s.fixed := rfl
@[simp] theorem ibiNote_nv (s : State) : (ibiNote s).nv = s.nv := rfl
@[simp] theorem ibiNote_mod (s : State) : (ibiNote s).mod = s.mod := rfl
@[simp] theorem ibiNote_lonus (s : State) : (ibiNote s).lonus = s.lonus := rfl
@[simp] theorem ibiNote_mgmt (s : State) : (ibiNote s).mgmt = s.mgmt := rfl
@[simp] theorem ibiNote_pwr (s : State) : (ibiNote s).pwr = s.pwr := rfl
@[simp] theorem ibiNote_therm (s : State) : (ibiNote s).therm = s.therm := rfl
@[simp] theorem ibiNote_cool (s : State) : (ibiNote s).cool = s.cool := rfl
@[simp] theorem ibiNote_ehrok (s : State) : (ibiNote s).ehrok = s.ehrok := rfl
@[simp] theorem ibiNote_regs (s : State) : (ibiNote s).regs = s.regs := rfl
@[simp] theorem ibiNote_held (s : State) : (ibiNote s).held = s.held := rfl
@[simp] theorem ibiNote_winEff (s : State) : (ibiNote s).winEff = s.winEff := rfl
@[simp] theorem ibiNote_winPend (s : State) : (ibiNote s).winPend = s.winPend := rfl
@[simp] theorem ibiNote_blocks (s : State) : (ibiNote s).blocks = s.blocks := rfl
@[simp] theorem ibiNote_noBlockAt (s : State) : (ibiNote s).noBlockAt = s.noBlockAt := rfl
@[simp] theorem ibiNote_cslots (s : State) : (ibiNote s).cslots = s.cslots := rfl
@[simp] theorem ibiNote_epoch (s : State) : (ibiNote s).epoch = s.epoch := rfl
@[simp] theorem ibiNote_harn (s : State) : (ibiNote s).harn = s.harn := rfl
@[simp] theorem ibiNote_coll (s : State) : (ibiNote s).coll = s.coll := rfl
@[simp] theorem ibiNote_localQ (s : State) : (ibiNote s).localQ = s.localQ := rfl
@[simp] theorem ibiNote_img (s : State) : (ibiNote s).img = s.img := rfl
@[simp] theorem ibiNote_clusters (s : State) : (ibiNote s).clusters = s.clusters := rfl
@[simp] theorem ibiNote_thr (s : State) : (ibiNote s).thr = s.thr := rfl
@[simp] theorem ibiNote_scratch (s : State) : (ibiNote s).scratch = s.scratch := rfl
@[simp] theorem ibiNote_cmem (s : State) : (ibiNote s).cmem = s.cmem := rfl
@[simp] theorem ibiNote_eng (s : State) : (ibiNote s).eng = s.eng := rfl
@[simp] theorem ibiNote_descId (s : State) : (ibiNote s).descId = s.descId := rfl
@[simp] theorem ibiNote_hub (s : State) : (ibiNote s).hub = s.hub := rfl
@[simp] theorem ibiNote_ports (s : State) : (ibiNote s).ports = s.ports := rfl
@[simp] theorem ibiNote_lanes (s : State) : (ibiNote s).lanes = s.lanes := rfl
@[simp] theorem ibiNote_lmap (s : State) : (ibiNote s).lmap = s.lmap := rfl
@[simp] theorem ibiNote_cmap (s : State) : (ibiNote s).cmap = s.cmap := rfl
@[simp] theorem ibiNote_code (s : State) : (ibiNote s).code = s.code := rfl
@[simp] theorem ibiNote_issue (s : State) : (ibiNote s).issue = s.issue := rfl
@[simp] theorem ibiNote_lard (s : State) : (ibiNote s).lard = s.lard := rfl
@[simp] theorem ibiNote_e2e (s : State) : (ibiNote s).e2e = s.e2e := rfl
@[simp] theorem ibiNote_axle (s : State) : (ibiNote s).axle = s.axle := rfl
@[simp] theorem ibiNote_cert (s : State) : (ibiNote s).cert = s.cert := rfl
@[simp] theorem ibiNote_certRuns (s : State) : (ibiNote s).certRuns = s.certRuns := rfl
@[simp] theorem ibiNote_certAt (s : State) : (ibiNote s).certAt = s.certAt := rfl
@[simp] theorem ibiNote_rings (s : State) : (ibiNote s).rings = s.rings := rfl
@[simp] theorem ibiNote_replay (s : State) : (ibiNote s).replay = s.replay := rfl
@[simp] theorem ibiNote_telem (s : State) : (ibiNote s).telem = s.telem := rfl
@[simp] theorem ibiNote_eye (s : State) : (ibiNote s).eye = s.eye := rfl
@[simp] theorem ibiNote_wire (s : State) : (ibiNote s).wire = s.wire := rfl

-- codeSync

@[simp] theorem codeSync_pending (s : State) (c : Nat) : (codeSync s c).pending = s.pending := rfl
@[simp] theorem codeSync_now (s : State) (c : Nat) : (codeSync s c).now = s.now := rfl
@[simp] theorem codeSync_freeCtr (s : State) (c : Nat) : (codeSync s c).freeCtr = s.freeCtr := rfl
@[simp] theorem codeSync_flightId (s : State) (c : Nat) : (codeSync s c).flightId = s.flightId := rfl
@[simp] theorem codeSync_fixed (s : State) (c : Nat) : (codeSync s c).fixed = s.fixed := rfl
@[simp] theorem codeSync_nv (s : State) (c : Nat) : (codeSync s c).nv = s.nv := rfl
@[simp] theorem codeSync_mod (s : State) (c : Nat) : (codeSync s c).mod = s.mod := rfl
@[simp] theorem codeSync_lonus (s : State) (c : Nat) : (codeSync s c).lonus = s.lonus := rfl
@[simp] theorem codeSync_i3c (s : State) (c : Nat) : (codeSync s c).i3c = s.i3c := rfl
@[simp] theorem codeSync_mgmt (s : State) (c : Nat) : (codeSync s c).mgmt = s.mgmt := rfl
@[simp] theorem codeSync_pwr (s : State) (c : Nat) : (codeSync s c).pwr = s.pwr := rfl
@[simp] theorem codeSync_therm (s : State) (c : Nat) : (codeSync s c).therm = s.therm := rfl
@[simp] theorem codeSync_cool (s : State) (c : Nat) : (codeSync s c).cool = s.cool := rfl
@[simp] theorem codeSync_ehrok (s : State) (c : Nat) : (codeSync s c).ehrok = s.ehrok := rfl
@[simp] theorem codeSync_regs (s : State) (c : Nat) : (codeSync s c).regs = s.regs := rfl
@[simp] theorem codeSync_held (s : State) (c : Nat) : (codeSync s c).held = s.held := rfl
@[simp] theorem codeSync_winEff (s : State) (c : Nat) : (codeSync s c).winEff = s.winEff := rfl
@[simp] theorem codeSync_winPend (s : State) (c : Nat) : (codeSync s c).winPend = s.winPend := rfl
@[simp] theorem codeSync_blocks (s : State) (c : Nat) : (codeSync s c).blocks = s.blocks := rfl
@[simp] theorem codeSync_noBlockAt (s : State) (c : Nat) : (codeSync s c).noBlockAt = s.noBlockAt := rfl
@[simp] theorem codeSync_cslots (s : State) (c : Nat) : (codeSync s c).cslots = s.cslots := rfl
@[simp] theorem codeSync_epoch (s : State) (c : Nat) : (codeSync s c).epoch = s.epoch := rfl
@[simp] theorem codeSync_harn (s : State) (c : Nat) : (codeSync s c).harn = s.harn := rfl
@[simp] theorem codeSync_coll (s : State) (c : Nat) : (codeSync s c).coll = s.coll := rfl
@[simp] theorem codeSync_localQ (s : State) (c : Nat) : (codeSync s c).localQ = s.localQ := rfl
@[simp] theorem codeSync_img (s : State) (c : Nat) : (codeSync s c).img = s.img := rfl
@[simp] theorem codeSync_clusters (s : State) (c : Nat) : (codeSync s c).clusters = s.clusters := rfl
@[simp] theorem codeSync_thr (s : State) (c : Nat) : (codeSync s c).thr = s.thr := rfl
@[simp] theorem codeSync_scratch (s : State) (c : Nat) : (codeSync s c).scratch = s.scratch := rfl
@[simp] theorem codeSync_cmem (s : State) (c : Nat) : (codeSync s c).cmem = s.cmem := rfl
@[simp] theorem codeSync_code (s : State) (c : Nat) : (codeSync s c).code = Tab.set [] s.code c (coreMem s c) := rfl
@[simp] theorem codeSync_issue (s : State) (c : Nat) : (codeSync s c).issue = s.issue := rfl
@[simp] theorem codeSync_eng (s : State) (c : Nat) : (codeSync s c).eng = s.eng := rfl
@[simp] theorem codeSync_descId (s : State) (c : Nat) : (codeSync s c).descId = s.descId := rfl
@[simp] theorem codeSync_hub (s : State) (c : Nat) : (codeSync s c).hub = s.hub := rfl
@[simp] theorem codeSync_ports (s : State) (c : Nat) : (codeSync s c).ports = s.ports := rfl
@[simp] theorem codeSync_lanes (s : State) (c : Nat) : (codeSync s c).lanes = s.lanes := rfl
@[simp] theorem codeSync_lmap (s : State) (c : Nat) : (codeSync s c).lmap = s.lmap := rfl
@[simp] theorem codeSync_cmap (s : State) (c : Nat) : (codeSync s c).cmap = s.cmap := rfl
@[simp] theorem codeSync_lard (s : State) (c : Nat) : (codeSync s c).lard = s.lard := rfl
@[simp] theorem codeSync_e2e (s : State) (c : Nat) : (codeSync s c).e2e = s.e2e := rfl
@[simp] theorem codeSync_axle (s : State) (c : Nat) : (codeSync s c).axle = s.axle := rfl
@[simp] theorem codeSync_cert (s : State) (c : Nat) : (codeSync s c).cert = s.cert := rfl
@[simp] theorem codeSync_certRuns (s : State) (c : Nat) : (codeSync s c).certRuns = s.certRuns := rfl
@[simp] theorem codeSync_certAt (s : State) (c : Nat) : (codeSync s c).certAt = s.certAt := rfl
@[simp] theorem codeSync_rings (s : State) (c : Nat) : (codeSync s c).rings = s.rings := rfl
@[simp] theorem codeSync_replay (s : State) (c : Nat) : (codeSync s c).replay = s.replay := rfl
@[simp] theorem codeSync_telem (s : State) (c : Nat) : (codeSync s c).telem = s.telem := rfl
@[simp] theorem codeSync_eye (s : State) (c : Nat) : (codeSync s c).eye = s.eye := rfl
@[simp] theorem codeSync_wire (s : State) (c : Nat) : (codeSync s c).wire = s.wire := rfl

end Sys2Proof.Machine
end

