-- ==== Sys2Proof/Laws/Tab.lean ====
section
/-! SUPPORT. Sparse tables and byte memories: a read after a write, and that every operation keeps the canonical form. -/

namespace Sys2Proof.Machine

variable {α : Type}

-- Reading after an update

theorem Tab.get_erase_self (d : α) (t : Tab α) (k : Nat) : Tab.get d (Tab.erase t k) k = d := by
  induction t with
  | nil => rfl
  | cons e t ih =>
    obtain ⟨j, v⟩ := e
    by_cases h : j = k <;> simp [Tab.erase, Tab.get, h, ih]

theorem Tab.get_erase_ne (d : α) (t : Tab α) {k j : Nat} (h : j ≠ k) : Tab.get d (Tab.erase t k) j = Tab.get d t j := by
  induction t with
  | nil => rfl
  | cons e t ih =>
    obtain ⟨i, v⟩ := e
    by_cases h1 : i = k
    · subst h1
      simp [Tab.erase, Tab.get, h.symm, ih]
    · by_cases h2 : i = j
      · subst h2; simp [Tab.erase, Tab.get, h1]
      · simp [Tab.erase, Tab.get, h1, h2, ih]

theorem Tab.get_put_self (d : α) (t : Tab α) (k : Nat) (v : α) (h : ∀ e ∈ t, e.1 ≠ k) : Tab.get d (Tab.put t k v) k = v := by
  induction t with
  | nil => simp [Tab.put, Tab.get]
  | cons e t ih =>
    obtain ⟨j, w⟩ := e
    have h1 : j ≠ k := h (j, w) (by simp)
    have h2 : ∀ e ∈ t, e.1 ≠ k := fun e he => h e (by simp [he])
    by_cases h3 : k < j <;> simp [Tab.put, Tab.get, h1, h3, ih h2]

theorem Tab.get_put_ne (d : α) (t : Tab α) {k j : Nat} (v : α) (h : j ≠ k) : Tab.get d (Tab.put t k v) j = Tab.get d t j := by
  induction t with
  | nil => simp [Tab.put, Tab.get]; omega
  | cons e t ih =>
    obtain ⟨i, w⟩ := e
    by_cases h1 : k < i
    · simp only [Tab.put, h1, if_true, Tab.get, if_neg (Ne.symm h)]
    · simp only [Tab.put, h1, if_false, Tab.get, ih]

theorem Tab.erase_no_key (t : Tab α) (k : Nat) : ∀ e ∈ Tab.erase t k, e.1 ≠ k := by
  induction t with
  | nil => simp [Tab.erase]
  | cons e t ih =>
    obtain ⟨j, v⟩ := e
    by_cases h : j = k
    · simpa [Tab.erase, h] using ih
    · intro e he
      simp only [Tab.erase, h, if_false, List.mem_cons] at he
      rcases he with rfl | he
      · exact h
      · exact ih e he

variable [DecidableEq α]

/-- A read after a store at the same key answers the stored value. -/
@[simp] theorem Tab.get_set_self (d : α) (t : Tab α) (k : Nat) (v : α) : Tab.get d (Tab.set d t k v) k = v := by
  unfold Tab.set
  split
  · next h => rw [Tab.get_erase_self, h]
  · exact Tab.get_put_self d _ k v (Tab.erase_no_key t k)

/-- A store leaves every other key alone. -/
theorem Tab.get_set_ne (d : α) (t : Tab α) {k j : Nat} (v : α) (h : j ≠ k) : Tab.get d (Tab.set d t k v) j = Tab.get d t j := by
  unfold Tab.set
  split
  · exact Tab.get_erase_ne d t h
  · rw [Tab.get_put_ne d _ v h, Tab.get_erase_ne d t h]

@[simp] theorem Tab.get_upd_self (d : α) (t : Tab α) (k : Nat) (f : α → α) : Tab.get d (Tab.upd d t k f) k = f (Tab.get d t k) :=
  Tab.get_set_self ..

theorem Tab.get_upd_ne (d : α) (t : Tab α) {k j : Nat} (f : α → α) (h : j ≠ k) : Tab.get d (Tab.upd d t k f) j = Tab.get d t j :=
  Tab.get_set_ne d t _ h

/-- Reading after an update, by key. -/
theorem Tab.get_upd (d : α) (t : Tab α) (k j : Nat) (f : α → α) :
    Tab.get d (Tab.upd d t k f) j = if j = k then f (Tab.get d t k) else Tab.get d t j := by
  split
  · next h => rw [h, Tab.get_upd_self]
  · next h => exact Tab.get_upd_ne d t f h

-- The canonical form

/-- The canonical form, said by its two parts. -/
theorem Tab.wf_iff (d : α) (t : Tab α) : Tab.wf d t = true ↔ t.Pairwise (fun a b => a.1 < b.1) ∧ ∀ e ∈ t, e.2 ≠ d := by
  induction t with
  | nil => simp [Tab.wf]
  | cons e t ih =>
    obtain ⟨j, v⟩ := e
    cases t with
    | nil => simp [Tab.wf]
    | cons e2 t =>
      obtain ⟨k, w⟩ := e2
      simp only [Tab.wf, Bool.and_eq_true, decide_eq_true_eq, ih, List.pairwise_cons, List.mem_cons]
      constructor
      · rintro ⟨⟨h1, h2⟩, ⟨h3, h4⟩, h5⟩
        refine ⟨⟨?_, h3, h4⟩, ?_⟩
        · rintro a (rfl | ha)
          · exact h2
          · exact lt_trans h2 (h3 a ha)
        · rintro e (rfl | he)
          · exact h1
          · exact h5 e he
      · rintro ⟨⟨h1, h3, h4⟩, h5⟩
        exact ⟨⟨h5 (j, v) (Or.inl rfl), h1 (k, w) (Or.inl rfl)⟩, ⟨h3, h4⟩, fun e he => h5 e (Or.inr he)⟩

omit [DecidableEq α] in
theorem Tab.erase_eq_filter (t : Tab α) (k : Nat) : Tab.erase t k = t.filter fun e => decide (e.1 ≠ k) := by
  induction t with
  | nil => rfl
  | cons e t ih =>
    obtain ⟨j, v⟩ := e
    by_cases h : j = k <;> simp [Tab.erase, h, ih]

/-- Dropping entries keeps the canonical form. -/
theorem Tab.wf_filter {d : α} {t : Tab α} (h : Tab.wf d t = true) (p : Nat × α → Bool) : Tab.wf d (t.filter p) = true := by
  rw [Tab.wf_iff] at *
  exact ⟨h.1.filter p, fun e he => h.2 e (List.mem_filter.mp he).1⟩

theorem Tab.wf_erase {d : α} {t : Tab α} (h : Tab.wf d t = true) (k : Nat) : Tab.wf d (Tab.erase t k) = true := by
  rw [Tab.erase_eq_filter]; exact Tab.wf_filter h _

omit [DecidableEq α] in
theorem Tab.mem_put {t : Tab α} {k : Nat} {v : α} {e : Nat × α} (h : e ∈ Tab.put t k v) : e = (k, v) ∨ e ∈ t := by
  induction t with
  | nil => simp only [Tab.put, List.mem_singleton] at h; exact Or.inl h
  | cons x t ih =>
    obtain ⟨j, w⟩ := x
    by_cases h1 : k < j
    · simp only [Tab.put, h1, if_true, List.mem_cons] at h ⊢; exact h
    · simp only [Tab.put, h1, if_false, List.mem_cons] at h ⊢
      rcases h with h | h
      · exact Or.inr (Or.inl h)
      · rcases ih h with h | h
        · exact Or.inl h
        · exact Or.inr (Or.inr h)

theorem Tab.wf_put {d : α} {t : Tab α} (h : Tab.wf d t = true) {k : Nat} {v : α} (hk : ∀ e ∈ t, e.1 ≠ k) (hv : v ≠ d) :
    Tab.wf d (Tab.put t k v) = true := by
  rw [Tab.wf_iff] at *
  obtain ⟨h1, h2⟩ := h
  constructor
  · clear h2
    induction t with
    | nil => simp [Tab.put]
    | cons x t ih =>
      obtain ⟨j, w⟩ := x
      rw [List.pairwise_cons] at h1
      have hj : j ≠ k := hk (j, w) (by simp)
      by_cases h3 : k < j
      · simp only [Tab.put, h3, if_true, List.pairwise_cons, List.mem_cons]
        refine ⟨?_, h1⟩
        rintro a (rfl | ha)
        · exact h3
        · exact lt_trans h3 (h1.1 a ha)
      · simp only [Tab.put, h3, if_false, List.pairwise_cons]
        refine ⟨?_, ih (fun e he => hk e (by simp [he])) h1.2⟩
        intro a ha
        rcases Tab.mem_put ha with rfl | ha
        · simp only; omega
        · exact h1.1 a ha
  · intro e he
    rcases Tab.mem_put he with rfl | he
    · exact hv
    · exact h2 e he

/-- A store keeps the canonical form. -/
theorem Tab.wf_set {d : α} {t : Tab α} (h : Tab.wf d t = true) (k : Nat) (v : α) : Tab.wf d (Tab.set d t k v) = true := by
  unfold Tab.set
  split
  · exact Tab.wf_erase h k
  · next hv => exact Tab.wf_put (Tab.wf_erase h k) (Tab.erase_no_key t k) hv

theorem Tab.wf_upd {d : α} {t : Tab α} (h : Tab.wf d t = true) (k : Nat) (f : α → α) : Tab.wf d (Tab.upd d t k f) = true :=
  Tab.wf_set h k _

/-- Changing every value keeps the canonical form. -/
theorem Tab.wf_mapV {d : α} {t : Tab α} (h : Tab.wf d t = true) (f : α → α) : Tab.wf d (Tab.mapV d t f) = true := by
  rw [Tab.wf_iff] at *
  refine ⟨?_, fun e he => by simpa using (List.mem_filter.mp he).2⟩
  exact List.Pairwise.filter _ (List.pairwise_map.mpr h.1)

-- Byte memories

/-- Storing bytes keeps the canonical form. -/
theorem Mem.wf_write {m : Mem} (h : Mem.wf m = true) (a : Nat) (bs : List Byte) : Mem.wf (Mem.write m a bs) = true := by
  induction bs generalizing m a with
  | nil => exact h
  | cons b bs ih => exact ih (Tab.wf_set h a b) (a + 1)

/-- Clearing a range keeps the canonical form. -/
theorem Mem.wf_clear {m : Mem} (h : Mem.wf m = true) (a n : Nat) : Mem.wf (memClear m a n) = true := Tab.wf_filter h _

/-- Every byte outside the stored ones reads as before. -/
theorem Mem.byte_write_outside (m : Mem) (a : Nat) (bs : List Byte) {x : Nat} (h : x < a ∨ a + bs.length ≤ x) :
    Mem.byte (Mem.write m a bs) x = Mem.byte m x := by
  induction bs generalizing m a with
  | nil => rfl
  | cons b bs ih =>
    simp only [List.length_cons] at h
    rw [Mem.write, ih _ _ (by omega)]
    exact Tab.get_set_ne 0 m b (by omega)

/-- Every stored byte reads as it was stored. -/
theorem Mem.byte_write_inside (m : Mem) (a : Nat) (bs : List Byte) {i : Nat} (h : i < bs.length) :
    Mem.byte (Mem.write m a bs) (a + i) = bs[i] := by
  induction bs generalizing m a i with
  | nil => simp at h
  | cons b bs ih =>
    cases i with
    | zero =>
      rw [Mem.write, Mem.byte_write_outside _ _ _ (by omega)]
      simp [Mem.byte]
    | succ i =>
      have := ih (Tab.set 0 m a b) (a + 1) (i := i) (by simpa using h)
      rw [Mem.write, show a + (i + 1) = a + 1 + i by omega, this]
      simp

end Sys2Proof.Machine
end

