-- ==== Sys2Proof/Laws/Frame.lean ====
section
/-! SUPPORT. What the operations shared by many commands leave alone: forming events, completing a command, ending a replay, and the
operations that a fault runs. -/

namespace Sys2Proof.Machine

/-- A relation that every element's step has, a fold has. -/
theorem foldl_rel {σ ι : Type} {R : σ → σ → Prop} (refl : ∀ s, R s s) (trans : ∀ a b c, R a b → R b c → R a c) (f : σ → ι → σ)
    (hf : ∀ s x, R s (f s x)) (l : List ι) (s : σ) : R s (l.foldl f s) := by
  induction l generalizing s with
  | nil => exact refl s
  | cons x l ih => exact trans _ _ _ (hf s x) (ih (f s x))

-- Events

/-- Forming events changes the Lonus port alone. -/
theorem emits_frame {ι : Type} (code : Nat) (g : ι → List Nat) (l : List ι) (s : State) :
    ∃ n, l.foldl (fun s x => emit s code (g x)) s = { s with lonus := n } :=
  foldl_rel (R := fun s t => ∃ n, t = { s with lonus := n }) (fun s => ⟨s.lonus, rfl⟩)
    (by rintro a b c ⟨n, rfl⟩ ⟨m, rfl⟩; exact ⟨m, rfl⟩) _ (fun s x => ⟨_, rfl⟩) l s

-- Completion

set_option maxRecDepth 8000 in
/-- Completing a command changes the Lonus port, the E-HROK command list and, after FW_STAGE alone, the flash slots. -/
theorem complete_frame (s : State) (tag op : Nat) (r : Reply) :
    ∃ nv l e, complete s tag op r = { s with nv := nv, lonus := l, ehrok := e } ∧ (op ≠ 0x0A01 → nv = s.nv) := by
  unfold complete completeAs
  by_cases h : op = 0x0A01 ∧ r.1 ≠ .ok
  · simp only [if_pos h]
    rcases cmdOf s tag with _ | c <;> (dsimp only; split) <;> exact ⟨_, _, _, rfl, fun h' => absurd h.1 h'⟩
  · simp only [if_neg h]
    rcases cmdOf s tag with _ | c <;> (dsimp only; split) <;> exact ⟨_, _, _, rfl, fun _ => rfl⟩

theorem finishCmd_frame (s : State) (tag op : Nat) (r : Reply) :
    ∃ nv l e, finishCmd s tag op r = { s with nv := nv, lonus := l, ehrok := e } ∧ (op ≠ 0x0A01 → nv = s.nv) := by
  unfold finishCmd
  split
  · split
    · exact complete_frame ..
    · exact ⟨_, _, _, rfl, fun _ => rfl⟩
  · exact ⟨_, _, _, rfl, fun _ => rfl⟩

/-- Aborting a transition ends its command and clears it. -/
theorem abortTransition_frame (s : State) (st : Status) :
    ∃ l e, abortTransition s st = { s with mod := { s.mod with trans := none }, lonus := l, ehrok := e } := by
  unfold abortTransition
  split
  · obtain ⟨nv, l, e, h, hn⟩ := finishCmd_frame (updMod s fun m => { m with trans := none }) ‹Transition›.tag 0x0201 (rep st)
    have := hn (by decide); subst this
    exact ⟨l, e, h⟩
  · next h => exact ⟨s.lonus, s.ehrok, by rw [← h]⟩

-- Replay and rings

theorem ringEnd_frame (s : State) (k : Nat) : ∃ r l, ringEnd s k = { s with rings := r, lard := l } := ⟨_, _, rfl⟩

/-- Ending a replay changes its rings, the replay and the events alone. -/
theorem endReplay_frame (s : State) (ev : Option Nat) (items : List Nat) :
    ∃ r l n p, endReplay s ev items = { s with rings := r, lard := l, lonus := n, replay := { s.replay with running := p } } := by
  unfold endReplay
  split
  · generalize h1 : (if (ringOf s s.replay.outRing).st = 1 then ringEnd s s.replay.outRing else s) = s1
    have a1 : ∃ r l, s1 = { s with rings := r, lard := l } := by
      subst h1; split
      · exact ringEnd_frame ..
      · exact ⟨_, _, rfl⟩
    obtain ⟨r, l, rfl⟩ := a1
    cases ev <;> exact ⟨_, _, _, _, rfl⟩
  · exact ⟨_, _, _, _, rfl⟩

-- Boot

theorem bootDev_cycles (nv : NonVolatile) (d : Bool) : (bootDev nv d).cycles = nv.cycles := by
  simp only [bootDev, setDev]; split <;> (repeat' split) <;> rfl

theorem markBad_cycles (nv : NonVolatile) (d : Bool) : (markBad nv d).cycles = nv.cycles := by
  simp only [markBad, setDev]; (repeat' split) <;> rfl

theorem raiseFloor_frame (s : State) : ∃ nv n, raiseFloor s = { s with nv := nv, lonus := n } ∧ nv.cycles = s.nv.cycles := by
  unfold raiseFloor
  split
  · split <;> exact ⟨_, _, rfl, rfl⟩
  · exact ⟨_, _, rfl, rfl⟩

theorem stopEvent_frame (s : State) : ∃ nv n, stopEvent s = { s with nv := nv, lonus := n } ∧ nv.cycles = s.nv.cycles := by
  unfold stopEvent
  split
  · dsimp only; split <;> exact ⟨_, _, rfl, rfl⟩
  · exact ⟨_, _, rfl, rfl⟩

theorem sealLogAdd_frame (s : State) (a b : Nat) : ∃ nv, sealLogAdd s a b = { s with nv := nv } ∧ nv.cycles = s.nv.cycles := by
  unfold sealLogAdd updNv
  refine ⟨_, rfl, ?_⟩
  dsimp only
  split <;> rfl

/-- Mapping spares changes the lane and core maps, the larder's datapath map and its spare counts alone. -/
theorem mapSpares_frame (s : State) : ∃ m c l, mapSpares s = { s with lmap := m, cmap := c, lard := l } := by
  obtain ⟨l, h⟩ := foldl_rel (R := fun (a b : State) => ∃ l, b = { a with lard := l }) (fun a => ⟨a.lard, rfl⟩)
    (by rintro a b c ⟨l, rfl⟩ ⟨k, rfl⟩; exact ⟨k, rfl⟩)
    (fun s n => updLd s n fun d => { d with spares := sparesIn s (2 * n) + sparesIn s (2 * n + 1) })
    (fun s x => ⟨_, rfl⟩) (List.range 6) (setMaps s)
  exact ⟨_, _, l, h⟩

end Sys2Proof.Machine
end

