-- ==== Sys2Proof/Laws/Record.lean ====
section
/-! SUPPORT. What writing records changes: the rings, the larder and the events, nothing else. -/

namespace Sys2Proof.Machine

/-- The second state differs from the first in its rings, its larder and its Lonus port alone. -/
def RingsOnly (s t : State) : Prop := ∃ r l n, t = { s with rings := r, lard := l, lonus := n }

theorem RingsOnly.refl (s : State) : RingsOnly s s := ⟨_, _, _, rfl⟩

theorem RingsOnly.trans {a b c : State} : RingsOnly a b → RingsOnly b c → RingsOnly a c := by
  rintro ⟨_, _, _, rfl⟩ ⟨_, _, _, rfl⟩
  exact ⟨_, _, _, rfl⟩

theorem updRing_only (s : State) (k : Nat) (f : Ring → Ring) : RingsOnly s (updRing s k f) := ⟨_, s.lard, s.lonus, rfl⟩

theorem lardWrite_only (s : State) (a : Nat) (d : List Byte) : RingsOnly s (lardWrite s a d) := ⟨s.rings, _, s.lonus, rfl⟩

theorem emitB_only (s : State) (b c : Nat) (d : List Nat) : RingsOnly s (emitB s b c d) := ⟨s.rings, s.lard, _, rfl⟩

theorem unitsWrite_only (s : State) (a : Nat) (d : List Byte) : RingsOnly s (unitsWrite s a d) := ⟨s.rings, _, s.lonus, rfl⟩

@[simp] theorem ringOf_unitsWrite (s : State) (a : Nat) (d : List Byte) (k : Nat) : ringOf (unitsWrite s a d) k = ringOf s k := rfl

@[simp] theorem ringOf_ringSync (s : State) (k j : Nat) : ringOf (ringSync s k) j = ringOf s j := rfl

@[simp] theorem ringOf_updRing_self (s : State) (k : Nat) (f : Ring → Ring) : ringOf (updRing s k f) k = f (ringOf s k) :=
  Tab.get_upd_self ..

theorem ringSync_only (s : State) (k : Nat) : RingsOnly s (ringSync s k) := unitsWrite_only ..

theorem ringAppend_only (k : Nat) (s : State) (d : List Byte) : RingsOnly s (ringAppend k s d) := by
  unfold ringAppend
  dsimp only
  split
  · exact RingsOnly.refl s
  · split
    · exact ((unitsWrite_only ..).trans (updRing_only ..)).trans (ringSync_only ..)
    · exact ((updRing_only ..).trans (ringSync_only ..)).trans (emitB_only ..)

theorem ringPut_only (s : State) (k key : Nat) (d : List Byte) : RingsOnly s (ringPut s k key d) := by
  unfold ringPut
  exact (updRing_only ..).trans (foldl_rel RingsOnly.refl (fun _ _ _ => RingsOnly.trans) _ (ringAppend_only k) _ _)

theorem recordHold_only (s : State) (d n : Nat) : RingsOnly s (recordHold s d n).2 := ⟨s.rings, _, s.lonus, rfl⟩

theorem ringQueue_only (s : State) (k port : Nat) (egress : Bool) (rec : List Byte) : RingsOnly s (ringQueue s k port egress rec) := by
  unfold ringQueue
  extract_lets x
  split
  · exact (recordHold_only ..).trans (ringPut_only ..)
  · exact (recordHold_only ..).trans ((updRing_only ..).trans (ringSync_only ..))

theorem recordOne_only (port : Nat) (p : Packet) (egress : Bool) (reason : Option Nat) (dup : Bool) (s : State) (k : Nat) :
    RingsOnly s (recordOne port p egress reason dup s k) := by
  unfold recordOne
  split
  · extract_lets u r dig fl
    have h : RingsOnly s u := by
      show RingsOnly s (if egress = true then s else _)
      split
      · exact RingsOnly.refl s
      · exact updRing_only ..
    exact h.trans (ringQueue_only ..)
  · exact RingsOnly.refl s

theorem captureOne_only (port : Nat) (p : Packet) (egress failed : Bool) (reason : Option Nat) (s : State) (k : Nat) :
    RingsOnly s (captureOne port p egress failed reason s k) := by
  unfold captureOne
  split
  · extract_lets u r fl
    have h : RingsOnly s u := by
      show RingsOnly s (if failed = true then _ else s)
      split
      · exact updRing_only ..
      · exact RingsOnly.refl s
    exact h.trans (ringQueue_only ..)
  · exact RingsOnly.refl s

/-- What leaves a port is recorded and captured, and nothing else changes. -/
theorem watchEgress_only (s : State) (port : Nat) (p : Packet) : RingsOnly s (watchEgress s port p) := by
  unfold watchEgress
  extract_lets u
  have h : RingsOnly s u := foldl_rel RingsOnly.refl (fun _ _ _ => RingsOnly.trans) _ (captureOne_only port p true false none) _ s
  split
  · exact h
  · exact h.trans (foldl_rel RingsOnly.refl (fun _ _ _ => RingsOnly.trans) _ (recordOne_only port p true none false) _ u)

theorem recordBoundary_only (s : State) (b : Nat) : RingsOnly s (recordBoundary s b) := by
  refine foldl_rel RingsOnly.refl (fun _ _ _ => RingsOnly.trans) _ (fun s k => ?_) _ s
  dsimp only
  split
  · exact ringPut_only ..
  · exact RingsOnly.refl s

theorem beginRings_only (s : State) (b : Nat) : RingsOnly s (beginRings s b) := by
  refine foldl_rel RingsOnly.refl (fun _ _ _ => RingsOnly.trans) _ (fun s k => ?_) _ s
  extract_lets r
  split
  · split
    · exact (updRing_only ..).trans (ringSync_only ..)
    · exact RingsOnly.refl s
  · exact RingsOnly.refl s

end Sys2Proof.Machine
end

