-- ==== Sys2Proof/Laws/Faults.lean ====
section
/-! SUPPORT. What leaving Active changes in the job blocks and the count slots: faulting, pausing and the step boundary. -/

namespace Sys2Proof.Machine

@[simp] theorem settle_blocks (s : State) : (settle s).blocks = s.blocks := by unfold settle; split_ifs <;> rfl

@[simp] theorem settle_cslots (s : State) : (settle s).cslots = s.cslots := by unfold settle; split_ifs <;> rfl

@[simp] theorem winRelease_blocks (s : State) (b : Nat) : (winRelease s b).blocks = s.blocks := rfl

@[simp] theorem winRelease_cslots (s : State) (b : Nat) : (winRelease s b).cslots = s.cslots := rfl

@[simp] theorem replayLeave_blocks (s : State) (b : Nat) : (replayLeave s b).blocks = s.blocks := by
  unfold replayLeave
  split
  · obtain ⟨r, l, n, p, h⟩ := endReplay_frame s (some evReplayEnd) []; rw [h]
  · rfl

@[simp] theorem replayLeave_cslots (s : State) (b : Nat) : (replayLeave s b).cslots = s.cslots := by
  unfold replayLeave
  split
  · obtain ⟨r, l, n, p, h⟩ := endReplay_frame s (some evReplayEnd) []; rw [h]
  · rfl

@[simp] theorem dropBlock_blocks (s : State) (b : Nat) (k : Option Nat) : (dropBlock s b k).blocks = s.blocks := rfl

@[simp] theorem dropBlock_cslots (s : State) (b : Nat) (k : Option Nat) : (dropBlock s b k).cslots = s.cslots := rfl

@[simp] theorem clearGalley_blocks (s : State) (b : Nat) : (clearGalley s b).blocks = s.blocks := rfl

@[simp] theorem clearGalley_cslots (s : State) (b : Nat) : (clearGalley s b).cslots = s.cslots := rfl

@[simp] theorem clearColl_blocks (s : State) (p : Nat → Bool) : (clearColl s p).blocks = s.blocks := rfl

@[simp] theorem clearColl_cslots (s : State) (p : Nat → Bool) : (clearColl s p).cslots = s.cslots := rfl

@[simp] theorem clearLarder_blocks (s : State) (b : Nat) : (clearLarder s b).blocks = s.blocks := rfl

@[simp] theorem clearLarder_cslots (s : State) (b : Nat) : (clearLarder s b).cslots = s.cslots := rfl

/-- Faulting a block leaves every count slot. -/
@[simp] theorem faultBlockK_cslots (s : State) (b : Nat) (k : Option Nat) : (faultBlockK s b k).cslots = s.cslots := by
  unfold faultBlockK
  split
  · rfl
  · rfl
  · simp [updPwr, updBlock]

@[simp] theorem faultBlock_cslots (s : State) (b c : Nat) (i : List Nat) : (faultBlock s b c i).cslots = s.cslots := by
  unfold faultBlock
  split
  · rfl
  · rfl
  · exact faultBlockK_cslots s b none

/-- A loaded block that is faulted stands in Faulted. -/
theorem faultBlockK_st (s : State) (b : Nat) (k : Option Nat) (h : (blockOf s b).st ≠ .unloaded) :
    (blockOf (faultBlockK s b k) b).st = .faulted := by
  unfold faultBlockK
  split
  · contradiction
  · assumption
  · simp [blockOf, updPwr, updBlock]

/-- Faulting a block leaves the other blocks. -/
theorem faultBlockK_others (s : State) (b j : Nat) (k : Option Nat) (h : j ≠ b) : blockOf (faultBlockK s b k) j = blockOf s j := by
  unfold faultBlockK
  split
  · rfl
  · rfl
  · simp [blockOf, updPwr, updBlock, Tab.get_upd_ne, h]

/-- Pausing changes the block's state and its pending pause alone. -/
theorem pauseBlock_blocks (s : State) (b : Nat) :
    (pauseBlock s b).blocks = Tab.upd {} s.blocks b fun x => { x with st := .paused, pause := false } := by
  unfold pauseBlock
  extract_lets s1 s2
  have h : s2.blocks = s1.blocks := by simp only [s2]; split <;> rfl
  rw [replayLeave_blocks, winRelease_blocks, h]
  rfl

/-- A step boundary: the state before its last decision has the block's step and close request set, and the module's own state as it was. -/
theorem boundary_split (s : State) (b v : Nat) : ∃ u : State,
    boundary s b v = (if (blockOf u b).st = .active ∧ ((blockOf u b).pause ∨ u.mod.st = .drain) then settle (pauseBlock u b) else u) ∧
    u.blocks = Tab.upd {} s.blocks b (fun x => { x with step := (v + 1) % 2 ^ 48, close := none }) ∧ u.mod = s.mod := by
  unfold boundary
  extract_lets s1 s2 s3
  refine ⟨s3, rfl, ?_⟩
  have h2 : RingsOnly (dropCells s1 b) s2 := recordBoundary_only ..
  have h3 := beginRings_only s2 b
  have e : s3 = winRelease (beginRings s2 b) b := rfl
  clear_value s3 s2
  obtain ⟨_, _, _, rfl⟩ := h2
  obtain ⟨_, _, _, h3⟩ := h3
  rw [e, h3]
  exact ⟨rfl, rfl⟩

end Sys2Proof.Machine
end

