-- ==== Sys2Proof/Laws/Packets.lean ====
section
/-! SUPPORT. What sending a packet out of a port changes, and the receive window of a pair (03 R63). -/

namespace Sys2Proof.Machine

/-- A packet put into a port's egress changes the ports and takes a flight number. -/
theorem egDirect_frame (s : State) (p : Nat) (k : Packet) (b : Nat) :
    ∃ f q, egDirect s p k b = { s with flightId := f, ports := q } := by
  unfold egDirect
  split
  · split <;> exact ⟨_, _, rfl⟩
  · have a : ∀ (t : State) (fl : Flight), ∃ q,
        (egPlace t p fl).getD (updPort t p fun q => { q with egWait := q.egWait ++ [fl] }) = { t with ports := q } := by
      intro t fl; unfold egPlace; split_ifs <;> exact ⟨_, rfl⟩
    obtain ⟨q, h⟩ := a (flightOf s k none b).2 (flightOf s k none b).1
    exact ⟨s.flightId + 1, q, h⟩

/-- An ACK sent changes its pair's coalescing, and what putting a packet into an egress changes. -/
theorem ackNow_frame (s : State) (src : Nat) : ∃ f q,
    ackNow s src = updRecv { s with flightId := f, ports := q } src fun r => { r with
      fresh := 0, marks := r.marks.filter fun n => !ackCovers r n } := by
  unfold ackNow
  extract_lets r m
  obtain ⟨f, q, h⟩ := egDirect_frame s r.port (withMark (ackPacket s (dieOf s r.port) src m) m) 0xFFFF
  exact ⟨f, q, by rw [← h]⟩

/-- Making a line ready changes no counter of its port. -/
theorem lineReady_cnt (s : State) (p : Nat) (b : Bool) : (portOf (lineReady s p b) p).cnt = (portOf s p).cnt := by
  have fill : (portOf (lineFill s p) p).cnt = (portOf s p).cnt := by
    unfold lineFill; split <;> simp [updTx, updPort, portOf]
  unfold lineReady
  extract_lets s1 s2
  have a : (portOf s1 p).cnt = (portOf s p).cnt := by simp only [s1]; split <;> simp [fill]
  have e : (portOf s2 p).cnt = (portOf s1 p).cnt := by simp [s2, updTx, updPort, portOf]
  show (portOf (elapse s2 _) p).cnt = _
  exact e.trans a

/-- A packet sent is counted once. -/
theorem transmit_txPkts (s : State) (p : Nat) (k : Packet) :
    (portOf (transmit s p k) p).cnt.txPkts = ((portOf s p).cnt.txPkts + 1) % 2 ^ 64 := by
  unfold transmit
  extract_lets s1 k' s2 s3
  have h1 : (portOf s1 p).cnt = (portOf s p).cnt := lineReady_cnt ..
  have h : RingsOnly s2 s3 := watchEgress_only ..
  have e : (portOf s3 p).cnt.txPkts = ((portOf s p).cnt.txPkts + 1) % 2 ^ 64 := by
    clear_value s3
    obtain ⟨_, _, _, rfl⟩ := h
    rw [← h1]
    simp [portOf, s2, updPort]
  clear_value s3
  split
  · exact e
  · have u : ∀ f, (portOf (updTx s3 p f) p).cnt = (portOf s3 p).cnt := fun f => by simp [updTx, updPort, portOf]
    exact (congrArg PortCnt.txPkts (u fun c t => txSend c (packetBytes k') t)).trans e

-- The receive window

/-- The run of set bits from `i`: it is at most `n` long and every bit in it is set. -/
theorem runLen_spec (n : Nat) (m : BitVec 4096) (i : Nat) :
    i ≤ runLen n m i ∧ runLen n m i ≤ i + n ∧ ∀ k, i ≤ k → k < runLen n m i → m.getLsbD k = true := by
  induction n generalizing i with
  | zero => exact ⟨le_refl _, le_refl _, fun k h1 h2 => absurd h1 (not_le.mpr h2)⟩
  | succ n ih =>
    unfold runLen
    split
    · next h =>
      obtain ⟨h1, h2, h3⟩ := ih (i + 1)
      refine ⟨by omega, by omega, fun k k1 k2 => ?_⟩
      rcases Nat.eq_or_lt_of_le k1 with rfl | k1
      · exact h
      · exact h3 k k1 k2
    · exact ⟨le_refl _, by omega, fun k h1 h2 => absurd h1 (not_le.mpr h2)⟩

/-- Setting bit `d` of a received map sets that bit alone. -/
theorem setBit_getLsbD (m : BitVec 4096) (d k : Nat) (hk : k < 4096) :
    (m ||| (1#4096 <<< d)).getLsbD k = (m.getLsbD k || decide (k = d)) := by
  rw [BitVec.getLsbD_or, BitVec.getLsbD_shiftLeft, BitVec.getLsbD_one]
  congr 1
  by_cases h : k = d
  · subst h; simp [hk]
  · by_cases h2 : k < d
    · simp [h, h2]
    · simp [h]; intro _ _; omega

end Sys2Proof.Machine
end

