-- ==== Sys2Proof/Laws/Shape.lean ====
section
/-! SUPPORT. The two outcomes of a command: a next state that notes the alert byte and keeps the queue's rest and the fixed facts, or the stop
on a unit that the module lacks. -/

namespace Sys2Proof.Machine

/-- The outcome of a command on `s`. -/
def Shape (s : State) (o : Host.Outcome State Fault Refusal) : Prop := (∃ t, o = .next (after s t)) ∨ o = .fault .noSuchUnit

theorem shape_done (s t : State) : Shape s (done s t) := Or.inl ⟨t, rfl⟩

theorem shape_onUnit (ok : Bool) (s : State) (f : State → State) : Shape s (onUnit ok s f) := by
  cases ok
  · exact Or.inr rfl
  · exact Or.inl ⟨f s, rfl⟩

theorem shape_lonusCmd (tag op : Nat) (args : List Item) (s : State) (body : State → State × Option Reply) :
    Shape s (lonusCmd tag op args s body) := shape_done ..

theorem shape_onPortCmd (tag op port : Nat) (s : State) (f : State → State × Option Reply) : Shape s (onPortCmd tag op port s f) :=
  shape_lonusCmd ..

theorem shape_onLaneCmd (tag op lane : Nat) (more : List Item) (s : State) (f : State → State × Option Reply) :
    Shape s (onLaneCmd tag op lane more s f) := shape_lonusCmd ..

theorem shape_regRow (tag a : Nat) (w : Word) (s : State) : Shape s (regRow tag a w s) := shape_lonusCmd ..

theorem shape_arrivalRow (s : State) (ok : Bool) (port : Nat) (p : Packet) (cs : List LadleCheck) : Shape s (arrivalRow s ok port p cs) :=
  shape_onUnit ..

theorem shape_issueRow (t : ThreadRef) (s : State) (f : Meaning → Option (State → State)) : Shape s (issueRow t s f) := shape_onUnit ..

theorem shape_tzRow (t : ThreadRef) (s : State) (op : TzOp) (rd rs1 rs2 : Nat) (f : State → State) : Shape s (tzRow t s op rd rs1 rs2 f) :=
  shape_issueRow ..

theorem shape_engRow (die e op : Nat) (ecc : Ecc) (s : State) (f : State → Desc → State) : Shape s (engRow die e op ecc s f) :=
  shape_onUnit ..

theorem shape_i3cUpd (s : State) (f : I3c → I3c) : Shape s (i3cUpd s f) := shape_done ..

theorem shape_i3cOut (s : State) (b : List Byte) : Shape s (i3cOut s b) := shape_done ..

theorem shape_i3cFree (s : State) (f : Nat → List Byte) : Shape s (i3cFree s f) := shape_done ..

/-- Every command answers a next state around some effect, or stops on an absent unit (log 5). -/
theorem exec_shape (c : Instr) (s : State) : Shape s (exec c s) :=
  match c with
  | .idRead tag => by rw [exec, execIdRead]; exact shape_lonusCmd ..
  | .idCert tag => by rw [exec, execIdCert]; exact shape_lonusCmd ..
  | .idQuote tag nonce => by rw [exec, execIdQuote]; exact shape_lonusCmd ..
  | .idMeasure tag => by rw [exec, execIdMeasure]; exact shape_lonusCmd ..
  | .idOwnerSet tag record => by rw [exec, execIdOwnerSet]; exact shape_lonusCmd ..
  | .idOwnerClear tag => by rw [exec, execIdOwnerClear]; exact shape_lonusCmd ..
  | .stateSet tag target => by rw [exec, execStateSet]; exact shape_lonusCmd ..
  | .stateGet tag => by rw [exec, execStateGet]; exact shape_lonusCmd ..
  | .regRead tag addr count view => by rw [exec, execRegRead]; exact shape_lonusCmd ..
  | .regWrite tag addr count words => by rw [exec, execRegWrite]; exact shape_lonusCmd ..
  | .commit tag => by rw [exec, execCommit]; exact shape_lonusCmd ..
  | .repairMark tag unit => by rw [exec, execRepairMark]; exact shape_lonusCmd ..
  | .repairRead tag => by rw [exec, execRepairRead]; exact shape_lonusCmd ..
  | .sessionOpen tag rxRate => by rw [exec, execSessionOpen]; exact shape_lonusCmd ..
  | .sessionClose tag => by rw [exec, execSessionClose]; exact shape_lonusCmd ..
  | .jobLoad tag p => by rw [exec, execJobLoad]; exact shape_lonusCmd ..
  | .jobActivate tag block => by rw [exec, execJobActivate]; exact shape_lonusCmd ..
  | .jobPause tag block => by rw [exec, execJobPause]; exact shape_lonusCmd ..
  | .jobResume tag block => by rw [exec, execJobResume]; exact shape_lonusCmd ..
  | .jobUnload tag block => by rw [exec, execJobUnload]; exact shape_lonusCmd ..
  | .jobStatus tag block => by rw [exec, execJobStatus]; exact shape_lonusCmd ..
  | .larderRead tag addr length ecc => by rw [exec, execLarderRead]; exact shape_lonusCmd ..
  | .larderWrite tag addr data => by rw [exec, execLarderWrite]; exact shape_lonusCmd ..
  | .larderStatus tag => by rw [exec, execLarderStatus]; exact shape_lonusCmd ..
  | .telemStart tag sets periodMs => by rw [exec, execTelemStart]; exact shape_lonusCmd ..
  | .telemStop tag => by rw [exec, execTelemStop]; exact shape_lonusCmd ..
  | .telemSnapshot tag sets => by rw [exec, execTelemSnapshot]; exact shape_lonusCmd ..
  | .sampleStart tag port oneInN trunc => by rw [exec, execSampleStart]; exact shape_lonusCmd ..
  | .sampleStop tag => by rw [exec, execSampleStop]; exact shape_lonusCmd ..
  | .captureStart tag ringMib port => by rw [exec, execCaptureStart]; exact shape_lonusCmd ..
  | .captureStop tag ring => by rw [exec, execCaptureStop]; exact shape_lonusCmd ..
  | .captureDump tag ring offset length ecc => by rw [exec, execCaptureDump]; exact shape_lonusCmd ..
  | .capSet tag capW => by rw [exec, execCapSet]; exact shape_lonusCmd ..
  | .powerStatus tag => by rw [exec, execPowerStatus]; exact shape_lonusCmd ..
  | .shedSet tag pct => by rw [exec, execShedSet]; exact shape_lonusCmd ..
  | .orphanSet tag pct => by rw [exec, execOrphanSet]; exact shape_lonusCmd ..
  | .heartbeat tag sequence => by rw [exec, execHeartbeat]; exact shape_lonusCmd ..
  | .thermalStatus tag => by rw [exec, execThermalStatus]; exact shape_lonusCmd ..
  | .coolantStatus tag => by rw [exec, execCoolantStatus]; exact shape_lonusCmd ..
  | .fwStage tag data => by rw [exec, execFwStage]; exact shape_lonusCmd ..
  | .fwArm tag => by rw [exec, execFwArm]; exact shape_lonusCmd ..
  | .fwDisarm tag => by rw [exec, execFwDisarm]; exact shape_lonusCmd ..
  | .fwStatus tag => by rw [exec, execFwStatus]; exact shape_lonusCmd ..
  | .presenceStatus tag => by rw [exec, execPresenceStatus]; exact shape_lonusCmd ..
  | .sealLogRead tag => by rw [exec, execSealLogRead]; exact shape_lonusCmd ..
  | .sealLogClear tag => by rw [exec, execSealLogClear]; exact shape_lonusCmd ..
  | .debugUnlock tag => by rw [exec, execDebugUnlock]; exact shape_lonusCmd ..
  | .debugLock tag => by rw [exec, execDebugLock]; exact shape_lonusCmd ..
  | .debugAttach tag image => by rw [exec, execDebugAttach]; exact shape_lonusCmd ..
  | .debugDetach tag image => by rw [exec, execDebugDetach]; exact shape_lonusCmd ..
  | .debugThread tag image t => by rw [exec, execDebugThread]; exact shape_lonusCmd ..
  | .debugResume tag image t => by rw [exec, execDebugResume]; exact shape_lonusCmd ..
  | .steadySet tag value => by rw [exec, execSteadySet]; exact shape_lonusCmd ..
  | .tableFlip tag version copiesAgree => by rw [exec, execTableFlip]; exact shape_lonusCmd ..
  | .tableSeal tag => by rw [exec, execTableSeal]; exact shape_lonusCmd ..
  | .tableCopy tag => by rw [exec, execTableCopy]; exact shape_lonusCmd ..
  | .tableClear tag version => by rw [exec, execTableClear]; exact shape_lonusCmd ..
  | .tableStatus tag => by rw [exec, execTableStatus]; exact shape_lonusCmd ..
  | .harnessLoad tag harness => by rw [exec, execHarnessLoad]; exact shape_lonusCmd ..
  | .harnessUnload tag harness => by rw [exec, execHarnessUnload]; exact shape_lonusCmd ..
  | .harnessStatus tag harness => by rw [exec, execHarnessStatus]; exact shape_lonusCmd ..
  | .jobStepClose tag block v => by rw [exec, execJobStepClose]; exact shape_lonusCmd ..
  | .galleyLoad tag image block source item clusters elf => by rw [exec, execGalleyLoad]; exact shape_lonusCmd ..
  | .galleyUnload tag image => by rw [exec, execGalleyUnload]; exact shape_lonusCmd ..
  | .galleyLaunch tag image entry arg0 arg1 => by rw [exec, execGalleyLaunch]; exact shape_lonusCmd ..
  | .galleyStatus tag image => by rw [exec, execGalleyStatus]; exact shape_lonusCmd ..
  | .linkStatus tag port => by rw [exec, execLinkStatus]; exact shape_onPortCmd ..
  | .linkReset tag port => by rw [exec, execLinkReset]; exact shape_onPortCmd ..
  | .linkDisable tag port => by rw [exec, execLinkDisable]; exact shape_onPortCmd ..
  | .linkEnable tag port => by rw [exec, execLinkEnable]; exact shape_onPortCmd ..
  | .linkIdle tag port => by rw [exec, execLinkIdle]; exact shape_onPortCmd ..
  | .linkWake tag port => by rw [exec, execLinkWake]; exact shape_onPortCmd ..
  | .lanePrbsStart tag lane pattern direction => by rw [exec, execLanePrbsStart]; exact shape_onLaneCmd ..
  | .lanePrbsStop tag lane => by rw [exec, execLanePrbsStop]; exact shape_onLaneCmd ..
  | .lanePrbsRead tag lane => by rw [exec, execLanePrbsRead]; exact shape_onLaneCmd ..
  | .laneInject tag lane kind n count intervalUs => by rw [exec, execLaneInject]; exact shape_onLaneCmd ..
  | .laneBitslip tag lane => by rw [exec, execLaneBitslip]; exact shape_onLaneCmd ..
  | .laneEyeScan tag lane eye => by rw [exec, execLaneEyeScan]; exact shape_onLaneCmd ..
  | .eyeScanDone chiplet counts => by rw [exec, execEyeScanDone]; exact shape_onUnit ..
  | .planInstall tag plan => by rw [exec, execPlanInstall]; exact shape_lonusCmd ..
  | .planEdit tag port state => by rw [exec, execPlanEdit]; exact shape_lonusCmd ..
  | .planRead tag => by rw [exec, execPlanRead]; exact shape_lonusCmd ..
  | .certRun tag port mode dwellS => by rw [exec, execCertRun]; exact shape_lonusCmd ..
  | .recordStart tag p => by rw [exec, execRecordStart]; exact shape_lonusCmd ..
  | .recordStop tag ring => by rw [exec, execRecordStop]; exact shape_lonusCmd ..
  | .recordStatus tag ring => by rw [exec, execRecordStatus]; exact shape_lonusCmd ..
  | .recordDump tag ring offset length ecc => by rw [exec, execRecordDump]; exact shape_lonusCmd ..
  | .ringFree tag ring => by rw [exec, execRingFree]; exact shape_lonusCmd ..
  | .replayLoad tag ringMib data => by rw [exec, execReplayLoad]; exact shape_lonusCmd ..
  | .replayStart tag ring outMib startAxle => by rw [exec, execReplayStart]; exact shape_lonusCmd ..
  | .replayStop tag => by rw [exec, execReplayStop]; exact shape_lonusCmd ..
  | .replayStatus tag => by rw [exec, execReplayStatus]; exact shape_lonusCmd ..
  | .entdaa addr => by rw [exec, execEntdaa]; exact shape_i3cUpd ..
  | .setdasa staticAddr addr => by rw [exec, execSetdasa]; exact shape_i3cUpd ..
  | .setnewda addr => by rw [exec, execSetnewda]; exact shape_i3cUpd ..
  | .rstdaa => by rw [exec, execRstdaa]; exact shape_i3cUpd ..
  | .enec events => by rw [exec, execEnec]; exact shape_i3cUpd ..
  | .disec events => by rw [exec, execDisec]; exact shape_i3cUpd ..
  | .getpid => by rw [exec, execGetpid]; exact shape_i3cOut ..
  | .getbcr => by rw [exec, execGetbcr]; exact shape_i3cOut ..
  | .getdcr => by rw [exec, execGetdcr]; exact shape_i3cOut ..
  | .getstatus => by rw [exec, execGetstatus]; exact shape_i3cFree ..
  | .getmwl => by rw [exec, execGetmwl]; exact shape_i3cFree ..
  | .getmrl => by rw [exec, execGetmrl]; exact shape_i3cFree ..
  | .rstact action => by rw [exec, execRstact]; exact shape_i3cUpd ..
  | .i3cPrivateWrite bytes reads => by rw [exec, execI3cPrivateWrite]; exact shape_done ..
  | .commandFrame f words start => by rw [exec, execCommandFrame]; exact shape_done ..
  | .bulkFrame f words start => by rw [exec, execBulkFrame]; exact shape_done ..
  | .bulkTimeout tag => by rw [exec, execBulkTimeout]; exact shape_done ..
  | .outputFrameSend => by rw [exec, execOutputFrameSend]; exact shape_done ..
  | .lonusLineUp => by rw [exec, execLonusLineUp]; exact shape_done ..
  | .lonusLineDown => by rw [exec, execLonusLineDown]; exact shape_done ..
  | .tableEntryWrite tag addr word => by rw [exec, execTableEntryWrite]; exact shape_regRow ..
  | .stgE2eCtlWrite tag word => by rw [exec, execStgE2eCtlWrite]; exact shape_regRow ..
  | .stgGalBindWrite tag harness word => by rw [exec, execStgGalBindWrite]; exact shape_regRow ..
  | .stgJblkStepsrcWrite tag block word => by rw [exec, execStgJblkStepsrcWrite]; exact shape_regRow ..
  | .hubPortWidthWrite tag die word => by rw [exec, execHubPortWidthWrite]; exact shape_regRow ..
  | .modDrainCtlWrite tag word => by rw [exec, execModDrainCtlWrite]; exact shape_regRow ..
  | .modLardLayoutWrite tag second word => by rw [exec, execModLardLayoutWrite]; exact shape_regRow ..
  | .write port p => by rw [exec, execWrite]; exact shape_arrivalRow ..
  | .readReq port p => by rw [exec, execReadReq]; exact shape_arrivalRow ..
  | .readRsp port p => by rw [exec, execReadRsp]; exact shape_arrivalRow ..
  | .atomic port p => by rw [exec, execAtomic]; exact shape_arrivalRow ..
  | .atomicRsp port p => by rw [exec, execAtomicRsp]; exact shape_arrivalRow ..
  | .collContrib port p checks => by rw [exec, execCollContrib]; exact shape_arrivalRow ..
  | .galleyCall port p => by rw [exec, execGalleyCall]; exact shape_arrivalRow ..
  | .ack port p => by rw [exec, execAck]; exact shape_arrivalRow ..
  | .nack port p => by rw [exec, execNack]; exact shape_arrivalRow ..
  | .sync port p rxAxle => by rw [exec, execSync]; exact shape_onUnit ..
  | .crossbarCellTime die => by rw [exec, execCrossbarCellTime]; exact shape_onUnit ..
  | .packetTransmit port => by rw [exec, execPacketTransmit]; exact shape_onUnit ..
  | .brakeRelease die ecc => by rw [exec, execBrakeRelease]; exact shape_onUnit ..
  | .queueStateExchange => by rw [exec, execQueueStateExchange]; exact shape_done ..
  | .tableDrainSlow => by rw [exec, execTableDrainSlow]; exact shape_done ..
  | .overflowDrain port eccs => by rw [exec, execOverflowDrain]; exact shape_onUnit ..
  | .ovfExhausted => by rw [exec, execOvfExhausted]; exact shape_done ..
  | .markDepthWindow => by rw [exec, execMarkDepthWindow]; exact shape_done ..
  | .brakeIncrease die epa => by rw [exec, execBrakeIncrease]; exact shape_onUnit ..
  | .queueHistogramSample => by rw [exec, execQueueHistogramSample]; exact shape_done ..
  | .ackDelayExpiry src => by rw [exec, execAckDelayExpiry]; exact shape_done ..
  | .resendTimeout dst group seq => by rw [exec, execResendTimeout]; exact shape_done ..
  | .portFlushed port => by rw [exec, execPortFlushed]; exact shape_onUnit ..
  | .leafStateSend die harness step chunk ecc checks => by rw [exec, execLeafStateSend]; exact shape_onUnit ..
  | .leafStateArrival die harness step chunk checks => by rw [exec, execLeafStateArrival]; exact shape_onUnit ..
  | .collTimeout die harness step chunk => by rw [exec, execCollTimeout]; exact shape_onUnit ..
  | .spillExhausted port => by rw [exec, execSpillExhausted]; exact shape_onUnit ..
  | .larderRequestPart ld ecc check => by rw [exec, execLarderRequestPart]; exact shape_onUnit ..
  | .refreshSlot stack pc waiting scrubAddr ecc => by rw [exec, execRefreshSlot]; exact shape_onUnit ..
  | .tzSubmit t rs1 rs2 => by rw [exec, execTzSubmit]; exact shape_tzRow ..
  | .descriptorAccept die engine ecc => by rw [exec, execDescriptorAccept]; exact shape_onUnit ..
  | .tzSend t rs1 rs2 ecc => by rw [exec, execTzSend]; exact shape_tzRow ..
  | .tzWait t rd rs1 rs2 => by rw [exec, execTzWait]; exact shape_tzRow ..
  | .tzWaitWake t => by rw [exec, execTzWaitWake]; exact shape_onUnit ..
  | .waitLimit t => by rw [exec, execWaitLimit]; exact shape_onUnit ..
  | .tzTake t rd rs1 rs2 ecc => by rw [exec, execTzTake]; exact shape_tzRow ..
  | .tzTakeWake t ecc => by rw [exec, execTzTakeWake]; exact shape_onUnit ..
  | .tzBrake t rs1 => by rw [exec, execTzBrake]; exact shape_tzRow ..
  | .tzAxle t rd => by rw [exec, execTzAxle]; exact shape_tzRow ..
  | .tzStep t rd => by rw [exec, execTzStep]; exact shape_tzRow ..
  | .tzYield t => by rw [exec, execTzYield]; exact shape_tzRow ..
  | .galleyAccess t addr size ecc => by rw [exec, execGalleyAccess]; exact shape_issueRow ..
  | .fence t predW => by rw [exec, execFence]; exact shape_issueRow ..
  | .exit t => by rw [exec, execExit]; exact shape_issueRow ..
  | .log t ecc => by rw [exec, execLog]; exact shape_issueRow ..
  | .ebreak t => by rw [exec, execEbreak]; exact shape_issueRow ..
  | .launchGroupStart image ecc => by rw [exec, execLaunchGroupStart]; exact shape_onUnit ..
  | .descriptorWaitRelease die => by rw [exec, execDescriptorWaitRelease]; exact shape_onUnit ..
  | .engineWaitLimit die => by rw [exec, execEngineWaitLimit]; exact shape_onUnit ..
  | .descriptorComplete die engine cycles => by rw [exec, execDescriptorComplete]; exact shape_onUnit ..
  | .contrib die ecc checks => by rw [exec, execContrib]; exact shape_engRow ..
  | .accInit die check => by rw [exec, execAccInit]; exact shape_engRow ..
  | .accAdd die ecc check => by rw [exec, execAccAdd]; exact shape_engRow ..
  | .accRound die ecc => by rw [exec, execAccRound]; exact shape_engRow ..
  | .topk die ecc => by rw [exec, execTopk]; exact shape_engRow ..
  | .sort die ecc => by rw [exec, execSort]; exact shape_engRow ..
  | .thresh die ecc => by rw [exec, execThresh]; exact shape_engRow ..
  | .selectRank die ecc => by rw [exec, execSelectRank]; exact shape_engRow ..
  | .gather die ecc => by rw [exec, execGather]; exact shape_engRow ..
  | .scatter die ecc => by rw [exec, execScatter]; exact shape_engRow ..
  | .pageGather die ecc => by rw [exec, execPageGather]; exact shape_engRow ..
  | .pageScatter die ecc => by rw [exec, execPageScatter]; exact shape_engRow ..
  | .convert die ecc => by rw [exec, execConvert]; exact shape_engRow ..
  | .crc64 die ecc => by rw [exec, execCrc64]; exact shape_engRow ..
  | .shake256 die ecc => by rw [exec, execShake256]; exact shape_engRow ..
  | .sumcheck die ecc => by rw [exec, execSumcheck]; exact shape_engRow ..
  | .put die ecc => by rw [exec, execPut]; exact shape_engRow ..
  | .trainingFrame port lane bits inverted errorsLow => by rw [exec, execTrainingFrame]; exact shape_onUnit ..
  | .hitchStageTimeout port swingLost => by rw [exec, execHitchStageTimeout]; exact shape_onUnit ..
  | .backOffEnd port => by rw [exec, execBackOffEnd]; exact shape_onUnit ..
  | .listenBeacon port => by rw [exec, execListenBeacon]; exact shape_onUnit ..
  | .listenSwingSeen port => by rw [exec, execListenSwingSeen]; exact shape_onUnit ..
  | .bitSlipSearch lane found => by rw [exec, execBitSlipSearch]; exact shape_onUnit ..
  | .identityMessage port msg => by rw [exec, execIdentityMessage]; exact shape_onUnit ..
  | .timingMessage port msg rxAxle => by rw [exec, execTimingMessage]; exact shape_onUnit ..
  | .portMisplaced port => by rw [exec, execPortMisplaced]; exact shape_onUnit ..
  | .verifyEnd port uncorrectable corrected received => by rw [exec, execVerifyEnd]; exact shape_onUnit ..
  | .uncorrectableRound port words headers => by rw [exec, execUncorrectableRound]; exact shape_onUnit ..
  | .linkDown port cause => by rw [exec, execLinkDown]; exact shape_onUnit ..
  | .enterIdle port => by rw [exec, execEnterIdle]; exact shape_onUnit ..
  | .idleExitBurst port => by rw [exec, execIdleExitBurst]; exact shape_onUnit ..
  | .idleExit port => by rw [exec, execIdleExit]; exact shape_onUnit ..
  | .syncSend => by rw [exec, execSyncSend]; exact shape_done ..
  | .axleServo => by rw [exec, execAxleServo]; exact shape_done ..
  | .masterSelfLock => by rw [exec, execMasterSelfLock]; exact shape_done ..
  | .certDone mode results => by rw [exec, execCertDone]; exact shape_done ..
  | .certSchedule => by rw [exec, execCertSchedule]; exact shape_done ..
  | .telemetryBoundary => by rw [exec, execTelemetryBoundary]; exact shape_done ..
  | .replayInject checks => by rw [exec, execReplayInject]; exact shape_done ..
  | .controlCycle sensed copied => by rw [exec, execControlCycle]; exact shape_done ..
  | .thermalHold position => by rw [exec, execThermalHold]; exact shape_onUnit ..
  | .thermalTrip position sensor reading => by rw [exec, execThermalTrip]; exact shape_onUnit ..
  | .ehrokTakeover cause => by rw [exec, execEhrokTakeover]; exact shape_done ..
  | .coreRestart coreB imageOk => by rw [exec, execCoreRestart]; exact shape_done ..
  | .ehrokTakeback => by rw [exec, execEhrokTakeback]; exact shape_done ..
  | .hardwareWatchdog => by rw [exec, execHardwareWatchdog]; exact shape_done ..
  | .powerUp input => by rw [exec, execPowerUp]; exact shape_done ..
  | .setupEntry imagesOk => by rw [exec, execSetupEntry]; exact shape_done ..
  | .selfTestComplete r => by rw [exec, execSelfTestComplete]; exact shape_done ..
  | .restEntry => by rw [exec, execRestEntry]; exact shape_done ..
  | .holdEnter cause unit => by rw [exec, execHoldEnter]; exact shape_done ..
  | .drainLimit => by rw [exec, execDrainLimit]; exact shape_done ..
  | .orphanEnter => by rw [exec, execOrphanEnter]; exact shape_done ..
  | .presenceOpen jumper => by rw [exec, execPresenceOpen]; exact shape_done ..
  | .presenceClose => by rw [exec, execPresenceClose]; exact shape_done ..
  | .sealOpen loopB => by rw [exec, execSealOpen]; exact shape_done ..
  | .sealClose loopB => by rw [exec, execSealClose]; exact shape_done ..
  | .pinReset => by rw [exec, execPinReset]; exact shape_done ..
  | .resetNRelease inputInRange input => by rw [exec, execResetNRelease]; exact shape_done ..
  | .shedNAssert => by rw [exec, execShedNAssert]; exact shape_done ..
  | .shedNRelease => by rw [exec, execShedNRelease]; exact shape_done ..
  | .capOverrun draw => by rw [exec, execCapOverrun]; exact shape_done ..
  | .inputRange volts => by rw [exec, execInputRange]; exact shape_done ..
  | .undervoltageShed volts => by rw [exec, execUndervoltageShed]; exact shape_done ..
  | .inputUndervolt volts => by rw [exec, execInputUndervolt]; exact shape_done ..
  | .protectiveStop overvoltage => by rw [exec, execProtectiveStop]; exact shape_done ..
  | .lossOfInput => by rw [exec, execLossOfInput]; exact shape_done ..
  | .droopStretch die => by rw [exec, execDroopStretch]; exact shape_onUnit ..
  | .droopRelease die => by rw [exec, execDroopRelease]; exact shape_onUnit ..
  | .marginLow position atLimit => by rw [exec, execMarginLow]; exact shape_onUnit ..
  | .coolLowFlow flow sensorFault => by rw [exec, execCoolLowFlow]; exact shape_done ..
  | .flowRecovered flow => by rw [exec, execFlowRecovered]; exact shape_done ..
  | .coolInletHigh inlet outlet => by rw [exec, execCoolInletHigh]; exact shape_done ..
  | .coolInletLow inlet => by rw [exec, execCoolInletLow]; exact shape_done ..
  | .leak loop => by rw [exec, execLeak]; exact shape_onUnit ..
  | .leakLoopFault loop resistance => by rw [exec, execLeakLoopFault]; exact shape_onUnit ..
  | .refclkAbsent => by rw [exec, execRefclkAbsent]; exact shape_done ..
  | .inputRecovered volts => by rw [exec, execInputRecovered]; exact shape_done ..
  | .refclkRestored => by rw [exec, execRefclkRestored]; exact shape_done ..
  | .alignExit port => by rw [exec, execAlignExit]; exact shape_onUnit ..
  | .streamResume port => by rw [exec, execStreamResume]; exact shape_onUnit ..
  | .prbsLock lane => by rw [exec, execPrbsLock]; exact shape_onUnit ..
  | .prbsLockLost lane bits bitErrors symbolErrors => by rw [exec, execPrbsLockLost]; exact shape_onUnit ..
  | .invalidTypePacket port p => by rw [exec, execInvalidTypePacket]; exact shape_arrivalRow ..
  | .illegalInstruction t word ecc => by rw [exec, execIllegalInstruction]; exact shape_issueRow ..

end Sys2Proof.Machine
end

