-- ==== Sys2Proof/Laws/Startup.lean ====
section
/-! SUPPORT. What boot, entry to Hold, entry to Setup and entry to Rest leave in the state. -/

namespace Sys2Proof.Machine

-- Boot

theorem raiseFloor_now (s : State) : (raiseFloor s).now = s.now := by obtain ⟨_, _, h, _⟩ := raiseFloor_frame s; rw [h]

theorem raiseFloor_mgmt (s : State) : (raiseFloor s).mgmt = s.mgmt := by obtain ⟨_, _, h, _⟩ := raiseFloor_frame s; rw [h]

theorem raiseFloor_mod (s : State) : (raiseFloor s).mod = s.mod := by obtain ⟨_, _, h, _⟩ := raiseFloor_frame s; rw [h]

theorem raiseFloor_cycles (s : State) : (raiseFloor s).nv.cycles = s.nv.cycles := by
  obtain ⟨_, _, h, h2⟩ := raiseFloor_frame s; rw [h]; exact h2

theorem sealLogAdd_cycles (s : State) (a b : Nat) : (sealLogAdd s a b).nv.cycles = s.nv.cycles := by
  obtain ⟨_, h, h2⟩ := sealLogAdd_frame s a b; rw [h]; exact h2

/-- What the boot's choice of a slot leaves alone. -/
def BootKeeps (s t : State) : Prop :=
  t.now = s.now ∧ t.mgmt = s.mgmt ∧ t.nv.cycles = s.nv.cycles ∧ t.mod.plane = s.mod.plane ∧ t.mod.rackPos = s.mod.rackPos ∧
    t.mod.strapBad = s.mod.strapBad

theorem chooseSlot_keeps (s : State) : BootKeeps s (chooseSlot s) := by
  unfold chooseSlot BootKeeps
  dsimp only
  generalize (if (slotAtDev s.nv (!s.nv.curIsF1)).state = SlotState.armed then !s.nv.curIsF1 else s.nv.curIsF1) = d
  split
  · simp [raiseFloor_now, raiseFloor_mgmt, raiseFloor_mod, raiseFloor_cycles, bootDev_cycles]
  · split
    · simp [emit, emitX, updMod, raiseFloor_now, raiseFloor_mgmt, raiseFloor_mod, raiseFloor_cycles, bootDev_cycles, markBad_cycles]
    · simp [updMod, markBad_cycles]

theorem bootRecord_keeps (s : State) (i : PowerUpInput) : BootKeeps s (bootRecord s i) := by
  unfold bootRecord BootKeeps
  cases i.sealA <;> cases i.sealB <;> simp only [Bool.false_eq_true, if_false, if_true] <;> split <;>
    simp [emit, emitX, sealLogAdd_cycles] <;> simp [sealLogAdd, updNv]

/-- What a boot samples and sets. -/
theorem boot_proj (s : State) (i : PowerUpInput) :
    (boot s i).mod.st = .standby ∧ (boot s i).mod.plane = (i.straps.headD (0, 0)).1 % 16 ∧
    (boot s i).mod.rackPos = (i.straps.headD (0, 0)).2 % 64 ∧
    ((boot s i).mod.strapBad = i.straps.any fun x => decide (x ≠ i.straps.headD (0, 0))) ∧
    (boot s i).mgmt = { s.mgmt with sealA := i.sealA, sealB := i.sealB } ∧ (boot s i).lonus.beatAt = s.now ∧
    (boot s i).nv.cycles = (s.nv.cycles + 1) % 2 ^ 32 := by
  obtain ⟨g1, g2, g3, g4, g5, g6⟩ := bootRecord_keeps (bootSample s i) i
  obtain ⟨h1, h2, h3, h4, h5, h6⟩ := chooseSlot_keeps (bootRecord (bootSample s i) i)
  simp only [boot, h1, h2, h3, h4, h5, h6, g1, g2, g3, g4, g5, g6]
  simp [bootSample]

-- Entry to Hold

theorem holdBlocks_frame (s : State) (c : Nat) :
    ∃ b w p n, holdBlocks s c = { s with blocks := b, winEff := w, winPend := p, lonus := n } :=
  foldl_rel (R := fun s t => ∃ b w p n, t = { s with blocks := b, winEff := w, winPend := p, lonus := n }) (fun s => ⟨_, _, _, _, rfl⟩)
    (by rintro a b c ⟨n, _, _, _, rfl⟩ ⟨m, _, _, _, rfl⟩; exact ⟨_, _, _, _, rfl⟩) _ (fun s x => ⟨_, _, _, _, rfl⟩) _ s

/-- Bringing lines up to now changes the ports alone. -/
theorem lineFills_frame (l : List Nat) (s : State) : ∃ p, l.foldl lineFill s = { s with ports := p } :=
  foldl_rel (R := fun s t => ∃ p, t = { s with ports := p }) (fun s => ⟨s.ports, rfl⟩)
    (by rintro a b c ⟨n, rfl⟩ ⟨m, rfl⟩; exact ⟨m, rfl⟩) lineFill
    (fun s x => by unfold lineFill; split <;> exact ⟨_, rfl⟩) l s

theorem Tab.get_mem {α : Type} (d : α) (t : Tab α) (k : Nat) : Tab.get d t k = d ∨ (k, Tab.get d t k) ∈ t := by
  induction t with
  | nil => exact .inl rfl
  | cons x t ih =>
    obtain ⟨j, v⟩ := x
    by_cases h : j = k
    · subst h; simp [Tab.get]
    · simp only [Tab.get, if_neg h]
      exact ih.imp_right (List.mem_cons_of_mem _)

/-- A value that a mapping keeps from the default is there mapped. -/
theorem Tab.get_mapV {α : Type} [DecidableEq α] (d : α) (t : Tab α) (f : α → α) (k : Nat) (h : Tab.get d t k ≠ d)
    (hf : f (Tab.get d t k) ≠ d) : Tab.get d (Tab.mapV d t f) k = f (Tab.get d t k) := by
  induction t with
  | nil => exact absurd rfl h
  | cons x t ih =>
    obtain ⟨j, v⟩ := x
    by_cases hj : j = k
    · subst hj
      simp only [Tab.get, if_true] at h hf ⊢
      simp [Tab.mapV, hf, Tab.get]
    · simp only [Tab.get, if_neg hj] at h hf ⊢
      rw [← ih h hf]
      by_cases hv : f v = d <;> simp [Tab.mapV, hv, Tab.get, hj]

/-- A port whose transmitter is idle is listed, so a mapping that keeps that reaches it. -/
theorem portOf_mapV (t : Tab Port) (f : Port → Port) (p : Nat) (h : (Tab.get {} t p).txIdle = true)
    (hf : (f (Tab.get {} t p)).txIdle = true) : Tab.get {} (Tab.mapV {} t f) p = f (Tab.get {} t p) :=
  Tab.get_mapV {} t f p (fun e => by rw [e] at h; exact absurd h (by decide)) (fun e => by rw [e] at hf; exact absurd hf (by decide))

/-- Idling the transmitters of a list of ports: each is idle then, and every port keeps its stage. -/
theorem idleTx_spec (l : List Nat) (s : State) :
    ∃ ports, l.foldl (fun s p => updPort s p fun q => { q with txIdle := true }) s = { s with ports := ports } ∧
      (∀ p, (Tab.get {} ports p).stage = (portOf s p).stage) ∧
      (∀ p, p ∈ l ∨ (portOf s p).txIdle = true → (Tab.get {} ports p).txIdle = true) := by
  induction l generalizing s with
  | nil => exact ⟨s.ports, rfl, fun _ => rfl, fun p h => h.resolve_left (by simp)⟩
  | cons a l ih =>
    obtain ⟨ports, h1, h2, h3⟩ := ih (updPort s a fun q => { q with txIdle := true })
    refine ⟨ports, h1, fun p => (h2 p).trans ?_, fun p h => h3 p ?_⟩
    · by_cases hp : p = a
      · subst hp; simp [portOf, updPort]
      · simp [portOf, updPort, Tab.get_upd_ne, hp]
    · by_cases hp : p = a
      · subst hp; right; simp [portOf, updPort]
      · rcases h with h | h
        · left; simpa [hp] using h
        · right; simpa [portOf, updPort, Tab.get_upd_ne, hp] using h

/-- The stop of the data plane leaves an idle transmitter idle and its port's stage. -/
theorem stopDataPlane_port (s : State) (p : Nat) (h : (portOf s p).txIdle = true) :
    (portOf (stopDataPlane s) p).stage = (portOf s p).stage ∧ (portOf (stopDataPlane s) p).txIdle = true := by
  have key : ∀ (t : Tab Port) (f g : Port → Port), (Tab.get {} t p).txIdle = true → (∀ q, (f q).stage = q.stage ∧ (f q).txIdle = q.txIdle) →
      (∀ q, (g q).stage = q.stage ∧ (g q).txIdle = q.txIdle) →
      (Tab.get {} (Tab.mapV {} (Tab.mapV {} t f) g) p).stage = (Tab.get {} t p).stage ∧
        (Tab.get {} (Tab.mapV {} (Tab.mapV {} t f) g) p).txIdle = true := by
    intro t f g h hf hg
    have m1 := portOf_mapV t f p h ((hf _).2.trans h)
    have m2 := portOf_mapV (Tab.mapV {} t f) g p (by rw [m1]; exact (hf _).2.trans h) (by rw [m1]; exact (hg _).2.trans ((hf _).2.trans h))
    rw [m2, m1]
    exact ⟨(hg _).1.trans (hf _).1, (hg _).2.trans ((hf _).2.trans h)⟩
  have e : (stopDataPlane s).ports = Tab.mapV {} (Tab.mapV {} s.ports fun q => { q with
      egq := q.egq.filter fun _ => false, ctlq := q.ctlq.filter fun _ => false,
      ovfList := q.ovfList.filter fun _ => false, egWait := q.egWait.filter fun _ => false })
      fun q => { q with ovf := false, flushing := false, egWait := [] } := rfl
  rw [portOf, e]
  exact key s.ports _ _ h (fun _ => ⟨rfl, rfl⟩) (fun _ => ⟨rfl, rfl⟩)

/-- Entry to Hold: the state before the blocks are faulted. -/
theorem enterHold_split (s : State) (c : Nat) (u : Option RepairUnit) (h1 : s.mod.st ≠ .off) (h2 : s.mod.st ≠ .standby)
    (h3 : s.mod.st ≠ .hold) :
    ∃ v, enterHold s c u = emit (holdBlocks v c) evHoldEnter [c, v.mod.unitKind, v.mod.unit] ∧
      v.mod.st = .hold ∧ v.mod.cause = c ∧ v.mod.unitValid = u.isSome ∧ v.mod.frozen = true ∧ v.mod.dpOff = decide (c = 7 ∨ c = 9) ∧
      v.mod.trans = none ∧ v.held = [] ∧ v.replay.running = false ∧ v.lard.mem = [] ∧ v.telem.smpOn = false ∧ v.nv = s.nv ∧
      v.blocks = s.blocks ∧ v.mod.unitKind = (u.map RepairUnit.kind).getD 0 ∧ v.mod.unit = (u.map RepairUnit.unit).getD 0 ∧
      (∀ p ∈ allPorts s, (portOf v p).stage = .disabled ∧ (portOf v p).txIdle = true) := by
  unfold enterHold
  split
  · contradiction
  · contradiction
  · contradiction
  · extract_lets all s1 up s2 s3 s4 sI s5 s6 tl s7 s8
    have e1 : ∃ l e, s1 = { s with mod := { s.mod with trans := none }, lonus := l, ehrok := e } := abortTransition_frame s _
    have a1 : s1.nv = s.nv ∧ s1.mod.trans = none ∧ s1.blocks = s.blocks := by
      obtain ⟨l, e, h⟩ := e1; rw [h]; exact ⟨rfl, rfl, rfl⟩
    clear_value s1
    have a3 : s3.nv = s.nv ∧ s3.mod.trans = none ∧ s3.blocks = s.blocks ∧ s3.mod.cause = c ∧ s3.mod.unitValid = u.isSome ∧
        s3.mod.unitKind = (u.map RepairUnit.kind).getD 0 ∧ s3.mod.unit = (u.map RepairUnit.unit).getD 0 := by
      obtain ⟨q, h2⟩ := lineFills_frame all s2
      obtain ⟨n, h⟩ := emits_frame evLinkDown (fun p => [p, 8]) up (all.foldl lineFill s2)
      have h : s3 = { all.foldl lineFill s2 with lonus := n } := h
      rw [h, h2]; exact ⟨a1.1, a1.2.1, a1.2.2, rfl, rfl, rfl, rfl⟩
    clear_value s3
    have aI : ∃ ports, sI = { s3 with ports := ports } ∧ ∀ p ∈ all, (Tab.get {} ports p).stage = .disabled ∧ (Tab.get {} ports p).txIdle = true := by
      obtain ⟨ports, i1, i2, i3⟩ := idleTx_spec all s4
      refine ⟨ports, i1, fun p hp => ⟨(i2 p).trans ?_, i3 p (.inl hp)⟩⟩
      rcases Tab.get_mem {} s4.ports p with e | e
      · rw [portOf, e]
      · obtain ⟨x, _, hx⟩ := List.mem_map.mp (List.mem_filter.mp e).1
        rw [portOf, ← (Prod.mk.inj hx).2]
    clear_value sI
    have a5 : s5.nv = s.nv ∧ s5.mod.trans = none ∧ s5.blocks = s.blocks ∧ s5.mod.cause = c ∧ s5.mod.unitValid = u.isSome ∧
        s5.mod.unitKind = (u.map RepairUnit.kind).getD 0 ∧ s5.mod.unit = (u.map RepairUnit.unit).getD 0 ∧
        (∀ p ∈ all, (Tab.get {} s5.ports p).stage = .disabled ∧ (Tab.get {} s5.ports p).txIdle = true) := by
      have h : ∃ r l n p, s5 = { sI with rings := r, lard := l, lonus := n, replay := p } := by
        simp only [s5]
        split
        · obtain ⟨r, l, n, p, h⟩ := endReplay_frame sI (some evReplayEnd) []; exact ⟨_, _, _, _, h⟩
        · exact ⟨_, _, _, _, rfl⟩
      obtain ⟨r, l, n, p, h⟩ := h
      obtain ⟨q, e, hq⟩ := aI
      rw [h, e]; exact ⟨a3.1, a3.2.1, a3.2.2.1, a3.2.2.2.1, a3.2.2.2.2.1, a3.2.2.2.2.2.1, a3.2.2.2.2.2.2, hq⟩
    clear_value s5
    have ports : ∀ p ∈ all, (portOf s6 p).stage = .disabled ∧ (portOf s6 p).txIdle = true := by
      intro p hp
      obtain ⟨g1, g2⟩ := a5.2.2.2.2.2.2.2 p hp
      obtain ⟨h1, h2⟩ := stopDataPlane_port s5 p g2
      exact ⟨h1.trans g1, h2⟩
    have a6 : s6.nv = s5.nv ∧ s6.mod = s5.mod ∧ s6.blocks = s5.blocks ∧ s6.lard.mem = [] ∧ s6.replay.running = false :=
      ⟨rfl, rfl, rfl, rfl, rfl⟩
    clear_value s6
    rw [← a6.1, ← a6.2.1, ← a6.2.2.1] at a5
    refine ⟨s8, rfl, rfl, a5.2.2.2.1, a5.2.2.2.2.1, rfl, rfl, a5.2.1, rfl, a6.2.2.2.2, a6.2.2.2.1, rfl, a5.1, a5.2.2.1, a5.2.2.2.2.2.1,
      a5.2.2.2.2.2.2.1, ports⟩

theorem mem_loadedBlocks (s : State) (b : Nat) (h : (blockOf s b).st ≠ .unloaded) : b ∈ loadedBlocks s := by
  rcases Tab.get_mem {} s.blocks b with e | e
  · exact absurd (by rw [blockOf, e]) h
  · simp only [loadedBlocks, List.mem_map, List.mem_filter]
    exact ⟨_, ⟨e, by simpa [blockOf] using h⟩, rfl⟩

/-- After entry to Hold every loaded block is Faulted. -/
theorem holdBlocks_st (s : State) (c b : Nat) :
    (blockOf (holdBlocks s c) b).st = if (blockOf s b).st = .unloaded ∧ b ∉ loadedBlocks s then .unloaded else .faulted := by
  have fold : ∀ (l : List Nat) (s : State), (blockOf (l.foldl (fun s b =>
      emitB (winRelease (updBlock s b fun x => { x with st := .faulted, close := none, pause := false }) b) b evBlockHold [c]) s) b).st =
      if b ∈ l then .faulted else (blockOf s b).st := by
    intro l
    induction l with
    | nil => intro s; simp
    | cons a l ih =>
      intro s
      rw [List.foldl_cons, ih]
      by_cases h : b ∈ l
      · simp [h]
      · by_cases hb : b = a
        · subst hb; simp [h, emitB, emitX, winRelease, winSettle, blockOf, updBlock]
        · simp [h, hb, emitB, emitX, winRelease, winSettle, blockOf, updBlock, Tab.get_upd_ne]
  rw [holdBlocks, fold]
  by_cases h : b ∈ loadedBlocks s
  · simp [h]
  · have e : (blockOf s b).st = .unloaded := by by_contra h'; exact h (mem_loadedBlocks s b h')
    simp [h, e]

-- Entry to Setup and Rest

/-- The completion of a STATE_SET changes the Lonus port and the E-HROK list alone. -/
theorem finishState_frame (s : State) (tag : Nat) (r : Reply) :
    ∃ l e, finishCmd s tag 0x0201 r = { s with lonus := l, ehrok := e } := by
  obtain ⟨nv, l, e, h, hn⟩ := finishCmd_frame s tag 0x0201 r
  have := hn (by decide)
  subst this
  exact ⟨l, e, h⟩

theorem epochSetup_frame (s : State) (w : Bool) : ∃ r e, epochSetup s w = { s with regs := r, epoch := e } ∧ (w = true → e = {}) := by
  cases w
  · exact ⟨_, _, rfl, by simp⟩
  · exact ⟨_, _, rfl, fun _ => rfl⟩

/-- Entry to Setup with good images: the state that Setup begins in, before the clock and the leak loops are judged. -/
theorem enterSetup_split (s : State) (t : Transition) : ∃ w,
    enterSetup s t true = (if s.mod.refBad then enterHold w 5 none
      else if s.cool.loop0 = 1 ∨ s.cool.loop1 = 1 then enterHold w 10 none
      else if s.cool.loop0 = 2 ∧ s.cool.loop1 = 2 then enterHold w 6 none else w) ∧
    w.mod = { s.mod with start := {}, marked := [], late := [], warm := t.warm, frozen := false, dpOff := false, st := .setup, trans := none } ∧
    w.ports = [] ∧ w.hub = [] ∧ w.lanes = [] ∧ w.coll = {} ∧ (t.warm = false → w.epoch = {}) ∧ w.nv = s.nv := by
  unfold enterSetup
  extract_lets s1 up s3 sE tl s4 ax s5 s6 s7 s8
  rw [if_neg (by simp)]
  obtain ⟨n, a3⟩ : ∃ n, s3 = { s1 with lonus := n } := emits_frame evLinkDown (fun p => [p, 7]) up s1
  have a4 : s4.cool = s.cool ∧ s4.mod = s1.mod ∧ s4.nv = s.nv ∧ s4.ports = [] ∧ s4.hub = [] ∧ s4.lanes = [] ∧ s4.coll = {} ∧
      (t.warm = false → s4.epoch = {}) := by
    obtain ⟨r, e, h4, h5⟩ := epochSetup_frame (freshLarder (freshPlane s3)) (!t.warm)
    have h4 : sE = _ := h4
    show sE.cool = s.cool ∧ sE.mod = s1.mod ∧ sE.nv = s.nv ∧ sE.ports = [] ∧ sE.hub = [] ∧ sE.lanes = [] ∧ sE.coll = {} ∧ (t.warm = false → sE.epoch = {})
    rw [h4, a3]
    exact ⟨rfl, rfl, rfl, rfl, rfl, rfl, rfl, fun h => h5 (by rw [h]; rfl)⟩
  clear_value s4
  have a5 : s5.cool = s.cool ∧ s5.mod = s1.mod ∧ s5.nv = s.nv ∧ s5.ports = [] ∧ s5.hub = [] ∧ s5.lanes = [] ∧ s5.coll = {} ∧
      (t.warm = false → s5.epoch = {}) := by
    simp only [s5]; split <;> exact a4
  clear_value s5
  obtain ⟨l, e, a7⟩ := finishState_frame s6 t.tag (rep .ok)
  obtain ⟨l8, e8, a8⟩ : ∃ l e, s8 = { s6 with lonus := l, ehrok := e } := by
    simp only [s8, s7]; rw [a7]; split <;> exact ⟨_, _, rfl⟩
  obtain ⟨a0, a5⟩ := a5
  have m8 : s8.mod = { s.mod with start := {}, marked := [], late := [], warm := t.warm, frozen := false, dpOff := false, st := .setup, trans := none } := by
    rw [a8]
    show { s5.mod with st := .setup, trans := none } = _
    rw [a5.1]
    rfl
  have c8 : s8.cool = s.cool := by rw [a8]; exact a0
  refine ⟨s8, ?_, m8, ?_⟩
  · rw [c8, show s8.mod.refBad = s.mod.refBad by rw [m8]]
  · rw [a8]
    exact ⟨a5.2.2.1, a5.2.2.2.1, a5.2.2.2.2.1, a5.2.2.2.2.2.1, a5.2.2.2.2.2.2, a5.2.1⟩

/-- What entry to Setup with good images, a reference clock and sound leak loops leaves. -/
theorem enterSetup_proj (s : State) (t : Transition) (h : s.mod.refBad = false) (hl : ¬ (s.cool.loop0 = 1 ∨ s.cool.loop1 = 1))
    (hf : ¬ (s.cool.loop0 = 2 ∧ s.cool.loop1 = 2)) :
    (enterSetup s t true).mod = { s.mod with start := {}, marked := [], late := [], warm := t.warm, frozen := false, dpOff := false, st := .setup, trans := none } ∧
    (enterSetup s t true).ports = [] ∧ (enterSetup s t true).hub = [] ∧ (enterSetup s t true).lanes = [] ∧
    (enterSetup s t true).coll = {} ∧ (t.warm = false → (enterSetup s t true).epoch = {}) ∧ (enterSetup s t true).nv = s.nv := by
  obtain ⟨w, e, h1⟩ := enterSetup_split s t
  rw [e, if_neg (by simp [h]), if_neg hl, if_neg hf]
  exact h1

/-- Entry to Setup with good images but no reference clock, a leak or no sound leak loop ends in Hold. -/
theorem enterSetup_hold (s : State) (t : Transition)
    (h : s.mod.refBad = true ∨ s.cool.loop0 = 1 ∨ s.cool.loop1 = 1 ∨ (s.cool.loop0 = 2 ∧ s.cool.loop1 = 2)) :
    (enterSetup s t true).mod.st = .hold ∧ (enterSetup s t true).mod.cause =
      if s.mod.refBad = true then 5 else if s.cool.loop0 = 1 ∨ s.cool.loop1 = 1 then 10 else 6 := by
  obtain ⟨w, e, h1, _⟩ := enterSetup_split s t
  have key : ∀ c, (enterHold w c none).mod.st = .hold ∧ (enterHold w c none).mod.cause = c := by
    intro c
    obtain ⟨v, e, a1, a2, _⟩ := enterHold_split w c none (by simp [h1]) (by simp [h1]) (by simp [h1])
    obtain ⟨_, _, _, _, f⟩ := holdBlocks_frame v c
    rw [e, f]; exact ⟨a1, a2⟩
  rw [e]
  by_cases r : s.mod.refBad = true
  · rw [if_pos r, if_pos r]; exact key 5
  · by_cases l : s.cool.loop0 = 1 ∨ s.cool.loop1 = 1
    · rw [if_neg r, if_neg r, if_pos l, if_pos l]; exact key 10
    · rw [if_neg r, if_neg r, if_neg l, if_neg l, if_pos (by tauto)]; exact key 6

/-- Loading the clusters' code again changes the code alone. -/
theorem clusterSyncs_frame (l : List Nat) (s : State) : ∃ c, l.foldl clusterSync s = { s with code := c } :=
  foldl_rel (R := fun s t => ∃ c, t = { s with code := c }) (fun s => ⟨s.code, rfl⟩)
    (by rintro a b c ⟨n, rfl⟩ ⟨m, rfl⟩; exact ⟨m, rfl⟩) clusterSync
    (fun s x => foldl_rel (R := fun s t => ∃ c, t = { s with code := c }) (fun s => ⟨s.code, rfl⟩)
      (by rintro a b c ⟨n, rfl⟩ ⟨m, rfl⟩; exact ⟨m, rfl⟩) _ (fun _ _ => ⟨_, rfl⟩) _ s) l s

/-- What entry to Rest leaves. -/
theorem enterRest_proj (s : State) (t : Transition) :
    (enterRest s t).mod.st = .rest ∧ (enterRest s t).mod.trans = none ∧ (enterRest s t).ports = [] ∧ (enterRest s t).hub = [] ∧
    (enterRest s t).thr = [] ∧ (enterRest s t).telem = {} := by
  unfold enterRest
  extract_lets dr fix e0 s1 s2 s3 sc cm s4 l0 s5 s6
  obtain ⟨l, e, h⟩ := finishState_frame (updMod s6 fun m => { m with st := .rest, trans := none }) t.tag (rep .ok)
  obtain ⟨c, h6⟩ : ∃ c, s6 = { s5 with code := c } := clusterSyncs_frame _ s5
  rw [h, h6]
  exact ⟨rfl, rfl, rfl, rfl, rfl, rfl⟩

end Sys2Proof.Machine
end

