-- ==== Sys2Proof/Machine/Pins.lean ====
section
/-! DEFINITION. The pins: what the outputs show in each state (18 R452), and where the signals stand on the connectors (19 R460, R464). -/

namespace Sys2Proof.Machine

/-- What an output pin does (18 R452): an open-drain output that is released is high-impedance at the pin. -/
inductive PinLevel where
  | highImpedance
  | released
  | asserted
  | driven
  deriving DecidableEq, Repr

/-- An open-drain output. -/
def openDrain (s : State) (on : Bool) : PinLevel := if railsGood s then (if on then .asserted else .released) else .highImpedance

/-- The four alert outputs (18, table "Output states"). -/
def pinAlertN (s : State) : PinLevel := openDrain s (alertN s)
def pinPwrAlertN (s : State) : PinLevel := openDrain s (pwrAlertN s)
def pinLeakN (s : State) : PinLevel := openDrain s (leakN s)
def pinHoldN (s : State) : PinLevel := openDrain s (holdN s)

/-- The I3C data line: a target from Standby onward (14 R371). -/
def pinI3cSda (s : State) : PinLevel := if alive s then .driven else .highImpedance

/-- A lane's transmitter: undriven outside the powered states, in electrical idle in Hold, under 12 R308 and R313 between. -/
def pinLaneTx (s : State) (port : Nat) : PinLevel :=
  match s.mod.st with
  | .off | .standby | .rest => .highImpedance
  | .hold => .released
  | .setup | .ready | .run | .drain => if (portOf s port).txIdle then .released else .driven

/-- The Lonus transmitter is lit from Standby on (18, table "Output states"). -/
def pinLonusTx (s : State) : Bool := alive s

/-- SEATED_N is tied to ground inside the module (19 R458). -/
def pinSeatedN : PinLevel := .asserted

/-- The contact of a lane's pair (19 R460): its field, its row (A is 0) and its column. -/
def fieldPin (lane : Nat) (transmit positive : Bool) : Nat × Nat × Nat :=
  let j := lane % 32
  let row := (if j < 16 then 0 else 4) + (if transmit then 0 else 2) + (if positive then 0 else 1)
  (lane / 32, row, j % 16 + 1)

/-- The signals of sideband pins A1 to A20 and B1 to B20 (19, table "Sideband pins"). -/
def sidebandA : List String :=
  ["GND", "REFCLK_P", "REFCLK_N", "GND", "I3C_SCL", "I3C_SDA", "GND", "ALERT_N", "PWR_ALERT_N", "LEAK_N"] ++
  ["HOLD_N", "GND", "RESET_N", "SHED_N", "PRESENCE_N", "GND", "SEAL_A_OUT", "SEAL_A_IN", "SEAL_B_OUT", "SEAL_B_IN"]
def sidebandB : List String :=
  ["GND", "PLANE_ID0", "PLANE_ID1", "PLANE_ID2", "PLANE_ID3", "GND", "RACK_POS0", "RACK_POS1", "RACK_POS2", "RACK_POS3"] ++
  ["RACK_POS4", "RACK_POS5", "GND", "LEAK0_A", "LEAK0_B", "LEAK1_A", "LEAK1_B", "GND", "GND", "SEATED_N"]

end Sys2Proof.Machine
end

