-- ==== Sys2Proof/Tests/Slice0.lean ====
section
/-! SUPPORT. Tests: ill-formed commands are refused, single commands on small states give what the specification gives, and for every
statement with hypotheses a state and operands that meet them, clause by clause. -/

namespace Sys2Proof.Tests

open Sys2Proof Sys2Proof.Machine

set_option maxRecDepth 40000
set_option exponentiation.threshold 400

/-- A state in which the module stands in `st` with a session open, the presence window open and the seals closed. -/
def tIn (st : ModState) : State :=
  { State.reset with
    mod := { st := st }, mgmt := { opened := true, debug := true }, lonus := { lineUp := true, opened := true, session := 1, rxRate := 25 } }

/-- The thread context the tests use. -/
def tT : ThreadRef := ⟨0, 0, 0, 0⟩

/-- A module in Run whose block 0, the box of the accelerators 0 and 1, is Active, with image 5 of block 0 loaded and a thread of it live
whose registers hold `x`. -/
def tRun (x : Tab U64) : State :=
  { tIn .run with
    blocks := [(0, { st := .active, dx := 1, dy := 1, dz := 2, slotCnt := 64 })],
    img := [(5, { st := 1, owner := 0, item := 1, clusters := [0], entries := [(0x1000, 1)], depth := 4, waitUs := 1000 })],
    clusters := [(0, some 5)],
    thr := [(thrKey tT, { live := true, image := 5, x := x })] }

theorem witness_IdentityReadsAnswerAndChangeNothing :
    (let s := tIn .ready
     Runs s 3 0x0101 ∧ Runs s 3 0x0102 ∧ Runs s 3 0x0103 [(32, ofLe (List.replicate 32 5))] ∧
     (Runs s 3 0x0104 ∧ slotMeasures (currentSlot s) ++ slotMeasures (nextSlot s) ≠ []) ∧
     Runs s 3 0x0A04 ∧ Runs s 3 0x0A10 ∧ Runs s 3 0x0A11 ∧ Runs s 3 0x0231) ∧
    (let s := tRun []
     Runs s 3 0x0C12 [(2, 5), (2, 0), (2, 0), (2, 0), (2, 0)] ∧ s.mgmt.debug = true ∧ imageThread s 5 tT = true) := by decide

/-- The smallest plan the tests store: plan state 1 for the accelerator 0 on port 0 and 1 on port 1. -/
def tPlan : Plan :=
  { plane := 0, rackPos := 0, widths := List.replicate 16 1, planId := 1,
    entries := [{ epa := 0, state := 1 }, { epa := 1, state := 1 }] ++ List.replicate 254 {} }

/-- The outstanding command of tag 3 with opcode `op` and parameters `p`, its bulk complete. -/
def tCmd (op : Nat) (p : List Byte) (bulk : List Byte := []) : Cmd :=
  { tag := 3, session := 1, op := op, word := bulk.length, payload := p, bulk := bulk, bulkDone := true }

theorem witness_StatusReadsAnswerTheirRegisters :
    (let s := { tIn .ready with nv := { State.reset.nv with plan := some tPlan }, rings := [(15, { st := 2 })] }
     Runs s 3 0x0202 ∧ Runs s 3 0x0902 ∧ Runs s 3 0x0906 ∧ Runs s 3 0x0907 ∧ Runs s 3 0x0503 ∧ Runs s 3 0x0305) ∧
    (let s := { tIn .ready with nv := { State.reset.nv with plan := some tPlan }, rings := [(15, { st := 2 })] }
     Runs s 3 0x0406 [(2, 127)] ∧ Runs s 3 0x0412 [(2, 1023)] ∧ Runs s 3 0x0604 [(2, 1023)] ∧
     (Runs s 3 0x0701 [(2, 127)] ∧ portExists s 127 = true) ∧ (Runs s 3 0x0732 ∧ s.nv.plan = some tPlan) ∧
     (Runs s 3 0x0B03 [(2, 15)] ∧ (ringOf s 15).st ≠ 0 ∧ (ringOf s 15).capture = false) ∧ Runs s 3 0x0B13) ∧
    (let s := { tIn .ready with lonus := { lineUp := true, opened := true, session := 1, outstanding := [tCmd 0x0406 [127, 0]] } }
     Runs s 3 0x0406 [(2, 127)]) := ⟨by decide, by decide, by decide⟩

theorem witness_RegisterLarderAndRingReads :
    (let s := tIn .ready
     regReads s 0x50000010 0 (List.range 1) = .ok [0x0A100608]) ∧
    (let s := tIn .ready
     Runs s 3 0x0220 [(4, 0x50000010), (2, 1), (2, 0)] ∧ (Runs s 3 0x0501 [(8, 0), (4, 64)] ∧ 64 ≤ ringsBase s ∧ badIn s 0 64 = none)) ∧
    (let s := { tIn .ready with rings := [(0, { st := 2, mib := 1 }), (1, { st := 2, mib := 1, capture := true })] }
     (Runs s 3 0x0B04 [(2, 0), (8, 0), (4, 64)] ∧ (ringOf s 0).st = 2 ∧ (ringOf s 0).capture = false ∧ 0 + 64 ≤ (ringOf s 0).mib * mib ∧
      badIn s ((ringOf s 0).base + 0) 64 = none) ∧
     (Runs s 3 0x0822 [(2, 1), (8, 0), (4, 64)] ∧ (ringOf s 1).st = 2 ∧ (ringOf s 1).capture = true ∧ 0 + 64 ≤ (ringOf s 1).mib * mib)) :=
  ⟨rfl, by decide, by decide⟩

theorem witness_OwnerAndFirmwareCommandsTakeEffect :
    (let s := tIn .standby
     let r : List Byte := 1 :: List.replicate 255 0
     Runs s 3 0x0110 ∧ cmdOf s 3 = none ∧ r.length = 256 ∧ getLe r 0 2 = 1 ∧ nameOk (slice r 68 64) = true ∧ (∀ b ∈ slice r 2 2 ++ slice r 132 124, b = 0) ∧ s.nv.owner = none) ∧
    (let s := { tIn .standby with nv := { State.reset.nv with owner := some [] } }
     Runs s 3 0x0111 ∧ s.nv.owner = some []) ∧
    (let s := tIn .ready
     Runs s 3 0x0A01 ∧ bulkOf s 3 [1] ≠ [] ∧ bulkOf s 3 [] = [] ∧ Runs s 3 0x0A03) ∧
    (let s := { tIn .ready with nv := { State.reset.nv with f1 := { state := .staged } } }
     Runs s 3 0x0A02 ∧ (nextSlot s).state = .staged) ∧
    (let s := { tIn .ready with nv := { State.reset.nv with f1 := { state := .writing } } }
     (nextSlot s).state = .writing) := by decide

theorem witness_DebugCommandsTakeEffect :
    (let s := tIn .ready
     Runs s 3 0x0C01 ∧ Runs s 3 0x0C02 ∧ s.mgmt.debug = true) ∧
    (let s := { tIn .ready with mgmt := {} }
     Runs s 3 0x0C02 ∧ s.mgmt.debug = false) ∧
    (let s := tRun []
     Runs s 3 0x0C10 [(2, 5)] ∧ s.mgmt.debug = true ∧ (imgOf s 5).st ≠ 0) ∧
    (let s := { tRun [] with img := [(5, { st := 2 })] }
     Runs s 3 0x0C11 [(2, 5)] ∧ (imgOf s 5).st = 2) ∧
    (let s := { tRun [] with thr := [(thrKey tT, { live := true, image := 5, halted := true })] }
     Runs s 3 0x0C13 [(2, 5), (2, 0), (2, 0), (2, 0), (2, 0)] ∧ s.mgmt.debug = true ∧ imageThread s 5 tT = true ∧ (thrOf s tT).halted = true) := by decide

theorem witness_PresenceAndSealsTakeEffect :
    (let s := { tIn .hold with mgmt := {} }
     s.mod.st ≠ .off ∧ s.mgmt.opened = false ∧ loopOpen s false = false ∧ loopOpen s true = false) ∧
    (let s := { tIn .hold with mgmt := { opened := true, sealA := true, sealB := true } }
     s.mod.st ≠ .off ∧ s.mgmt.opened = true ∧ loopOpen s false = true ∧ loopOpen s true = true) ∧
    (let s := { tIn .hold with mgmt := { opened := true, jumper := true } }
     s.mgmt.opened = true ∧ s.mgmt.jumper = true) ∧
    (let s := { tIn .hold with now := 300000000000, mgmt := { opened := true, closeAt := 300000000000 } }
     s.mgmt.opened = true ∧ s.mgmt.jumper = false ∧ s.mgmt.closeAt ≤ s.now) ∧
    Runs (tIn .standby) 3 0x0A12 := by decide

theorem witness_SessionsAndHeartbeatTakeEffect :
    (let s := { tIn .ready with lonus := { lineUp := true, session := 65535 } }
     Runs s 3 0x0240 [(2, 25)] ∧ s.lonus.opened = false) ∧
    (let s := { tIn .ready with lonus := { lineUp := true, opened := true, session := 1, closing := some 3 } }
     Runs s 3 0x0241 ∧ s.lonus.opened = true ∧ s.lonus.closing = some 3) ∧
    (let s := tIn .ready
     Runs s 3 0x0905 [(4, 7)] ∧ s.lonus.orphan = false ∧ s.mod.st ≠ .off) ∧
    (let s := { tIn .ready with lonus := { orphan := true } }
     Runs s 3 0x0905 [(4, 7)] ∧ s.lonus.orphan = true) ∧
    ((tIn .ready).nv.stop = none ∧
     ({ tIn .ready with nv := { State.reset.nv with stop := some { cause := 3, axle := 7, state := 5 } } } : State).nv.stop =
       some { cause := 3, axle := 7, state := 5 }) := by decide

/-- A host frame of type `ty` and opcode `op` in session 1 with tag 3, its CRC-64 as the host computes it. -/
def tFrame (ty : Byte) (op : U16) (word : U64) (last : Bool) (payload : List Byte) : Frame :=
  let f : Frame := { ftype := ty, resend := false, last := last, gap := false, flagsRsvd := 0, session := 1, tag := 3, code := op, status := 0,
                     rsvd := 0, length := BitVec.ofNat 32 payload.length, word := word, axle := 0, payload := payload, trailer := 0 }
  { f with trailer := BitVec.ofNat 64 (frameCrc f) }

/-- An outstanding LARDER_WRITE whose second and last 8 bytes of bulk are due. -/
def tBulk : Cmd := { tag := 3, session := 1, op := 0x0502, word := 16, payload := [], bulk := List.replicate 8 7, bulkDone := false }

theorem witness_HostFramesTakeEffect :
    (let s := tIn .off
     s.mod.st = .off ∨ s.lonus.lineUp = false) ∧
    (let s := tIn .ready
     let f := { tFrame 1 0x0202 0 false [] with trailer := 0 }
     s.mod.st ≠ .off ∧ s.lonus.lineUp = true ∧ frameOk s f = false ∧ s.mod.refBad = false) ∧
    (let s := tIn .ready
     let f := tFrame 1 0x0502 (2 ^ 28) false [0, 0, 0, 0, 0, 0, 0, 0]
     s.mod.st ≠ .off ∧ s.lonus.lineUp = true ∧ frameOk s f = true ∧ f.ftype = 1 ∧ f.resend = false ∧ frameCmd s f = none ∧
     s.lonus.outstanding.length < 64 ∧ arriveCheck s f.code.toNat = none ∧ f.word.toNat ≤ 2 ^ 28) ∧
    (let s := { tIn .ready with now := 1000000000, lonus := { lineUp := true, opened := true, session := 1, outstanding := [tBulk] } }
     let f := tFrame 5 0x0502 8 true (List.replicate 8 9)
     s.mod.st ≠ .off ∧ s.lonus.lineUp = true ∧ frameOk s f = true ∧ f.ftype = 5 ∧ frameCmd s f = some tBulk ∧ tBulk.bulkDone = false ∧
     tBulk.op ≠ 0x0A01 ∧ s.now ≤ tBulk.lastAt + 1000000000 ∧ f.word.toNat = tBulk.bulk.length ∧ f.code.toNat = tBulk.op ∧
     tBulk.bulk.length + f.payload.length ≤ tBulk.word ∧ f.last = decide (tBulk.bulk.length + f.payload.length = tBulk.word)) ∧
    (let s := { tIn .ready with now := 1000000001, lonus := { lineUp := true, opened := true, session := 1, outstanding := [tBulk] } }
     frameCmd s (tFrame 5 0x0502 8 true []) = some tBulk ∧ cmdOf s 3 = some tBulk ∧ tBulk.bulkDone = false ∧ tBulk.lastAt + 1000000000 < s.now) := by decide

/-- A response that waits to be sent. -/
def tResp (bulk : List Byte) : Response := { tag := 3, op := 0x0202, status := 0, payload := [], bulk := bulk }

theorem witness_OutputFramesLeaveInOrder :
    (let s := { tIn .ready with lonus := { lineUp := true, opened := true, respQ := [tResp []] } }
     s.mod.st ≠ .off ∧ s.lonus.lineUp = true ∧ s.lonus.opened = true ∧
     (s.lonus.respQ.find? fun x => !(s.lonus.bulkQ.any fun b => decide (b.1 = x.tag))) = some (tResp [])) ∧
    (let s := { tIn .ready with lonus := { lineUp := true } }
     s.mod.st = .off ∨ s.lonus.lineUp = false ∨ (s.lonus.opened = false ∧ s.lonus.respQ = [])) ∧
    (let s := { tIn .ready with lonus := { lineUp := true, respQ := [tResp []] } }
     s.mod.st ≠ .off ∧ s.lonus.lineUp = true ∧ (s.lonus.opened = true ∨ s.lonus.respQ ≠ [])) ∧
    ((∀ e ∈ [((0, 10000) : Nat × Nat)], e.1 ≤ 0) ∧ 10000 ≤ 10000) ∧
    (let s := { tIn .ready with lonus := { respQ := [tResp [1]], bulkQ := [(3, 0x0202, 0, [1])], events := [{ code := 0x0241, seq := 0, block := 0xFFFF, items := [] }] } }
     (s.lonus.respQ.find? fun x => !(s.lonus.bulkQ.any fun b => decide (b.1 = x.tag))) = none ∧ s.lonus.events = [{ code := 0x0241, seq := 0, block := 0xFFFF, items := [] }]) ∧
    (let s := { tIn .ready with lonus := { respQ := [tResp [1]], bulkQ := [(3, 0x0202, 0, [1])] } }
     (s.lonus.respQ.find? fun x => !(s.lonus.bulkQ.any fun b => decide (b.1 = x.tag))) = none ∧ s.lonus.events = [] ∧
     s.lonus.bulkQ = [(3, 0x0202, 0, [1])]) ∧
    (let s := { tIn .ready with lonus := { telemQ := [{ code := 1, seq := 0, gap := false, payload := [] }] } }
     s.lonus.respQ = [] ∧ s.lonus.events = [] ∧ s.lonus.bulkQ = [] ∧ s.lonus.telemQ = [{ code := 1, seq := 0, gap := false, payload := [] }]) ∧
    (let s := { tIn .ready with lonus := { mirrorQ := [{ code := 1, seq := 0, gap := false, payload := [] }] } }
     s.lonus.respQ = [] ∧ s.lonus.events = [] ∧ s.lonus.bulkQ = [] ∧ s.lonus.telemQ = [] ∧ s.lonus.mirrorQ = [{ code := 1, seq := 0, gap := false, payload := [] }]) := by decide

theorem witness_SidebandCommandsTakeEffect :
    (let s := tIn .standby
     s.mod.st ≠ .off ∧ s.i3c.dyn = none ∧ 900 ≤ ofLe [0x84, 0x03] ∧ ofLe [0x28, 0x0A] ≤ sustained s ∧ sustained s ≤ ofLe [0x28, 0x0A]) ∧
    (let s := { tIn .standby with i3c := { dyn := some 127 } }
     s.mod.st ≠ .off ∧ s.i3c.dyn ≠ none) ∧ 0 < 24 := by decide

theorem witness_PowerSettingsAndInputTakeEffect :
    (let s := tIn .run
     (Runs s 3 0x0901 [(2, 2600)] ∧ 2600 ≤ sustained s) ∧ Runs s 3 0x0903 [(2, 25)] ∧ Runs s 3 0x0904 [(2, 100)] ∧ s.mod.st ≠ .off ∧ s.mod.bootWait = none) ∧
    (let s := { tIn .run with pwr := { draw := 2601 } }
     s.mod.st ≠ .off ∧ (capNow s).1 < s.pwr.draw) ∧
    (let s := { State.reset with mod := { bootWait := some default } }
     s.mod.bootWait = some default ∧ 4399 < 4400) := by decide

theorem witness_ClockCoolantAndLeakRowsTakeEffect :
    (let s := tIn .run
     dpRuns s = true ∧ (hubOf s 3).droopOn = false ∧ steady s = false ∧ s.mod.st ≠ .off ∧ diePresent s 39 = true ∧ dpPowered s = true ∧
     s.cool.loop1 ≠ 2 ∧ (450 < (451 : Int) ∨ 250 < (300 : Int) - 451) ∧ (299 : Int) < 300 ∧
     ctrlRuns s = true ∧ railsGood s = true) ∧
    ctrlRuns (tIn .off) = false ∧
    railsGood { State.reset with mod := { bootWait := some default } } = true ∧
    (let s := { tIn .run with nv := { State.reset.nv with steady := true } }
     steady s = true) ∧
    (let s := { tIn .run with cool := { loop1 := 2 } }
     s.mod.st ≠ .off ∧ s.cool.loop1 = 2) := by decide

theorem witness_ThermalAndCoreRowsTakeEffect :
    (let s := { tIn .run with therm := { hot := [(0, 2)] } }
     diePresent s 0 = true ∧ s.therm.hot = [(0, 2)]) ∧
    (let s := tIn .run
     s.mod.st ≠ .off ∧ diePresent s 39 = true ∧ ctrlRuns s = true ∧ s.mod.bootRom = false ∧ s.ehrok.inB = false ∧ 2 ≤ s.ehrok.bState ∧
     s.ehrok.stopsA = [] ∧ s.lonus.outstanding = []) ∧
    ctrlRuns (tIn .off) = false ∧
    (let s := { tIn .run with ehrok := { bState := 2, inB := false } }
     let x : Sensed := { (default : Sensed) with flow := 100 }
     2 ≤ s.ehrok.bState ∧ s.ehrok.inB = false ∧ x.flow ≠ s.cool.flow) ∧
    (let s := tIn .run
     let u := writeCopy s true
     lastLoops u = some (loopCopy s)) ∧
    (let s := { tIn .run with now := 60000000000, cool := { flow := 100, stuck := true } }
     (readSensors s { (default : Sensed) with flow := 100, draw := 301 }).cool.stuck = true) ∧
    (let s := { tIn .run with ehrok := { bState := 1, aState := 3 } }
     s.mod.st ≠ .off ∧ s.mod.bootRom = false ∧ s.ehrok.inB = false ∧ s.ehrok.bState < 2 ∧ s.ehrok.aState = 3) ∧
    (let s := { tIn .run with ehrok := { inB := true, aState := 0, bState := 3 } }
     s.mod.st ≠ .off ∧ s.ehrok.inB = true ∧ s.ehrok.aState < 2 ∧ s.ehrok.single = false) ∧
    (let s := { tIn .run with ehrok := { bState := 1 } }
     s.mod.st ≠ .off ∧ s.ehrok.bState < 2 ∧ s.ehrok.single = false) ∧
    (let s := { tIn .run with ehrok := { inB := true, aState := 3, sync := 16 } }
     s.ehrok.inB = true ∧ s.ehrok.aState = 3 ∧ 16 ≤ s.ehrok.sync ∧ s.lonus.outstanding = []) := by decide

theorem witness_StateCommandsTakeEffect :
    (let s := tIn .standby
     Runs s 3 0x0201 [(2, 3)] ∧ cameLate s 3 = false ∧ s.mod.trans = none ∧ s.mod.st = .standby ∧ s.mod.strapBad = false ∧ s.cool.loop0 ≠ 1 ∧ s.cool.loop1 ≠ 1) ∧
    (cameLate (tIn .ready) 3 = false ∧ (tIn .ready).mod.trans = none ∧ ((tIn .ready).mod.st = .ready ∨ (tIn .ready).mod.st = .rest)) ∧
    (cameLate (tIn .rest) 3 = false ∧ (tIn .rest).mod.trans = none ∧ (tIn .rest).mod.st = .rest) ∧
    (let s := { tIn .hold with mod := { st := .hold, cause := 3 } }
     cameLate s 3 = false ∧ s.mod.trans = none ∧ s.mod.st = .hold ∧ (supervised s.mod.cause = false ∨ coolEnough s = true)) ∧
    (cameLate (tIn .run) 3 = false ∧ (tIn .run).mod.trans = none ∧ (tIn .run).mod.st = .run) ∧
    (let s := { tIn .ready with mod := { st := .ready, trans := some { target := .setup, warm := true, tag := 4 } } }
     s.mod.trans ≠ none) ∧
    (let s := { tIn .setup with harn := [(0, { loaded := true })] }
     Runs s 3 0x0210 [(2, 1)] ∧ (∀ h ∈ s.harn, ¬ (h.2.loaded = true ∧ harnFast s h.1 = true))) ∧
    (let s := { tIn .standby with nv := { State.reset.nv with fieldMap := [{ unit := ⟨1, 1⟩, source := 1 }] } }
     Runs s 3 0x0230 [(2, 1), (4, 2)] ∧ unitOk s ⟨1, 2⟩ = true ∧ RepairUnit.mk 1 2 ∉ s.fixed.factoryMap ∧
     RepairUnit.mk 1 2 ∉ s.nv.fieldMap.map FieldMark.unit ∧ s.nv.fieldMap.length < 256) ∧
    ({ tIn .rest with mod := { st := .rest, refBad := true } } : State).mod.refBad = true := by decide

/-- Whether a register write is accepted. -/
def tAccepts (r : Except Status State) : Bool := match r with | .ok _ => true | .error _ => false

theorem witness_RegisterWritesAreAppliedInOrder :
    (let s := tIn .ready
     Runs s 3 0x0221 ([(4, 0x50000010), (2, 1)] ++ [(0x28040404 : Word)].map fun w => (4, w.toNat)) ∧ Runs s 3 0x0222 ∧ winAllOk s = true ∧
     Runs s 3 0x0221 [(4, 0x50000010), (2, 1), (4, 0x28040404)] ∧ Runs s 3 0x0221 [(4, 0x50034000 + 4 * 1023), (2, 1), (4, 0)] ∧
     Runs s 3 0x0221 [(4, 0x40000110), (2, 1), (4, 1)] ∧
     tAccepts (regWrite s 0x50000010 0x28040404) = true ∧ tAccepts (regWrite s (0x50034000 + 4 * 1023) 0) = true ∧
     tAccepts (regWrite s 0x40000110 1) = true) ∧
    (let s := { tIn .ready with blocks := [(127, { st := .loaded, dx := 1, dy := 1, dz := 1 })] }
     Runs s 3 0x0221 [(4, 0x50006008 + 0x10 * 127), (2, 1), (4, 0)] ∧ tAccepts (regWrite s (0x50006008 + 0x10 * 127) 0) = true) ∧
    (let s := tIn .setup
     Runs s 3 0x0221 [(4, 0x30007000 + 0x100000 * 3), (2, 1), (4, 0x1111)] ∧ tAccepts (regWrite s (0x30007000 + 0x100000 * 3) 0x1111) = true ∧
     Runs s 3 0x0221 [(4, 0x40000200), (2, 1), (4, 0x10080840)] ∧ Runs s 3 0x0221 [(4, 0x40000204), (2, 1), (4, 8)] ∧
     Runs s 3 0x0221 [(4, 0x50040000), (2, 1), (4, 0)] ∧
     tAccepts (regWrite s 0x40000200 0x10080840) = true ∧ tAccepts (regWrite s 0x40000204 8) = true ∧
     tAccepts (regWrite s 0x50040000 0) = true) ∧
    (let s := { tIn .ready with held := [(0x50002000, some 0x010003FF), (0x50002008, some 1)] }
     Runs s 3 0x0222 ∧ winAllOk s = false) :=
  ⟨by decide, by decide, by decide, by decide⟩

/-- Whether an address has no register. -/
def tErr {α : Type} (r : Except Status α) : Bool := match r with | .ok _ => false | .error _ => true

theorem witness_EndToEndControlWrite :
    (let w := 0x281F0F40
     4 ≤ bits w 0 8 ∧ bits w 0 8 ≤ 64 ∧ 1 ≤ bits w 8 4 ∧ bits w 8 4 ≤ 15 ∧ 1 ≤ bits w 16 5 ∧ bits w 16 5 ≤ 31 ∧
     1 ≤ bits w 24 8 ∧ bits w 24 8 ≤ 40 ∧ w < 2 ^ 32 ∧ w &&& 0xFF1F0FFF = w) ∧
    (let w := 0x291F0F40
     Runs (tIn .ready) 3 0x0221 [(4, 0x50000010), (2, 1), (4, w)] ∧ w &&& 0xFF1F0FFF = w ∧ 40 < bits w 24 8) ∧
    tErr (regOf 0) = true ∧ (∃ r, regOf 0x50000000 = .ok r ∧ regMask r = 0 ∧ dieLevel 0x50000000 = false) :=
  ⟨by decide, by decide, by decide, _, rfl, by decide, by decide⟩

/-- Power-up inputs with stable straps of plane 9. -/
def tUp (ref : Bool) : PowerUpInput :=
  { (default : PowerUpInput) with straps := [(9, 5), (9, 5)], refclk := ref }

theorem witness_PowerResetAndClockTakeEffect :
    (let s := State.reset
     s.mod.st = .off ∧ s.mod.resetLow = false ∧ s.mod.bootWait = none ∧ (tUp true).refclk = true ∧ (tUp false).refclk = false ∧ s.mod.refBad = false) ∧
    (let s := tIn .run
     s.mod.st ≠ .off ∧ dpRuns s = true) ∧
    (let c : Cmd := { tCmd 0x0201 [3, 0] with session := 1 }
     let s := { tIn .ready with
       mod := { st := .ready, trans := some { target := .setup, warm := true, tag := 3 } },
       lonus := { lineUp := true, opened := true, session := 1, outstanding := [c] } }
     cmdOf s 3 = some c ∧ c.op = 0x0201 ∧ c.session = s.lonus.session ∧ s.lonus.respQ = [] ∧ (tIn .ready).mod.trans = none) ∧
    (let s := { State.reset with mod := { resetLow := true } }
     s.mod.st = .off ∧ s.mod.resetLow = true ∧ s.mod.bootWait = none ∧ (tUp true).refclk = true ∧ s.mod.refBad = false) ∧
    ((tIn .standby).mod.st = .standby ∨ (tIn .standby).mod.st = .rest) ∧
    (let s := { State.reset with mod := { refBad := true, bootWait := some (tUp false) } }
     s.mod.st = .off ∧ s.mod.bootWait = some (tUp false)) := by decide

theorem witness_HoldEntryTakesEffect :
    (2 ∈ ({ tIn .run with pwr := { causes := [2] } } : State).pwr.causes) ∧ (3 ∉ (tIn .run).pwr.causes ∧ (tIn .run).lonus.events.length < 4096) ∧
    (let s := { tIn .run with pwr := { mgrCap := 1000, trayCap := 2000 }, lonus := { orphan := true } }
     s.pwr.mgrCap ≠ 0 ∧ s.pwr.trayCap ≠ 0 ∧ s.lonus.orphan = true) ∧
    (let s := { tIn .run with pwr := { shed := true, dieLim := 1, ratio := 4 } }
     s.pwr.shed = true ∧ s.pwr.causes = [] ∧ s.pwr.dieLim ≤ shedLimit s ∧ s.pwr.ratio ≤ max 4 (shedLimit s)) ∧
    (let s := { tIn .run with pwr := { shed := true, dieLim := 16 } }
     s.pwr.shed = true ∧ (s.pwr.causes ≠ [] ∨ shedLimit s < s.pwr.dieLim ∨ max 4 (shedLimit s) < s.pwr.ratio)) ∧
    0 ∈ allPorts (tIn .rest) ∧
    ((tIn .hold).mod.st = .off ∨ (tIn .hold).mod.st = .standby ∨ (tIn .hold).mod.st = .hold) ∧
    ((tIn .rest).mod.st ≠ .off ∧ (tIn .rest).mod.st ≠ .standby ∧ (tIn .rest).mod.st ≠ .hold) := by decide

theorem witness_TransitionRowsTakeEffect :
    (let t : Transition := { target := .setup, warm := false, tag := 3 }
     let s := { tIn .standby with mod := { st := .standby, trans := some t } }
     s.mod.trans = some t ∧ t.target = .setup ∧ s.mod.refBad = false ∧ t.warm = false ∧ s.cool.loop0 ≠ 1 ∧ s.cool.loop1 ≠ 1 ∧
     ¬ (s.cool.loop0 = 2 ∧ s.cool.loop1 = 2)) ∧
    (let s := { tIn .standby with cool := { loop0 := 2, loop1 := 2 } }
     s.mod.refBad = true ∨ s.cool.loop0 = 1 ∨ s.cool.loop1 = 1 ∨ (s.cool.loop0 = 2 ∧ s.cool.loop1 = 2)) ∧
    (let s := tIn .setup
     s.mod.st = .setup ∧ s.mod.start.checkDone = false ∧ shortUnit s = none) ∧
    (let s := { tIn .setup with nv := { State.reset.nv with fieldMap := (List.range 3).map fun k => { unit := ⟨0, k⟩, source := 1 } } }
     (shortUnit s).isSome = true) ∧
    (let t : Transition := { target := .rest, warm := false, tag := 3 }
     let s := { tIn .ready with mod := { st := .ready, trans := some t } }
     s.mod.trans = some t ∧ t.target = .rest) ∧
    (tIn .drain).mod.st = .drain := by decide

/-- Port 0 leads to accelerator 0 and port 1 to accelerator 1, both Up and verified; block 0 holds the two and stands in `x`. -/
def tNet (st : ModState) (x : BlockState) : State :=
  { tIn st with
    nv := { State.reset.nv with plan := some tPlan },
    ports := [(0, { stage := .up, check := 1, minor := 2 }), (1, { stage := .up, check := 1, minor := 2 })],
    blocks := [(0, { st := x, dx := 1, dy := 1, dz := 2, slotCnt := 64 })] }

/-- A block of accelerators 0 and 1 with the last count slot. -/
def tJob : JobParams :=
  { block := 127, x0 := 0, y0 := 0, z0 := 0, dx := 1, dy := 1, dz := 2, seed := 0, firstStep := 2 ^ 48 - 1, cslotBase := 16383, cslotCount := 1 }

/-- A state whose only loaded block is block 0 has its blocks apart. -/
theorem tApart (s : State) (h : ∀ a, a < 128 → (blockOf s a).st ≠ .unloaded → a = 0) : BlocksApart s :=
  fun a b ha hb n ua ub => absurd ((h a ha ua).trans (h b hb ub).symm) n

theorem witness_JobCommandsTakeEffect :
    (BlocksApart { tNet .ready .unloaded with blocks := [] } ∧ BlocksApart (tNet .run .paused) ∧ (blockOf (tNet .run .paused) 0).st ≠ .unloaded ∧ (127 : Nat) ≠ 0) ∧
    (let s := { tNet .ready .unloaded with blocks := [] }
     Runs s 3 0x0401 (jobItems tJob) ∧ jobRanges tJob = true ∧ (blockOf s tJob.block).st = .unloaded ∧ boxMeets s (blockFor tJob) = false ∧
     slotsMeet s (blockFor tJob) = false ∧ (membersOf (blockFor tJob)).all (memberReady s) = true) ∧
    (let s := tNet .ready .loaded
     Runs s 3 0x0402 [(2, 0)] ∧ (blockOf s 0).st = .loaded ∧ s.mod.trans = none ∧ 900 ≤ (capNow s).1) ∧
    (let s := tNet .run .paused
     Runs s 3 0x0404 [(2, 0)] ∧ Runs s 3 0x0405 [(2, 0)] ∧ (blockOf s 0).st = .paused ∧ s.mod.trans = none ∧ 900 ≤ (capNow s).1) ∧
    (let s := tNet .run .active
     Runs s 3 0x0403 [(2, 0)] ∧ (blockOf s 0).st = .active) ∧
    (let s := tNet .drain .active
     Runs s 3 0x0420 [(2, 0), (8, 2 ^ 48 - 1)] ∧ (blockOf s 0).st = .active ∧ (blockOf s 0).step ≤ 2 ^ 48 - 1 ∧ bit (stepSrc s 0) 0 = false) :=
  ⟨⟨tApart _ (by decide), tApart _ (by decide), by decide, by decide⟩, by decide⟩

/-- A read request of the larder in two parts, the first at the front of die 0's queue. -/
def tReq (k : LKind) : LReq :=
  { id := 1, kind := k, pkt := default, port := 0, thread := none, block := 0, win := 0, addr := 0, len := 64, data := List.replicate 64 1, left := 2 }

theorem witness_LarderRowsTakeEffect :
    (let s := tIn .ready
     Runs s 3 0x0502 [(8, 0)] ∧ 0 + 8 ≤ ringsBase s ∧ (∀ g ∈ activeSpans s, 0 + 8 ≤ g.1 ∨ g.1 + g.2 ≤ 0)) ∧
    (let p : LPart := { req := 1, addr := 0, off := 0, len := 32 }
     let s := { tIn .run with lard := { State.reset.lard with reqs := [tReq .read], dies := [(0, { queue := [p] })] } }
     0 < ldCount s ∧ dpRuns s = true ∧ (ldOf s 0).queue = [p] ∧ (s.lard.reqs.find? fun r => decide (r.id = 1)) = some (tReq .read) ∧
     p.also = none ∧ partWaits s 0 (tReq .read) p = false ∧ partFails s (tReq .read) p .ok = none) ∧
    ((tReq .write).kind = .write ∧ (tReq .fill).kind = .fill ∧ (tReq .read).kind = .read ∧
     (tReq (.atomic 0 true)).kind = .atomic 0 true ∧ fAddFmt 0 = none ∧ fAddFmt 0x11 = some 1) ∧
    ((tReq (.vadd 1)).kind = .vadd 1 ∧ (tReq (.scatterAdd 0)).kind = .scatterAdd 0 ∧ (tReq (.vaddExact 1)).kind = .vaddExact 1 ∧
     (tReq (.copy 64)).kind = .copy 64 ∧ (tReq (.copy 64)).phase = 0 ∧ { tReq (.copy 64) with phase := 1 }.phase ≠ 0 ∧
     (tReq .pageGather).kind = .pageGather ∧ (tReq .pageGather).phase < 2 ∧ 2 ≤ { tReq .pageGather with phase := 2 }.phase ∧
     1 < elemBits 1 / 8 ∧ 0 + elemBits 1 / 8 ≤ 2) ∧
    (let s := { tIn .hold with lard := { State.reset.lard with slots := [(32 * 11 + 31, 510)] } }
     11 < stackCount s ∧ dpPowered s = true ∧ (Tab.get 0 s.lard.slots (32 * 11 + 31) + 1) % 512 ≠ 0 ∧ 31 < 32) := by decide

theorem witness_TelemetryRowsTakeEffect :
    (let s := tIn .hold
     Runs s 3 0x0801 [(2, 63), (2, 10000)] ∧ s.telem.running = false ∧ Runs s 3 0x0802 ∧ Runs s 3 0x0803 [(2, 63)] ∧ Runs s 3 0x0811) ∧
    (let s := { tIn .ready with telem := { running := true, sets := 63, period := 10000, next := 10000000000 } }
     Runs s 3 0x0801 [(2, 63), (2, 10000)] ∧ s.telem.running = true ∧ s.telem.repl = none ∧ s.mod.st ≠ .off) ∧
    (let s := tIn .ready
     Runs s 3 0x0810 [(2, 127), (2, 16), (2, 256)] ∧ portExists s 127 = true) := by decide

theorem witness_RecordRowsTakeEffect :
    (let s := tNet .ready .loaded
     Runs s 3 0x0820 [(2, 1), (2, 0)] ∧ portExists s 0 = true ∧
     (takeRing s 1 (decide (ringsOn s true < 2))
       { st := 1, capture := true, port := 0, wrap := true, begun := true, set := ((activeSet s).map FwSet.set).getD 0,
         plane := s.mod.plane, steady := steady s, startAxle := s.axle.value, startAt := s.now }).isSome = true ∧
     Runs s 3 0x0B01 (recordItems ⟨0, 1, 0, 0, 1, none⟩) ∧ (blockOf s 0).st ≠ .unloaded ∧
     (takeRing s 1 (decide (ringsOn s false < 8)) { freshRing s 0 with egress := true }).isSome = true ∧
     Runs s 3 0x0B10 [(2, 1)] ∧ (takeRing s 1 true (ringOfHeader (List.replicate 64 0))).isSome = true) ∧
    (let s := { tIn .run with rings := [(0, { st := 1, mib := 1 }), (1, { st := 1, mib := 1, capture := true }), (15, { st := 2, mib := 1 })] }
     (Runs s 3 0x0821 [(2, 1)] ∧ (ringOf s 1).st = 1 ∧ (ringOf s 1).capture = true) ∧
     (Runs s 3 0x0B02 [(2, 0)] ∧ (ringOf s 0).st = 1 ∧ (ringOf s 0).capture = false) ∧
     (Runs s 3 0x0B05 [(2, 15)] ∧ (ringOf s 15).st = 2)) := by decide

/-- A module in Run with a complete recording of block 0 in ring 0; the recording's one record is an ingress packet on port 0. -/
def tRec : State :=
  { tNet .run .active with rings := [(0, { st := 2, complete := true, mib := 1, set := 1042, used := 64 })] }

/-- Whether a replay's next record is one to inject, read without an error. -/
def tInject (s : State) : Bool :=
  match replayNext s with
  | .inject x => decide (badIn s ((ringOf s s.replay.inRing).base + x.pos) x.size = none)
  | _ => false

theorem witness_ReplayRowsTakeEffect :
    (let s := tRec
     let r := ringOf s 0
     Runs s 3 0x0B11 [(2, 0), (2, 1), (8, 0)] ∧ r.st = 2 ∧ r.capture = false ∧ s.replay.running = false ∧ r.complete = true ∧ (blockOf s r.block).st = .active ∧
     (blockOf s r.block).step = r.startStep ∧ (0 = 0 ∨ s.axle.value ≤ 0) ∧ r.set = setNow s ∧ r.arithRev = 3 ∧ r.plane = s.mod.plane ∧
     r.steady = steady s ∧
     (takeRing s 1 (decide (ringsOn s false < 8)) { freshRing s r.block with egress := true, replayOut := true }).isSome = true) ∧
    (let s := { tRec with replay := { running := true } }
     Runs s 3 0x0B12 ∧ s.replay.running = true) ∧
    (let s := { tNet .run .active with
       rings := [(0, { st := 3, complete := true, mib := 1, set := 1042, records := 1, used := 128 })], replay := { running := true } }
     s.replay.running = true ∧ tInject s = true) := by decide

/-- A module in `st` whose versions A and B stand in `a` and `b`, A active unless `v`. -/
def tTab (st : ModState) (a b : VerState) (v : Bool) : State :=
  { tNet st .loaded with epoch := { verA := a, verB := b, active := v, loaded := true } }

/-- A version with no entry passes every check. -/
theorem tTab_passes (st : ModState) (a b : VerState) (v : Bool) (w : Nat) : tableFault (tTab st a b v) w = none := by
  have h1 : (List.range 256).find? (fun i => !coordOk (tTab st a b v) w i) = none :=
    List.find?_eq_none.2 fun i _ => by
      have : coordEntry (tTab st a b v) w i = 0 := rfl
      simp [coordOk, this, bit]
  have h2 : (List.range 4096).find? (fun g => !groupOk (tTab st a b v) w g) = none :=
    List.find?_eq_none.2 fun g _ => by
      have : mcastCtl (tTab st a b v) w g = 0 := rfl
      simp [groupOk, mcastValid, this, bit]
  simp [tableFault, h1, h2]

theorem witness_TableRowsTakeEffect :
    (∀ st a b v w, tableFault (tTab st a b v) w = none) ∧
    (Runs (tTab .setup .writable .writable false) 3 0x0301 [(2, 0)] ∧ (tTab .setup .writable .writable false).mod.st = .setup) ∧
    (let s := tTab .ready .active .writable false
     Runs s 3 0x0301 [(2, 1)] ∧ s.mod.st ≠ .setup ∧ s.epoch.verB = .writable ∧ s.epoch.verA ≠ .draining) ∧
    (let s := tTab .ready .writable .active true
     Runs s 3 0x0301 [(2, 1)] ∧ s.mod.st ≠ .setup ∧ s.epoch.verA = .writable ∧ s.epoch.verB ≠ .draining) ∧
    (let s := tTab .run .draining .active true
     Runs s 3 0x0302 ∧ (s.epoch.verA = .draining ∨ s.epoch.verB = .draining) ∧ s.epoch.sealed = false) ∧
    (let s := tTab .ready .active .writable false
     Runs s 3 0x0303 ∧ verOf s (1 - b2n s.epoch.active) = .writable ∧ Runs s 3 0x0304 [(2, 1)] ∧ verOf s 1 = .writable) ∧
    (inTable 1 0x500047FC = true ∧ inTable 0 0x5005FFFC = true) ∧
    (Tab.wf none (tTab .ready .active .writable false).regs = true ∧ inTable (1 - 0) 0x50004000 = false) ∧
    (let s := { tTab .run .draining .active true with epoch := { verA := .draining, verB := .active, active := true, sealed := true } }
     s.epoch.sealed = true ∧ s.epoch.slow = false) :=
  ⟨tTab_passes, by decide⟩

/-- `tNet` with harness 0 of block 0 configured: a sum over 32 elements of accelerator 0 and the galley (rank 1), one chunk. -/
def tHarn (st : ModState) (x : BlockState) : State :=
  { tNet st x with
    regs := [(0x50010004, some 0x00020020), (0x50010008, some 32), (0x5001000C, some 0x00010004), (0x50080000, some 0x80000000)] }

theorem witness_HarnessCommandsTakeEffect :
    (let s := tHarn .ready .loaded
     Runs s 3 0x0410 [(2, 0)] ∧ (harnOf s 0).loaded = false ∧ (blockOf s (harnOwner s 0)).st ≠ .unloaded ∧ (blockOf s (harnOwner s 0)).st ≠ .faulted ∧
     harnRanges s 0 = true ∧ membersOk s 0 = true ∧ harnShape s 0 = true ∧ (∀ e ∈ accelMembers s 0, memberUp s e.2 = true) ∧
     (harnFast s 0 = true → steady s = false) ∧ budgetsUsed s + harnBudget s 0 ≤ 6400) ∧
    (let s := { tHarn .ready .loaded with harn := [(1023, { loaded := true })] }
     Runs s 3 0x0411 [(2, 1023)] ∧ (harnOf s 1023).loaded = true ∧ harnBusy s 1023 = false) := by decide

/-- A smallest ELF64 file that meets 08 R193: one executable segment of 4 B of cluster memory, one TZGAL note with one entry of one thread. -/
def tElf : List Byte :=
  [0x7F, 0x45, 0x4C, 0x46, 2, 1] ++ leBytes 10 0 ++ leBytes 2 2 ++ leBytes 2 243 ++ leBytes 4 1 ++ leBytes 8 0 ++ leBytes 8 64 ++ leBytes 8 0 ++
  leBytes 4 5 ++ leBytes 2 64 ++ leBytes 2 56 ++ leBytes 2 2 ++ leBytes 6 0 ++
  (leBytes 4 1 ++ leBytes 4 5 ++ leBytes 8 0 ++ leBytes 8 0x7FFF000000110000 ++ leBytes 8 0 ++ leBytes 8 0 ++ leBytes 8 4 ++ leBytes 8 0) ++
  (leBytes 4 4 ++ leBytes 4 4 ++ leBytes 8 176 ++ leBytes 8 0 ++ leBytes 8 0 ++ leBytes 8 68 ++ leBytes 8 68 ++ leBytes 8 0) ++
  (leBytes 4 6 ++ leBytes 4 48 ++ leBytes 4 1 ++ [0x54, 0x5A, 0x47, 0x41, 0x4C, 0, 0, 0]) ++
  (leBytes 2 1 ++ leBytes 2 1 ++ leBytes 4 256 ++ leBytes 4 1000000 ++ leBytes 4 16 ++ leBytes 8 0 ++ leBytes 8 0 ++
   leBytes 8 0x7FFF000000110000 ++ leBytes 2 1 ++ leBytes 6 0)

/-- Whether the file passes 08 R193 and image `i` of block `b` can then be loaded from it on `n` clusters. -/
def tLoads (s : State) (i b n : Nat) (f : List Byte) : Bool :=
  match fileCheck f with | .ok x => (loadImage s i b 65535 n f x).isSome | .error _ => false

theorem witness_GalleyCommandsTakeEffect :
    (let s := tNet .ready .loaded
     Runs s 3 0x0601 [(2, 1023), (2, 0), (2, 1), (2, 0), (2, 1)] ∧ cmdOf s 3 = none ∧ tElf ≠ [] ∧ (imgOf s 1023).st = 0 ∧ (blockOf s 0).st ≠ .unloaded ∧ (blockOf s 0).st ≠ .faulted ∧
     tLoads s 1023 0 1 tElf = true) ∧
    (let s := { tRun [] with thr := [] }
     Runs s 3 0x0602 [(2, 5)] ∧ (imgOf s 5).st ≠ 0 ∧ (∀ e ∈ s.thr, e.2.live = true → e.2.image ≠ 5) ∧ (imgOf s 5).queue = []) ∧
    (let s := tRun []
     Runs s 3 0x0603 [(2, 5), (2, 0), (8, 0), (4, 0)] ∧ (imgOf s 5).st ≠ 0 ∧ (blockOf s (imgOf s 5).owner).st = .active ∧ 0 < (imgOf s 5).entries.length ∧
     (imgOf s 5).queue.length < (imgOf s 5).depth) ∧
    (let l : Launch := { id := 0, entry := 0, a0 := 0, a1 := 0, a2 := 0, key := 0 }
     let i : Image := { st := 1, clusters := [0], entries := [(0x1000, 1)], depth := 4, queue := [l] }
     let s := { tRun [] with img := [(5, i)] }
     dpRuns s = true ∧ ((imgOf s 5).queue.find? fun l => !l.started) = some l ∧ (imgOf s 5).entries[l.entry]? = some (0x1000, 1) ∧
     (groupCluster s (imgOf s 5) l 1).isSome = true) ∧
    (dpRuns (tRun []) = true ∧ ∀ l ∈ (imgOf (tRun []) 5).queue, l.started = true) := by decide

theorem tRun_unbound : boundTo (tRun []) 5 = false := by
  have h : ∀ k, bindWord (tRun []) k = 0 := fun _ => rfl
  simp [boundTo, h, bit]

/-- A WRITE of 32 B to accelerator 1. -/
def tWr : Header := { (default : Header) with len := 1, dst := 1 }

/-- `tRun` with the instruction `w` at the thread's pc, 256 B into its scratch. -/
def tAt (w : Nat) (x : Tab U64) : State :=
  { tRun x with
    code := [(coreKey tT, Mem.write [] 0x100 (leBytes 4 w))],
    thr := [(thrKey tT, { live := true, image := 5, x := x, pc := 0x7FFF000000000100 })] }

/-- The Xtzgal instruction of a meaning. -/
def tTz : Meaning → Option (TzOp × Nat × Nat × Nat) | .tz o d a b => some (o, d, a, b) | _ => none

/-- The access of a meaning. -/
def tMem : Meaning → Option Access | .mem a _ => some a | _ => none

/-- The kind of a meaning that has no registers. -/
def tKind : Meaning → Nat | .noFetch => 1 | .illegal => 2 | .exit => 3 | .log => 4 | .ebreak => 5 | .fence w => 6 + b2n w | _ => 0

/-- `tAt` at a TZ.SEND of a packet template at the start of the thread's scratch, with 32 bytes after it as payload. -/
def tSend : State :=
  { tAt 0xb5100b [(10, 0x7FFF000000000000), (11, 0x7FFF000000000020)] with scratch := Mem.write [] (scratchKey tT 0) (headerBytes tWr) }

theorem witness_XtzgalInstructionsTakeEffect :
    (thrExists tT = true ∧ thrExists ⟨3, 97, 63, 3⟩ = true ∧ turn (tAt 0xb5000b []) tT = true) ∧
    tTz (standing (tAt 0xb5000b []) tT) = some (.submit, 0, 10, 11) ∧ tTz (standing (tAt 0xb5100b []) tT) = some (.send, 0, 10, 11) ∧
    tTz (standing (tAt 0xe6a28b []) tT) = some (.wait, 5, 13, 14) ∧ tTz (standing (tAt 0x6400b []) tT) = some (.brake, 0, 12, 0) ∧
    tTz (standing (tAt 0x728b []) tT) = some (.axle, 5, 0, 0) ∧ tTz (standing (tAt 0x200728b []) tT) = some (.step, 5, 0, 0) ∧
    tTz (standing (tAt 0x400700b []) tT) = some (.yield, 0, 0, 0) ∧
    (let s := tAt 0 [(10, 0x7FFF000000000000), (11, 5), (12, 64), (13, 0x800000000000003F), (14, 1)]
     let u := issued s tT
     (getX u tT 11 ≤ 5 ∧ getX u tT 10 % 64 = 0 ∧ ownMem u tT (getX u tT 10) 64 = true) ∧
     (bits (getX u tT 13) 14 49 = 0 ∧ slotInBlock u (blockOfThr u tT) (getX u tT 13 % 16384) = true) ∧
     (1 ≤ getX u tT 12 ∧ getX u tT 12 ≤ 64)) ∧
    (let s := tSend
     let u := issued s tT
     let h := sendHeader u tT (headerOf (plainRead u (placeOf u tT (getX u tT 10)) 32))
     let k := blockOfThr u tT
     getX u tT 10 % 32 = 0 ∧ ownMem u tT (getX u tT 10) 32 = true ∧ h.typ.toNat = tWRITE ∧ headerOk h = true ∧
     sendTarget u k h = true ∧ sendTagBad u k h = false ∧ getX u tT 11 % 32 = 0 ∧ spanOk u tT (getX u tT 11) (32 * h.len.toNat) 0 = true ∧
     (thrOf u tT).posted = 0 ∧ (h.mcast = true ∨ h.dst.toNat ≠ ownEpa u)) ∧
    (let s := { tRun [] with thr := [(thrKey tT, { live := true, image := 5, sleep := .wait 5 63 true 0 })] }
     dpRuns s = true ∧ (thrOf s tT).sleep = .wait 5 63 true 0 ∧ waitMet s 63 true 0 = true ∧ turn s tT = false) :=
  ⟨by decide, by decide, by decide, by decide, by decide, by decide, by decide, by decide, by decide, by decide, by decide⟩

theorem witness_TakeCopiesEachResultOnce :
    tTz (standing (tAt 0xb5328b []) tT) = some (.take, 5, 10, 11) ∧
    (let s := { tHarn .run .active with
       harn := [(0, { loaded := true, formed := [(0, 0)] })], img := (tRun []).img, clusters := [(0, some 5)],
       thr := [(thrKey tT, { live := true, image := 5, x := [(10, 0), (11, 0x0100000000000000)] })] }
     let u := issued s tT
     let v := getX u tT 10
     let w := getX u tT 11
     turn s tT = true ∧ bits v 10 6 = 0 ∧ bits v 59 5 = 0 ∧ bits w 48 8 = 0 ∧
     harnLoadedBy u (bits v 0 10) (blockOfThr u tT) = true ∧ harnMode u (bits v 0 10) = 0 ∧ bits w 56 8 ∈ galleyRanks u (bits v 0 10) ∧
     bits v 32 27 < chunksOf u (bits v 0 10)) ∧
    (let s := { tHarn .run .active with
       harn := [(0, { loaded := true, formed := [(0, 0)] })], thr := [(thrKey tT, { live := true, image := 5, sleep := .take 5 0 0 0 1 0 })] }
     dpRuns s = true ∧ (thrOf s tT).sleep = .take 5 0 0 0 1 0 ∧ chunkFormed s 0 0 0 = true ∧ takeHold s 0 0 0 1 = none) ∧
    (let x : RHold := { h := 0, step := 0, chunk := 0, bytes := List.replicate 32 1, waiting := [(65537, 0)] }
     let s := { tHarn .run .active with harn := [(0, { loaded := true })], coll := { holds := [x] } }
     takeHold s 0 0 0 1 = some x ∧ spanOk (regionEcc s (spillBase s) .corrected) tT (localAddr 0x3FE0) x.bytes.length 1 = true ∧
     Ecc.corrected ≠ .uncorrectable) ∧
    (let s := { tHarn .run .active with harn := [(0, { loaded := true })] }
     takeHold s 0 3 0 1 = none ∧ chunkFormed s 0 3 0 = false) :=
  ⟨by decide, by decide, by decide, by decide, by decide⟩

theorem witness_GalleyAccessesAndServicesTakeEffect :
    tMem (standing (tAt 0x853283 [(10, 0x7FFF000000000000)]) tT) = some (.load (.x 5 true) 0x7FFF000000000008 8) ∧
    tKind (standing (tAt 0x0110000f []) tT) = 7 ∧
    tKind (standing (tAt 0x73 [(17, 0)]) tT) = 3 ∧ tKind (standing (tAt 0x73 [(17, 1)]) tT) = 4 ∧ tKind (standing (tAt 0x100073 []) tT) = 5 ∧
    (tKind (standing (tAt 0x0000500b []) tT) = 2 ∧ (thrOf (tAt 0x0000500b []) tT).pc ≠ (thrOf (tAt 0x0000500b []) tT).stub) ∧
    (let s := { tRun [] with thr := [(thrKey tT, { live := true, image := 5, pc := 0x7FFF0FFF00000000 })] }
     turn s tT = true ∧ tKind (standing s tT) = 1 ∧ (thrOf s tT).pc ≠ (thrOf s tT).stub) ∧
    (let s := tRun [(10, 0x7FFF000000003FE0)]
     (placeOf s tT 0x7FFF000000003FF8 = .scratch (scratchKey tT 0x3FF8) ∧ spanIn s tT 0x7FFF000000003FF8 8 = true) ∧
     spanLarder s tT (getX s tT 10) = none ∧ spanOk s tT (getX s tT 10) 32 0 = true) ∧
    (let s := tRun []
     placeOf s tT (localAddr (0x300000000 + 8 * 63)) = .cslot 63 0 ∧ localAddr (0x300000000 + 8 * 63) % 8 = 0 ∧
     slotInBlock s (blockOfThr s tT) 63 = true ∧ placeOf s tT 0x7FFF0FFF00000000 = .bad) ∧
    (let s := { tRun [] with winEff := [(0, { base := 0x00010000, ctl := 3 })] }
     placeOf s tT 0x8000000000000000 = .larder 0 (some 0) ∧ thrMay s tT 0 8 1 (some 0) = true) ∧
    (let s := { tRun [] with img := [(5, { st := 2 })] }
     (imgOf (issued s tT) (thrOf (issued s tT) tT).image).st = 2) :=
  ⟨by decide, by decide, by decide, by decide, by decide, by decide, by decide, by decide, by decide, by decide, by decide⟩

/-- Port 0 exists and stands as `q`, no plan is in force. -/
def tPort (st : ModState) (q : Port) : State := { tIn st with ports := [(0, q)] }

theorem witness_LinkCommandsTakeEffect :
    (let s := tPort .ready { stage := .listen }
     Runs s 3 0x0702 [(2, 0)] ∧ portExists s 0 = true ∧ (portOf s 0).stage ≠ .up ∧ (portOf s 0).flushing = false) ∧
    (let s := tPort .run { stage := .up, minor := 1 }
     Runs s 3 0x0703 [(2, 0)] ∧ Runs s 3 0x0704 [(2, 0)] ∧ Runs s 3 0x0705 [(2, 0)] ∧ Runs s 3 0x0706 [(2, 0)] ∧ portExists s 0 = true ∧ partnerBlock s 0 = none ∧
     (portOf s 0).stage = .up ∧ 1 ≤ (portOf s 0).minor) ∧
    (let s := tPort .run { stage := .up, rxIdle := true }
     portExists s 0 = true ∧ (portOf s 0).stage = .up ∧ (portOf s 0).rxIdle = true) := by decide

theorem witness_LaneCommandsTakeEffect :
    (let s := { tIn .setup with
       ports := [(127, { stage := .disabled, disabled := true })], lanes := [(511, { gen := some 0, chk := some 0 }), (510, { chk := some 3, lock := true })] }
     Runs s 3 0x0710 [(2, 511), (2, 3), (2, 3)] ∧ laneDisabled s 511 = true ∧ Runs s 3 0x0711 [(2, 511)] ∧ (Runs s 3 0x0712 [(2, 511)] ∧ (laneOf s 511).lock = false) ∧
     (laneOf s 511).chk.isSome = true ∧ (laneOf s 510).lock = true ∧ ((laneOf s 509).inject = none ∧ (laneOf s 509).injPast = []) ∧ (Runs s 3 0x0713 [(2, 511), (2, 1), (2, 64), (2, 65535), (4, 1)] ∧ injectOk s 511 1 64 65535 1 = true) ∧ Runs s 3 0x0714 [(2, 511)]) ∧
    (let s := { tIn .ready with eye := [{ chiplet := 0, lane := 0, tag := 4 }] }
     Runs s 3 0x0720 [(2, 511), (2, 2)] ∧ (∀ x ∈ s.eye, x.chiplet ≠ 511 / 32) ∧
     (s.eye.find? fun e => decide (e.chiplet = 0)) = some { chiplet := 0, lane := 0, tag := 4 }) := by decide

/-- The first 64 bytes of a stored plan of plane 0 whose ports are all x4. -/
def tHead : List Byte :=
  leBytes 2 1 ++ [0, 0] ++ leBytes 4 0x55555555 ++ leBytes 2 128 ++ leBytes 2 0 ++ leBytes 4 0 ++ leBytes 8 1 ++ List.replicate 40 0

/-- A stored plan that names no port. -/
def tStored : List Byte := tHead ++ (List.replicate 2048 0 ++ leBytes 8 (crc64 (tHead ++ List.replicate 2048 0)))

theorem tStored_head (i n : Nat) (h : i + n ≤ 64) : getLe tStored i n = getLe tHead i n := getLe_append_left _ _ _ _ h

theorem tStored_zero (i n : Nat) (h : 64 ≤ i) (h1 : i + n ≤ 2112) : getLe tStored i n = 0 := by
  have z : ∀ k : Nat, ofLe (List.replicate k 0) = 0 := by
    intro k
    induction k with
    | zero => rfl
    | succ k ih => rw [List.replicate_succ, ofLe, ih]; rfl
  have e : getLe tStored i n = getLe (List.replicate 2048 0) (i - 64) n := by
    rw [tStored, getLe_append_right _ _ _ _ (show 64 ≤ i from h)]
    have b : tHead.length = 64 := rfl
    exact getLe_append_left _ _ _ _ (by rw [List.length_replicate]; omega)
  rw [e, getLe, slice, List.drop_replicate, List.take_replicate, List.replicate_append_replicate]
  exact z _

theorem tStored_planOf : planOf tStored =
    { plane := 0, rackPos := 0, widths := List.replicate 16 1, edits := 0, planId := 1, entries := List.replicate 256 {} } := by
  have w : ((List.range 16).map fun k => bits (getLe tHead 4 4) (2 * k) 2) = List.replicate 16 1 := by decide
  have e : ((List.range 256).map fun i => 
      (PlanEntry.mk (getLe tStored (64 + 8 * i) 2) (getLe tStored (66 + 8 * i) 1) (getLe tStored (67 + 8 * i) 1))) = List.replicate 256 {} := by
    refine List.eq_replicate_iff.2 ⟨by simp, ?_⟩
    intro b hb
    obtain ⟨i, hi, rfl⟩ := List.mem_map.1 hb
    have hi := List.mem_range.1 hi
    rw [tStored_zero _ _ (by omega) (by omega), tStored_zero _ _ (by omega) (by omega), tStored_zero _ _ (by omega) (by omega)]
  unfold planOf
  simp only [tStored_head _ _ (by decide : 2 + 1 ≤ 64), tStored_head _ _ (by decide : 3 + 1 ≤ 64), tStored_head _ _ (by decide : 4 + 4 ≤ 64),
    tStored_head _ _ (by decide : 10 + 2 ≤ 64), tStored_head _ _ (by decide : 16 + 8 ≤ 64), w, e]
  rfl

theorem tStored_ok : planOk (tIn .standby) tStored = true := by
  have b : tHead.length = 64 := rfl
  have len : tStored.length = 2120 := by simp only [tStored, List.length_append, List.length_replicate, leBytes_length, b]
  have crc : getLe tStored 2112 8 = crc64 (tStored.take 2112) := by
    have t : tStored.take 2112 = tHead ++ List.replicate 2048 0 := by
      rw [tStored, ← List.append_assoc]
      exact List.take_left' (by rw [List.length_append, List.length_replicate, b])
    rw [t, tStored, ← List.append_assoc, getLe_append_right _ _ _ _ (by rw [List.length_append, List.length_replicate, b])]
    have : 2112 - (tHead ++ List.replicate 2048 0).length = 0 := by rw [List.length_append, List.length_replicate, b]
    rw [this, getLe_leBytes]
    exact Nat.mod_eq_of_lt (crc64_lt _)
  have sl : slice tStored 12 4 ++ slice tStored 24 40 = slice tHead 12 4 ++ slice tHead 24 40 := by
    have : ∀ i n, i + n ≤ 64 → slice tStored i n = slice tHead i n := by
      intro i n h
      unfold slice tStored
      rw [List.drop_append_of_le_length (by omega), List.take_append_of_le_length (by rw [List.length_drop]; omega)]
    rw [this 12 4 (by decide), this 24 40 (by decide)]
  unfold planOk
  simp only [tStored_planOf, len, crc, sl, tStored_head _ _ (by decide : 0 + 2 ≤ 64), tStored_head _ _ (by decide : 8 + 2 ≤ 64)]
  have en : ((enum (List.replicate 256 ({} : PlanEntry))).all fun e =>
      decide (getLe tStored (68 + 8 * e.1) 4 = 0 ∧ e.2.state < 3) &&
      (decide (e.1 < ((List.replicate 16 1).map portsPer).sum ∧ e.2.state ≠ 0) || decide (e.2 = {}))) = true := by
    have le : ∀ e ∈ enum (List.replicate 256 ({} : PlanEntry)), e.1 < 256 ∧ e.2 = {} := by decide +kernel
    refine List.all_eq_true.2 fun e he => ?_
    obtain ⟨h1, h2⟩ := le e he
    rw [tStored_zero _ _ (by omega) (by omega), h2]
    simp
  have un : planUnique { plane := 0, rackPos := 0, widths := List.replicate 16 1, edits := 0, planId := 1, entries := List.replicate 256 {} } = true := by
    decide +kernel
  simp only [en, un]
  decide

theorem witness_PlanCommandsTakeEffect :
    (let s := tIn .standby
     planOk s tStored = true ∧ Runs s 3 0x0730 ∧ cmdOf s 3 = none ∧ s.mod.st ≠ .setup) ∧
    (let s := tNet .ready .unloaded
     Runs s 3 0x0731 [(2, 1), (2, 2)] ∧ s.nv.plan = some tPlan ∧ tPlan.entries[1]? = some { epa := 1, state := 1 } ∧ blockOfEpa s 1 = none) ∧
    (let s := { tNet .setup .unloaded with ports := [(0, { stage := .quarantine, check := 2, pEpa := 1 }), (1, { check := 2 })] }
     portExists s 0 = true ∧ (portOf s 0).stage = .quarantine ∧ (portOf s 0).check = 2 ∧ (portOf s 0).paired = false ∧
     (portOf s 0).misSent = false ∧ expectedPort s 0 = some 1 ∧ (portOf s 1).check ≠ 0) :=
  ⟨⟨tStored_ok, by decide⟩, by decide, by decide⟩

theorem witness_CertificationRowsTakeEffect :
    (let s := tPort .ready { stage := .up }
     Runs s 3 0x0740 [(2, 0), (2, 1), (2, 3600)] ∧ portExists s 0 = true ∧ (portOf s 0).stage = .up ∧ bits (certCtlWord s) 0 14 ≠ 0 ∧ dpRuns s = true) ∧
    (let r : CertRun := { tag := some 4, mode := 1, ports := [0], endAt := 1000000000 }
     let s := { tPort .ready { stage := .up } with certRuns := [r] }
     (s.certRuns.find? fun r => decide (r.mode = 1)) = some r ∧ r.tag = some 4) := by decide

/-- A control field of stage 1 with its CRC-16, and one whose CRC-16 fails. -/
def tCtl (good : Bool) : BitVec 128 := BitVec.ofNat 128 (1 + 2 ^ 112 * (if good then crc16 1 112 else (crc16 1 112 + 1) % 65536))

theorem witness_HitchStagesTakeEffect :
    (let s := tPort .setup { stage := .detect }
     portExists s 0 = true ∧ dpRuns s = true ∧ 3 < lanesPer (portW s 0) ∧ ((portOf s 0).stage = .detect ∨ (portOf s 0).stage = .sound) ∧
     bits (tCtl true).toNat 112 16 = crc16 (tCtl true).toNat 112 ∧ bits (tCtl true).toNat 0 8 = 1 ∧
     bits (tCtl false).toNat 112 16 ≠ crc16 (tCtl false).toNat 112 ∧ stageLimit (portOf s 0).stage = some 10000000) ∧
    (let s := tPort .setup { stage := .sound }
     (portOf s 0).stage = .sound ∧ bits 2 0 8 ≠ 1) ∧
    (let s := tPort .ready { stage := .up }
     (portOf s 0).stage = .up) ∧
    (let s := tPort .setup { stage := .backoff }
     portExists s 0 = true ∧ (portOf s 0).stage = .backoff) ∧
    (let s := tPort .setup { stage := .listen }
     portExists s 0 = true ∧ (portOf s 0).stage = .listen) ∧
    (let s := tPort .setup { stage := .align }
     (portOf s (portOfLane s 3)).stage = .align ∧ (laneOf s 3).cw = false ∧ portExists s 0 = true ∧ bits 3 0 8 = 3 ∧ 511 < 512) := by decide +kernel

/-- A 64-byte control message with its CRC-64. -/
def tMsg (b : List Byte) : List Byte :=
  let b := b ++ List.replicate (56 - b.length) 0
  b ++ leBytes 8 (crc64 b)

theorem witness_PortsComeUpAndGoDown :
    (let s := tPort .setup { stage := .identify }
     portExists s 0 = true ∧ (portOf s 0).stage = .identify ∧ (identOf (tMsg [1, 1])).map (fun i => bit i.flags 0) = some true) ∧
    (let s := { tNet .setup .unloaded with ports := [(0, { stage := .identify })] }
     (1 ≠ 2) ∧ planCheck s 0 { flags := 1, major := 1, minor := 2, epa := 0, port := 0, serial := 0, width := 1, dwell := 0 } = 1 ∧ (portOf s 0).cert = 0) ∧
    (let s := tPort .setup { stage := .verify, check := 1, samples := [0, 0, 0, 0, 0, 0] }
     let m := tMsg ([2] ++ List.replicate 15 0 ++ [1])
     portExists s 0 = true ∧ m.length = 64 ∧ getLe m 0 1 = 2 ∧ getLe m 56 8 = crc64 (m.take 56) ∧ (portOf s 0).stage = .verify ∧
     getLe m 16 8 ≠ 0 ∧ (portOf s 0).samples.length < 7 ∧ (portOf s 0).check = 1 ∧ (portOf s 0).flushing = false ∧ (portOf s 0).cert ≠ 2 ∧
     dpRuns s = true ∧ (portOf s 0).stage ≠ .up ∧
     ¬ ((tMsg [1]).length = 64 ∧ getLe (tMsg [1]) 0 1 = 2 ∧ getLe (tMsg [1]) 56 8 = crc64 ((tMsg [1]).take 56) ∧ (portOf s 0).stage = .verify)) ∧
    (let s := tPort .ready { stage := .up }
     portExists s 0 = true ∧ (portOf s 0).stage = .up) ∧
    (let s := tPort .ready { stage := .backoff, flushing := true }
     portExists s 0 = true ∧ (portOf s 0).flushing = true ∧ towardPort s 0 = false ∧ (portOf s 0).disabled = false ∧ dpRuns s = true) := by
  decide +kernel

/-- A packet that the module forms from a header with `typ` and no payload. -/
def tPkt (typ : BitVec 4) : Packet := mkPacket { (default : Header) with typ := typ, tclass := 3, last := true, dst := 0x8000 } []

theorem witness_AxleRowsTakeEffect :
    (let s := tNet .run .active
     portExists s 0 = true ∧ (tPkt 11).hdr.typ.toNat = tSYNC ∧ receives s 0 = true ∧ trailerOk (tPkt 11) = true) ∧
    (let s := { tNet .run .active with axle := { locked := true } }
     s.axle.locked = true ∧ dpRuns s = true) ∧
    (let s := { tNet .run .active with axle := { holdover := true } }
     let u := elapse s (64000 - s.now % 64000)
     s.mod.st ≠ .off ∧ eligible u = [] ∧ s.axle.holdover = true) ∧
    (let s := { tNet .run .active with ports := [(0, { stage := .up, check := 1, syncAt := some 0 })] }
     let u := elapse s (64000 - s.now % 64000)
     s.mod.st ≠ .off ∧ eligible u ≠ []) ∧
    (2 : Int).natAbs ≤ 2 ∧ 8 < (-9 : Int).natAbs ∧
    runsFree { tNet .run .active with axle := { everLock := true } } = true ∧
    (let s := { tNet .setup .unloaded with mod := { st := .setup, plane := 3 } }
     runsFree s = false ∧ s.mod.st = .setup ∧ s.axle.everLock = false ∧ 1000 < (-1001 : Int).natAbs) ∧
    (let s := { tNet .run .active with axle := { inBand := 15, outBand := 15, locked := true } }
     15 ≤ s.axle.inBand ∧ 15 ≤ s.axle.outBand ∧ s.axle.locked = true) ∧
    (let s := { tIn .setup with axle := { firstUp := some 1 } }
     s.axle.firstUp = some 1 ∧ s.mod.plane = masterPlane s ∧ s.axle.locked = false ∧ s.axle.lastElig < 1 ∧ eligible s = []) := by
  decide +kernel

/-- A packet of `typ` and class `cls` from accelerator 0 to `dst` as its port sends it. -/
def tIng (typ : BitVec 4) (cls : BitVec 2) (len : Nat) (dst : U16) : Packet :=
  mkPacket { (default : Header) with typ := typ, tclass := cls, len := BitVec.ofNat 16 len, last := true, dst := dst } (List.replicate (32 * len) 0)

theorem witness_ArrivingPacketsAreTaken :
    (let s := tNet .run .active
     portExists s 0 = true ∧ receives s 0 = true ∧ replayMutes s 0 = false) ∧
    ((tIng 0 2 1 0x8000).hdr.typ.toNat = tWRITE ∧ (tIng 1 2 0 0x8000).hdr.typ.toNat = tREADREQ ∧ (tIng 2 0 1 1).hdr.typ.toNat = tREADRSP ∧
     (tIng 3 2 1 0x8000).hdr.typ.toNat = tATOMIC ∧ (tIng 4 0 1 1).hdr.typ.toNat = tATOMICRSP ∧ (tIng 7 0 0 0x8000).hdr.typ.toNat = tCALL ∧
     (tIng 8 3 0 0x8000).hdr.typ.toNat = tACK ∧ (tIng 9 3 0 0x8000).hdr.typ.toNat = tNACK ∧ 12 ≤ (tIng 12 0 0 0).hdr.typ.toNat ∧
     (tIng 5 1 1 0x8000).hdr.typ.toNat = tCONTRIB) ∧
    trailerOk (tIng 0 2 1 0x8000) = true ∧ trailerOk { tIng 0 2 1 0x8000 with trailer := 0 } = false := by decide +kernel

/-- `tIng`'s header with a group as its destination. -/
def tGrp (g : U16) : Packet := { tIng 0 0 1 g with hdr := { (tIng 0 0 1 g).hdr with mcast := true } }

/-- `tNet` in Run whose version A sends accelerator 1 out on port 1, and whose group 7 of block 0 has the member 1 alone. -/
def tWay : State :=
  { tNet .run .active with
    epoch := { active := false, verA := .active, loaded := true },
    regs := [(coordAddr 0 2, some 0x101), (maskAddr 0 7 0, some 2), (mctlAddr 0 7, some 1)] }

theorem witness_ArrivalChecksDecideInOrder :
    (let s := tWay
     (let p := tGrp 4096
      headerOk p.hdr = true ∧ plannedEpa s 0 = some p.hdr.src.toNat ∧ p.hdr.mcast = true ∧ 4096 ≤ p.hdr.dst.toNat) ∧
     (let p := tIng 0 2 1 0x8001
      headerOk p.hdr = true ∧ plannedEpa s 0 = some p.hdr.src.toNat ∧ p.hdr.mcast = false ∧ validEpa p.hdr.dst.toNat = true ∧
      isModule p.hdr.dst.toNat = true ∧ p.hdr.dst.toNat ≠ ownEpa s) ∧
     (let p := tGrp 7
      headerOk p.hdr = true ∧ plannedEpa s 0 = some p.hdr.src.toNat ∧ p.hdr.mcast = true ∧ p.hdr.dst.toNat < 4096 ∧
      blockOfEpa s p.hdr.src.toNat = some 0 ∧ (blockOf s 0).st = .active ∧ verdict s 0 p = .replicate ∧
      (fanOut s 0 7 0).1 = [(1, 1)]) ∧
     (let p := tIng 0 0 1 1
      verdict (skewCheck s p) 0 p = .forward 1)) ∧
    (let s := { tNet .run .active with epoch := { active := false, verA := .active, loaded := true } }
     headerOk (tIng 12 0 0 0).hdr = false ∧
     (let p := { tIng 0 2 1 0x8000 with hdr := { (tIng 0 2 1 0x8000).hdr with src := 1 } }
      headerOk p.hdr = true ∧ plannedEpa s 0 ≠ some p.hdr.src.toNat) ∧
     (let p := tIng 0 0 1 0x0080
      headerOk p.hdr = true ∧ plannedEpa s 0 = some p.hdr.src.toNat ∧ p.hdr.mcast = false ∧ validEpa p.hdr.dst.toNat = false) ∧
     (let p := tIng 0 2 1 0x8000
      headerOk p.hdr = true ∧ plannedEpa s 0 = some p.hdr.src.toNat ∧ p.hdr.mcast = false ∧ validEpa p.hdr.dst.toNat = true ∧
      (isModule p.hdr.dst.toNat = false ∨ p.hdr.dst.toNat = ownEpa s) ∧
      blockOfEpa s p.hdr.src.toNat = some 0 ∧ (blockOf s 0).st = .active ∧ isAccel p.hdr.dst.toNat = false) ∧
     (let p := tIng 0 0 1 1
      blockOfEpa s p.hdr.src.toNat = some 0 ∧ (blockOf s 0).st = .active ∧ p.hdr.mcast = false ∧ isAccel p.hdr.dst.toNat = true)) ∧
    blockOfEpa (tIn .ready) (tIng 0 0 1 1).hdr.src.toNat = none ∧
    (let s := tNet .run .faulted
     blockOfEpa s 0 = some 0 ∧ (blockOf s 0).st = .faulted) ∧
    (let s := tNet .run .paused
     blockOfEpa s 0 = some 0 ∧ ((blockOf s 0).st = .loaded ∨ (blockOf s 0).st = .paused)) := by decide +kernel

theorem witness_ReceiveWindowAcceptsOnce :
    (let r : Recv := { base := 2 ^ 32 - 1, map := 2 }
     4095 < 4096 ∧ r.base < 2 ^ 32 ∧ r.map.getLsbD 1 = true) ∧
    (let s := { tNet .run .active with e2e := { recv := [(0, { base := 1 })] } }
     (tIng 0 2 1 0x8000).hdr.typ.toNat = tWRITE ∧ beyondWin s (tIng 0 2 1 0x8000).hdr = false ∧ isDup s (tIng 0 2 1 0x8000).hdr = true) ∧
    (let s := tNet .run .active
     let p := { tIng 0 2 1 0x8000 with hdr := { (tIng 0 2 1 0x8000).hdr with seq := 4095 } }
     p.hdr.typ.toNat = tWRITE ∧ beyondWin s p.hdr = false ∧ isDup s p.hdr = false) := by decide +kernel

/-- A packet of 9 cells that waits for port 0. -/
def tFl : Flight := { pkt := { hdr := { (default : Header) with len := 64 }, payload := [], trailer := 0 }, block := 0, id := 1 }

/-- A WRITE of the module to accelerator 1, sent and not yet acknowledged. -/
def tOut (tries : Nat) : OutPkt :=
  { pkt := { hdr := { (default : Header) with len := 1, dst := 1, src := 0x8000 }, payload := List.replicate 32 0, trailer := 0 }, die := 0, block := 0,
    purpose := .plain, expires := some 8000, rto := 8000, limit := 6, tries := tries, waiting := [1] }

theorem witness_QueuesOverTimeTakeEffect :
    (let e : EEntry := { fl := tFl, cells := 9, inn := 9 }
     let s := tPort .run { stage := .up, egq := [e] }
     portExists s 0 = true ∧ nextOut (portOf s 0) = some e ∧ (portOf s 0).stage = .up ∧ (portOf s 0).txIdle = false) ∧
    (let x : Held := { pkt := (tOut 0).pkt, block := 0, purpose := .plain }
     let s := { tNet .run .active with hub := [(3, { held := [x] })] }
     dpRuns s = true ∧ (hubOf s 3).held.find? (mayLeave s 3) = some x) ∧
    isAccel 127 = true ∧
    (let s := { tNet .run .active with e2e := { out := [tOut 0] } }
     s.e2e.out.find? (isOut 1 0) = some (tOut 0) ∧ (tOut 0).expires = some 8000 ∧ (tOut 5).tries < (tOut 5).limit ∧ tOut 0 ∈ s.e2e.out) ∧
    (tOut 6).limit ≤ (tOut 6).tries ∧
    (let s := { tNet .run .active with e2e := { recv := [(0, { fresh := 1 })] } }
     0 < (recvOf s 0).fresh) ∧
    (∀ h t c j, Purpose.plain ≠ .result h t c j) ∧
    (let x : Held := { pkt := (tOut 0).pkt, block := 0, purpose := .result 0 0 0 0 }
     let y : RHold := { h := 0, step := 0, chunk := 0, bytes := [], waiting := [] }
     let s := { tNet .run .active with coll := { holds := [y] } }
     x.purpose = .result 0 0 0 0 ∧ ((ueMeter s (spillBase s)).coll.holds.find? fun z => decide (z.h = 0 ∧ z.step = 0 ∧ z.chunk = 0)) = some y) :=
  ⟨by decide +kernel, by decide +kernel, by decide, by decide +kernel, by decide, by decide, (fun _ _ _ _ h => nomatch h), by decide +kernel⟩

/-- A module in Run whose overflow list of port 0 holds `n` packets of block 0. -/
def tFull (n : Nat) : State :=
  { tNet .run .active with ports := [(0, { stage := .up, check := 1, ovf := true, ovfList := List.replicate n tFl })] }

/-- 3.7 million packets fill the 8 GiB. -/
theorem tFull_fill (n : Nat) (hn : 3700000 ≤ n) : 99 ≤ ovfPct (tFull n) ∧ ovfBytes (tFull n) 0 ≠ 0 := by
  have p : (tFull n).ports = [(0, { stage := .up, check := 1, ovf := true, ovfList := List.replicate n tFl })] := rfl
  have c : cellsOf tFl.pkt = 9 := rfl
  have b : decide (tFl.block = 0) = true := rfl
  have h : ovfCells (tFull n) = n * 9 + ceilDiv n 8 := by
    unfold ovfCells
    rw [p]
    simp only [List.map_cons, List.map_nil, List.map_replicate, List.sum_replicate, List.length_replicate, List.sum_cons, List.sum_nil, c,
      smul_eq_mul, Nat.add_zero]
  have e : ovfBytes (tFull n) 0 = n * (256 * 9) := by
    unfold ovfBytes
    rw [p]
    simp only [List.map_cons, List.map_nil, List.filter_replicate, b, if_true, List.map_replicate, List.sum_replicate, List.sum_cons, List.sum_nil,
      Nat.add_zero, smul_eq_mul, c]
  have g : ovfGib (tFull n) = 8 := by
    have l : layout2 (tFull n) = 8 := rfl
    rw [ovfGib, l]
    decide
  have q : n / 8 ≤ ceilDiv n 8 := Nat.div_le_div_right (by omega)
  refine ⟨?_, by omega⟩
  rw [ovfPct, h, g, pctOf]
  have m : max 1 (8 * 4194304) = 33554432 := rfl
  rw [m]
  refine Nat.le_min.2 ⟨by decide, ?_⟩
  exact (Nat.le_div_iff_mul_le (by decide)).2 (by omega)

/-- A header cell of input 5 for output 3, of class 3, that may go. -/
def tXReq : XReq :=
  { id := 1, inp := 5, out := 3, dest := .bridge 1, trunk := false, stamp := 0, ctl := true, port := 0, multi := false, ready := true }

/-- A packet of 9 cells at input 5 of die 0 for the bridge to die 1, whose queue holds `n` packets of 9 cells. -/
def tBridge (n : Nat) : State :=
  { tNet .run .active with
    hub := [(0, { xq := [{ fl := tFl, input := 5, trunk := false, cells := 9, inn := 9, left := [(.bridge 1, 9)] }],
                  bridges := [(1, List.replicate n { fl := tFl, cells := 9, inn := 9, out := 0, dests := [] })] })] }

theorem witness_QueueMaintenanceTakesEffect :
    (let s := tPort .run { stage := .up, ovf := true, ovfList := [tFl] }
     (portOf s 0).ovfList = [tFl] ∧ tFl.bad = false ∧ egOcc (portOf s 0) + cellsOf tFl.pkt ≤ ovfOn s 0 ∧ egRoom s 0 tFl = true) ∧
    (let s := { tNet .run .active with epoch := { verA := .draining, verB := .active, active := true, sealed := true } }
     s.epoch.sealed = true ∧ s.epoch.verA = .draining ∧ inFlight s false = 0 ∧ (tNet .run .active).epoch.sealed = false) ∧
    (let m : XMatch := { gPtr := List.replicate 32 0, aPtr := List.replicate 32 0 }
     (m.acc.map XReq.out).Nodup ∧ tXReq ∈ (iterate {} none [tXReq] true m).acc ∧ grantOf {} none [tXReq] m 3 = some (tXReq, 0) ∧
     headReq {} [tXReq] 5 3 = some tXReq ∧ tXReq.ctl = true) ∧
    (let s := tBridge 56
     let e : XEntry := { fl := tFl, input := 5, trunk := false, cells := 9, inn := 9, left := [(.bridge 1, 9)] }
     (hubOf s 0).xq.find? (fun e => decide (e.fl.id = tXReq.id)) = some e ∧ (e.left.find? fun x => decide (x.1 = tXReq.dest)) = some (.bridge 1, 9) ∧
     cellEligible s 0 e (.bridge 1, 9) = false) ∧
    ((portOf (tPort .run { stage := .listen }) 0).stage ≠ .up ∧
     (let s := tPort .run { stage := .up, ovf := true }
      (portOf s 0).stage = .up ∧ diverts s 0 9 = true) ∧
     (let s := tPort .run { stage := .up }
      (portOf s 0).stage = .up ∧ diverts s 0 9 = false)) ∧
    (let s := { tNet .run .active with
       nv := { State.reset.nv with steady := true },
       hub := [(0, { xq := [{ fl := tFl, input := 5, trunk := false, cells := 9, inn := 2, left := [(.bridge 1, 7)] }] })] }
     steady s = true ∧ (∀ e ∈ (hubOf s 0).xq, holdsCell e = false) ∧ 31 < 32 ∧ steady (tNet .run .active) = false) ∧
    (let s := tPort .run { stage := .up, ovf := true, ovfList := [tFl] }
     portExists s 0 = true ∧ (portOf s 0).ovf = true ∧ egOcc (portOf s 0) < drainLow s 0 ∧ (portOf s 0).stage = .up ∧ dpRuns s = true) ∧
    (let s := tFull 3700000
     (99 ≤ ovfPct s ∧ ovfBytes s 0 ≠ 0) ∧ minBy (fun b => -(ovfBytes s b : Int)) (loadedBlocks s) = some 0 ∧ s.lard.lastOvfFault = none) :=
  ⟨by decide +kernel, by decide +kernel, by decide +kernel, by decide +kernel, by decide +kernel, by decide +kernel,
    by decide +kernel, tFull_fill _ (by decide), rfl, rfl⟩

theorem witness_StepBoundariesAdvanceBlocks :
    (let s := { tNet .run .active with blocks := [(0, { st := .active, dx := 1, dy := 1, dz := 2, pause := true, close := some (2 ^ 48 - 1) })] }
     (blockOf s 0).st = .active ∧ (blockOf s 0).pause = true ∧ (blockOf s 0).close = some (2 ^ 48 - 1) ∧ quiescent s 0 = true) ∧
    (let s := tNet .run .active
     (blockOf s 0).st = .active ∧ (blockOf s 0).pause = false ∧ s.mod.st ≠ .drain ∧ (blockOf s 0).close = none) ∧
    (let s := { tNet .run .active with
       blocks := [(0, { st := .active, dx := 1, dy := 1, dz := 2, close := some 0 })], e2e := { out := [tOut 0] } }
     (blockOf s 0).close = some 0 ∧ quiescent s 0 = false) := by decide +kernel

/-- A slot of harness 0 on a die. -/
def tSlot (d : Nat) (ready : Bool) : RSlot :=
  { key := { die := d, h := 0, step := 0, chunk := 0 }, seen := [0], count := 1, elems := List.replicate 32 .negZero, ready := ready }

/-- A spilled leaf state. -/
def tLeaf : CItem := { rank := 256, leaf := true }

/-- A spill region with `n` leaf states, and 200 contributions of 9 cells that wait on port 0. -/
def tSpilt (n : Nat) : State :=
  { tHarn .run .active with
    harn := [(0, { loaded := true })],
    coll := { spills := [{ key := { die := 0, h := 0, step := 0, chunk := 0 }, items := List.replicate n tLeaf }] },
    localQ := List.replicate 200
      { port := 0, block := 0, pkt := { hdr := { (default : Header) with typ := 5, len := 64 }, payload := [], trailer := 0 }, check := [] } }

/-- A leaf state takes 160 cells of the region. -/
theorem tSpilt_cells (n : Nat) : spillCells (tSpilt n) = n * 160 := by
  have e : itemCells tLeaf = 160 := rfl
  have c : (tSpilt n).lard.cells = [] := rfl
  have p : (tSpilt n).coll.spills = [{ key := { die := 0, h := 0, step := 0, chunk := 0 }, items := List.replicate n tLeaf }] := rfl
  have q : (tSpilt n).coll.early = [] := rfl
  have r : (tSpilt n).coll.holds = [] := rfl
  unfold spillCells spillOf
  rw [c, p, q, r]
  simp only [List.append_nil, List.map_cons, List.map_nil, if_true, List.map_replicate, List.sum_replicate, List.sum_cons, List.sum_nil, e,
    smul_eq_mul, Nat.add_zero, List.length_nil]
  rfl

theorem tSpilt_gib (n : Nat) : spillGib (tSpilt n) = 16 := by
  have l : layout1 (tSpilt n) = 64 + 8 * 65536 + 16 * 16777216 := rfl
  rw [spillGib, l]
  decide

/-- 419,431 leaf states fill the 16 GiB, and leave room for no item. -/
theorem tSpilt_full (n : Nat) (hn : 419430 < n) : spillFull (tSpilt n) = true ∧ ∀ i, spillRoom (tSpilt n) i = false := by
  rw [spillFull, tSpilt_cells, tSpilt_gib]
  refine ⟨by simp only [decide_eq_true_eq]; omega, fun i => ?_⟩
  rw [spillRoom, tSpilt_cells, tSpilt_gib]
  simp only [decide_eq_false_iff_not]
  omega

theorem witness_CollectiveRowsTakeEffect :
    (let k : CKey := { die := 1, h := 0, step := 0, chunk := 0 }
     let s := { tHarn .run .active with harn := [(0, { loaded := true })], coll := { slots := [tSlot 1 true] } }
     dpRuns s = true ∧ slotAt s k = some (tSlot 1 true) ∧ (tSlot 1 true).ready = true ∧ harnFast s 0 = false ∧
     bridgeUse s 1 (treeRoot 0) + leafCells s (tSlot 1 true) ≤ 512 ∧ (blockOf s (harnOwner s 0)).st = .active) ∧
    (let k : CKey := { die := 1, h := 0, step := 0, chunk := 0 }
     let f := (5, k, leafItem (tSlot 1 true))
     let s := { tHarn .run .active with harn := [(0, { loaded := true })], coll := { flight := [f] } }
     dpRuns s = true ∧ (s.coll.flight.find? fun f => decide (f.2.1 = k)) = some f ∧ needsSpill s { k with die := treeRoot 0 } = false) ∧
    (let s := tSpilt 419431
     spillFull s = true ∧ portExists s 0 = true ∧ scaleCells s 0 (ingDivert s (dieOf s 0)) < waitCells s 0 ∧
     minBy (fun b => -(spillCharge s b : Int)) (loadedBlocks s) = some 0 ∧ s.coll.lastSpillFault = none) :=
  ⟨by decide +kernel, by decide +kernel, (tSpilt_full _ (by decide)).1, by decide +kernel, by decide +kernel, rfl, rfl⟩

/-- A whole contribution of chunk 0 from accelerator `e`. -/
def tContribPkt (e : U16) : Packet :=
  let p := tIng 5 1 4 0x8000
  { p with hdr := { p.hdr with src := e } }

/-- It on the local path of port 0. -/
def tTake (e : U16) : LocalWait := { port := 0, block := 0, pkt := tContribPkt e, check := [] }

/-- Whether a contribution's check gives its chunk. -/
def tKey (s : State) (w : LocalWait) : Option (CKey × CItem) :=
  match contribCheck s (dieOf s w.port) w.pkt with | .key k i => some (k, i) | _ => none

theorem witness_ContributionsAreAddedOncePerRank :
    (let s := { tHarn .run .active with harn := [(0, { loaded := true, expect := [1, 0, 0, 0] })] }
     (harnOf s 0).loaded = true ∧ ((tContribPkt 0).hdr.step.toNat + 65536 - (harnOf s 0).base % 65536) % 65536 < 4 ∧
     contribCheck (tHarn .run .active) (dieOf s 0) (tContribPkt 0) = .refused .noHarness ∧
     contribCheck s (dieOf s 0) (tContribPkt 1) = .fault evCollNotMember ∧
     (tKey s (tTake 0)).any (fun x => !needsSpill s x.1) = true) ∧
    ((tKey (tSpilt 419431) (tTake 0)).any (fun x => needsSpill (tSpilt 419431) x.1) = true ∧ ∀ i, spillRoom (tSpilt 419431) i = false) ∧
    (blockOf (tNet .run .faulted) (tTake 0).block).st = .faulted ∧
    (harnOf (tHarn .run .active) (bits (tIng 5 1 1 0x8000).hdr.op.toNat 0 10)).loaded = false ∧
    (let s := { tHarn .run .active with harn := [(0, { loaded := true, expect := [1, 0, 0, 0] })], coll := { slots := [tSlot 0 false, tSlot 1 false] } }
     let p := { tIng 5 1 1 0x8000 with hdr := { (tIng 5 1 1 0x8000).hdr with step := 4 } }
     (harnOf s 0).loaded = true ∧ 4 ≤ (p.hdr.step.toNat + 65536 - (harnOf s 0).base % 65536) % 65536 ∧
     slotAt s (tSlot 0 false).key = some (tSlot 0 false) ∧ (tSlot 0 false).seen.contains 0 = true ∧ (tSlot 0 false).seen.contains 1 = false ∧
     harnOp s 0 = 0 ∧ harnFast s 0 = false ∧ residueFails s (tSlot 0 false) .ok { rank := 1 } = false ∧ LadleCheck.ok ≠ .memory ∧ (tSlot 0 false).count ≠ expected s (tSlot 0 false).key ∧
     inWindow s 0 2 = false) ∧
    (let x : RSlot := { tSlot 0 false with elems := [.fin 1] }
     let s := { tHarn .run .active with harn := [(0, { loaded := true })], coll := { slots := [x] } }
     slotAt s x.key = some x ∧ residueFails s x (.upset 0 1) { rank := 1, elems := [.fin 1] } = true ∧ x.seen.contains 1 = false) ∧
    (let s := { tHarn .run .active with harn := [(0, { loaded := true, expect := [0, 1, 0, 0] })], coll := { slots := [tSlot 1 false] } }
     slotAt s (tSlot 1 false).key = some (tSlot 1 false) ∧ (tSlot 1 false).count = expected s (tSlot 1 false).key ∧
     (tSlot 1 false).ready = false ∧ (tSlot 1 false).key.die ≠ treeRoot (tSlot 1 false).key.chunk) :=
  ⟨by decide +kernel, ⟨by decide +kernel, (tSpilt_full _ (by decide)).2⟩, by decide +kernel⟩

/-- A descriptor of engine `e` whose flags are `fl` and whose bytes from 16 on are `b`. -/
def tDesc (e op fl : Nat) (b : List Byte) : Desc :=
  { bytes := leBytes 1 op ++ leBytes 1 fl ++ List.replicate 14 0 ++ b ++ List.replicate (48 - b.length) 0, engine := e, t := tT, image := 5, block := 0,
    at_ := 0, id := 0 }

/-- An 8-byte CRC64 in the thread's scratch. -/
def tCrc (fl : Nat) : Desc :=
  tDesc 4 0 fl (leBytes 4 0 ++ leBytes 4 8 ++ leBytes 8 0x7FFF000000000200 ++ leBytes 8 0x7FFF000000000300)

/-- A module in Run whose engine `d.engine` of die 0 has `d` at the front of its queue. -/
def tEng (d : Desc) : State :=
  { tRun [] with eng := [(d.engine, { queue := [d] })], harn := [(0, { loaded := true })], regs := (tHarn .run .active).regs }

theorem witness_DescriptorsAreAcceptedAndCompleted :
    (let s := { tRun [] with
       thr := [(thrKey tT, { live := true, image := 5, sleep := .submit 4 0x7FFF000000000100 })],
       scratch := Mem.write [] (scratchKey tT 0x100) (tCrc 0).bytes }
     dpRuns s = true ∧
     (((submitters s 0).filterMap (submitted s 4)).find? fun x => acceptRoom s x.1) = some (tCrc 0, 0x7FFF000000000100) ∧
     acceptFault s (tCrc 0) 0x7FFF000000000100 = none) ∧
    ((((submitters (tRun []) 0).filterMap (submitted (tRun []) 4)).find? fun x => acceptRoom (tRun []) x.1) = none) ∧
    (let s := { tRun [] with hub := [(0, { waitPool := [tCrc 2] })] }
     dpRuns s = true ∧
     ((hubOf s 0).waitPool.find? fun d => waitDone s d && decide ((engOf s 0 d.engine).queue.length < 64)) = some (tCrc 2) ∧
     minBy (fun d => ((d.at_ + 1000 * (imgOf s d.image).waitUs : Nat) : Int)) (hubOf s 0).waitPool = some (tCrc 2)) ∧
    (let s := { tRun [] with eng := [(4, { exec := some (tCrc 1, 8) })] }
     dpRuns s = true ∧ (engOf s 0 4).exec = some (tCrc 1, 8) ∧ putPending s 0 (tCrc 1).id = false) := by decide +kernel

/-- A CONTRIB of rank 1 to chunk 0 of harness 0. -/
def tContrib : Desc :=
  tDesc 0 0 0 (leBytes 2 0 ++ leBytes 1 1 ++ leBytes 1 0 ++ leBytes 4 0 ++ leBytes 4 0 ++ leBytes 4 0 ++ leBytes 8 0x7FFF000000000200)

/-- An exact accumulation `op` over one FP32 element with its state in the thread's scratch. -/
def tAcc (op : Nat) : Desc :=
  tDesc 0 op 0 (leBytes 4 0 ++ leBytes 4 1 ++ leBytes 8 (if op = 2 then 0x7FFF000000000200 else 0) ++
    leBytes 8 (if op = 3 then 0x7FFF000000000300 else 0) ++ leBytes 8 0x7FFF000000000400)

theorem witness_LadleDescriptorsTakeEffect :
    (let d := tContrib
     let s := tEng d
     let k : CKey := { die := treeRoot (fld d 24 4), h := cHarn d, step := ((harnOf s (cHarn d)).base + cDist s d) % 2 ^ 48, chunk := fld d 24 4 }
     fieldsBad s d = false ∧ engTake s 0 0 0 = some d ∧ (readSpans s d).findSome? (engBad s d) = none ∧ cDist s d < 4 ∧
     (harnOf s (cHarn d)).formed.contains (k.step, fld d 24 4) = false ∧ harnFast s (cHarn d) = false ∧ needsSpill s k = false) ∧
    (fieldsBad (tEng (tAcc 1)) (tAcc 1) = false ∧ engTake (tEng (tAcc 1)) 0 0 1 = some (tAcc 1) ∧ readSpans (tEng (tAcc 1)) (tAcc 1) = []) ∧
    (let d := tAcc 2
     let s := tEng d
     fieldsBad s d = false ∧ engTake s 0 0 2 = some d ∧ (readSpans s d).findSome? (engBad s d) = none ∧ accStates s d = .inl [.fin 0] ∧
     (∀ e ∈ enum ([Acc.fin 0].zip (decodeChunk (accFmt d) (accN d) (engRead s d (fld d 24 8) (vecSize (accFmt d) (accN d))))),
       residueMiss .ok e.1 e.2.1 e.2.2 = false) ∧ LadleCheck.ok ≠ .memory) ∧
    (let d := tAcc 2
     let s := { tEng d with scratch := Mem.write [] (scratchKey tT 0x400) (leBytes 40 (2 ^ 311)) }
     (accStates s d).isRight = true) ∧
    (let d := tAcc 3
     let s := tEng d
     fieldsBad s d = false ∧ engTake s 0 0 3 = some d ∧ (readSpans s d).findSome? (engBad s d) = none ∧ (accStates s d).isLeft = true) := by
  decide +kernel

/-- A Sieve operation over two 4-byte records. -/
def tSieve (op : Nat) : Desc :=
  tDesc 1 op 0 (leBytes 4 0 ++ leBytes 4 2 ++ leBytes 4 (if op = 0 then 2 else if op = 3 then 1 else 0) ++ leBytes 4 0 ++
    leBytes 8 0x7FFF000000000200 ++ leBytes 8 0x7FFF000000000300)

/-- A GATHER or SCATTER of one 32-byte element, or a paged move of one 32-byte token. -/
def tTongs (op : Nat) : Desc :=
  tDesc 2 op 0 (leBytes 2 32 ++ leBytes 1 (if op < 2 then 0 else 12) ++ leBytes 1 0 ++ leBytes 4 1 ++
    leBytes 8 (if op < 2 then 0x7FFF000000000200 else 0) ++ leBytes 8 0x7FFF000000000400 ++ leBytes 8 0x7FFF000000000300 ++
    leBytes 4 (if op < 2 then 32 else 0))

/-- Whether a descriptor with good fields stands at the front of its idle engine and reads no marked unit. -/
def tTakes (d : Desc) : Bool :=
  let s := tEng d
  !fieldsBad s d && decide (engTake s 0 d.engine (opOf d) = some d) && ((readSpans s d).findSome? (engBad s d)).isNone

/-- `tEng` with a heap of 1 MiB at the larder's 1 GiB, whose first unit is bad, and a page list that names its first page. -/
def tPaged (d : Desc) : State :=
  { tEng d with
    img := [(5, { st := 1, owner := 0, item := 1, clusters := [0], entries := [(0x1000, 1)], depth := 4, heapBase := 0x40000000, heapBytes := 0x100000 })],
    scratch := Mem.write [] (scratchKey tT 0x400) (leBytes 8 0x7FFF010040000000),
    lard := { State.reset.lard with badUnits := [0x40000020] } }

/-- An index operation over one 32-byte element of `base` and the buffer `buf`. -/
def tIndex (op base buf : Nat) : Desc :=
  tDesc 2 op 0 (leBytes 2 32 ++ [0, 0] ++ leBytes 4 1 ++ leBytes 8 base ++ leBytes 8 0x7FFF000000000500 ++ leBytes 8 buf ++ leBytes 4 32)

theorem witness_SieveAndTongsDescriptorsTakeEffect :
    (let d := tTongs 1
     let s := tEng d
     engOk s d (idxPlace s d 0) (tEl d) 1 = true ∧ engBad s d (fld d 40 8 + 0 * tEl d, tEl d) = none) ∧
    (let d := tIndex 1 0x7FFF000000000200 0x7FFF010040000020
     let s := tPaged d
     engOk s d (idxPlace s d 0) (tEl d) 1 = true ∧ (engBad s d (fld d 40 8 + 0 * tEl d, tEl d)).isSome = true) ∧
    (let d := tIndex 0 0x7FFF010040000020 0x7FFF000000000300
     let s := tPaged d
     engOk s d (idxPlace s d 0) (tEl d) 0 = true ∧ (engBad s d (idxPlace s d 0, tEl d)).isSome = true) ∧
    (let d := tTongs 2
     let s := tPaged d
     let e := getLe (engRead s d (fld d 32 8) 8) 0 8
     (some (0, e) = none ∨ some (0, e) = some (0, e)) ∧ pageOk s d e 0 = true ∧ engBad s d (e, tEl d) = none) ∧
    (let d := tTongs 3
     let s := { tPaged d with
       winEff := [(0, { base := 0x00010001, ctl := 3 })] }
     let e := getLe (engRead s d (fld d 32 8) 8) 0 8
     pageOk s d e 1 = true ∧ engBad s d (fld d 40 8 + 0 * tEl d, tEl d) = none) ∧
    ((List.range 4).all fun op => tTakes (tSieve op) && tTakes (tTongs op)) = true ∧
    (let d := tTongs 0
     let s := tEng d
     engOk s d (idxPlace s d 0) (tEl d) 0 = true ∧ engBad s d (idxPlace s d 0, tEl d) = none) ∧
    (let d := tTongs 0
     let s := { tEng d with scratch := Mem.write [] (scratchKey tT 0x400) (leBytes 4 0x200) }
     engOk s d (idxPlace s d 0) (tEl d) (b2n false) = false) ∧
    (let d := tTongs 2
     let s := tEng d
     pageOk s d (getLe (engRead s d (fld d 32 8) 8) 0 8) (b2n false) = false) := by decide +kernel

theorem witness_WhiskCheckAndPutTakeEffect :
    (-64 ≤ (-64 : Int) ∧ (List.replicate 32 (0 : Byte)).length ≤ 2048 * 1) ∧
    tTakes (tDesc 3 0 0 (leBytes 4 0 ++ leBytes 4 32 ++ leBytes 8 0x7FFF000000000200 ++ leBytes 8 0x7FFF000000000300)) = true ∧
    tTakes (tCrc 0) = true ∧
    tTakes (tDesc 4 1 0 (leBytes 1 0 ++ leBytes 1 64 ++ leBytes 2 0 ++ leBytes 4 1 ++ leBytes 8 0x7FFF000000000200 ++ leBytes 8 0x7FFF000000000300)) = true ∧
    tTakes (tDesc 4 2 0 (leBytes 4 0 ++ leBytes 4 32 ++ leBytes 8 0x7FFF000000000200 ++ leBytes 8 0x7FFF000000000300)) = true ∧
    tTakes (tDesc 5 0 0 (leBytes 4 1 ++ leBytes 4 32 ++ leBytes 8 0x7FFF000000000200 ++ leBytes 8 0)) = true := by decide +kernel

theorem witness_StepRunsTheFrontCommand :
    (let s := { tIn .standby with pending := [.rstdaa, .getpid] }
     s.pending = .rstdaa :: [.getpid] ∧ ∃ t, exec .rstdaa s = .next t) ∧ State.reset.pending = [] := ⟨⟨rfl, _, rfl⟩, rfl⟩

theorem witness_StepsKeepMemoryCanonical :
    (let s := { tRun [] with pending := [.rstdaa], scratch := [(1, 2)] }
     MemoryCanonical s ∧ (∃ t, step s = .next t) ∧ ∃ t, Sys2Proof.core.run 2 s = .next t) :=
  ⟨by decide, ⟨_, rfl⟩, _, rfl⟩

theorem witness_StepsNoteTheAlertByte :
    (let s := { tRun [] with pending := [.rstdaa] }
     RunHasActive s ∧ s.mod.st = .run ∧ ∃ t, step s = .next t ∧ t.mod.st = .run) ∧
    (let s := { State.reset with pending := [.rstdaa] }
     s.pending = .rstdaa :: [] ∧ AlertNoted s ∧ (∃ t, step s = .next t) ∧ ∃ t, Sys2Proof.core.run 2 s = .next t) :=
  ⟨⟨by decide, rfl, _, rfl, rfl⟩, rfl, by decide, ⟨_, rfl⟩, _, rfl⟩

theorem witness_RefusedCommandsAnswerAStatusAlone :
    (let s := { tIn .standby with mgmt := {} }
     lonusOf (.idOwnerSet 3 []) = some (3, 0x0110) ∧ s.mod.st ≠ .off ∧ mayStart s 3 0x0110 = true ∧ precheck s 0x0110 = some .noPresence ∧
     cmdRow 0x0110 = some (26, true, true) ∧ s.mod.bootRom = false ∧ s.lonus.orphan = false ∧ bit 26 (stateCode s.mod.st) = true ∧
     s.mgmt.opened = false ∧ s.lonus.opened = true ∧ cmdOf s 3 = none) ∧
    (State.reset.mod.st = .off ∨ mayStart State.reset 3 0x0110 = false) ∧
    (let s := { tIn .standby with mod := { st := .standby, bootRom := true } }
     s.mod.bootRom = true ∧ 0x0110 ∉ bootCmds ∧ cmdRow 0x0110 ≠ none) ∧
    (let s := { tIn .run with lonus := { orphan := true } }
     cmdRow 0x0201 = some (182, false, false) ∧ s.lonus.orphan = true ∧ s.lonus.opened = false) ∧
    (let s := { tIn .run with lonus := { opened := true, outstanding := [tBulk] } }
     cmdOf s 3 = some tBulk ∧ tBulk.session ≠ s.lonus.session ∧ (0x0502 : Nat) ≠ 0x0240 ∧ mayStart s 3 0x0502 = false ∧ (s.mod.st = .off ∨ mayStart s 3 0x0502 = false)) ∧
    (let s := { tIn .run with lonus := { opened := true, session := 1, outstanding := [tBulk] } }
     s.lonus.opened = true ∧ (cmdOf s 3 = none ∨ ∃ c, cmdOf s 3 = some c ∧ c.session = s.lonus.session)) := by
  refine ⟨by decide, by decide, by decide, by decide, by decide, rfl, Or.inr ⟨tBulk, rfl, rfl⟩⟩

theorem witness_HeadersAndTrailersRoundTrip :
    (List.replicate 2048 (0 : Byte)).length % 32 = 0 ∧ (List.replicate 2048 (0 : Byte)).length ≤ 2048 := by
  rw [List.length_replicate]
  decide

theorem witness_StateAdditionFollowsItsTable :
    ((Acc.nan = .nan ∨ Acc.pInf = .nan) ∧ ((Acc.pInf = .pInf ∧ Acc.nInf = .nInf) ∨ (Acc.pInf = .nInf ∧ Acc.nInf = .pInf))) ∧
    (Acc.pInf ≠ .nan ∧ Acc.negZero ≠ .nan ∧ (Acc.pInf ≠ .pInf ∨ Acc.negZero ≠ .nInf) ∧ (Acc.pInf ≠ .nInf ∨ Acc.negZero ≠ .pInf)) ∧
    (-(2 ^ 310) ≤ (2 ^ 310 - 1 : Int) + 0 ∧ (2 ^ 310 - 1 : Int) + 0 < 2 ^ 310) ∧ (2 ^ 310 : Int) ≤ 2 ^ 310 + 0 ∧
    (-(2 ^ 310) - 1 : Int) + 0 < -(2 ^ 310) := by decide

theorem witness_SlotSumsAreOrderFree :
    [Acc.fin 1, .fin (-1), .negZero].Perm [.negZero, .fin 1, .fin (-1)] ∧ [Acc.fin 1, .fin (-1), .negZero].length ≤ 256 ∧
    (∀ a, Acc.fin a ∈ [Acc.fin 1, .fin (-1), .negZero] → a.natAbs < 2 ^ 292) := by
  refine ⟨by decide, by decide, fun a h => ?_⟩
  rcases List.mem_cons.1 h with h | h
  · cases h; decide
  · rcases List.mem_cons.1 h with h | h
    · cases h; decide
    · rcases List.mem_cons.1 h with h | h <;> cases h

theorem witness_CountSlotsSaturateAndFault :
    (let c : CSlot := { bytes := 2 ^ 40 - 1, packets := 2 ^ 23 - 1 }
     c.bytes < 2 ^ 40 ∧ c.packets < 2 ^ 23) ∧
    (let s := { tNet .run .active with cslots := [(63, { bytes := 2 ^ 40 - 33, packets := 2 ^ 23 - 2 })] }
     (slotOf s 63).bytes + 32 ≤ 2 ^ 40 - 1 ∧ (slotOf s 63).packets + 1 ≤ 2 ^ 23 - 1 ∧
     ((slotOf s 63).bytes + 33 > 2 ^ 40 - 1 ∨ (slotOf s 63).packets + 1 > 2 ^ 23 - 1) ∧ (blockOf s 0).st ≠ .unloaded ∧
     (blockOf s 0).st ≠ .faulted) := by decide

theorem witness_EndpointAddressLayout :
    ({ tIn .ready with mod := { st := .ready, plane := 15 } } : State).mod.plane < 16 := by decide

theorem witness_PlansRoundTrip :
    (let p := { tPlan with edits := 65535, planId := 2 ^ 64 - 1 }
     p.plane < 256 ∧ p.rackPos < 256 ∧ p.edits < 65536 ∧ p.planId < 2 ^ 64 ∧ p.widths.length = 16 ∧ (∀ w ∈ p.widths, w < 4) ∧
     p.entries.length = 256 ∧ (∀ e ∈ p.entries, e.epa < 65536 ∧ e.state < 256 ∧ e.partnerPort < 256)) := by decide

-- Ill-formed commands: one for each check and each bound, which the check refuses

/-- A read request's header with no payload. -/
def tHdr : Header :=
  { typ := 1, tclass := 1, epoch := false, mcast := false, last := true, mark := false, resend := false, rsvd := 0, len := 0, dst := 0x8000,
    src := 1, seq := 0, ctag := 0, op := 0, addr := 0, step := 0, chunk := 0, aux := 0 }

/-- A job's parameters with the block number `b`, the slot count `c` and the first step `v`. -/
def tParams (b c v : Nat) : JobParams :=
  { block := b, x0 := 0, y0 := 0, z0 := 0, dx := 1, dy := 1, dz := 2, seed := 0, firstStep := v, cslotBase := 0, cslotCount := c }

theorem test_wellFormed_accepts :
    (Instr.stateGet 65535).wellFormed = true ∧ (Instr.idQuote 1 (List.replicate 32 0)).wellFormed = true ∧
    (Instr.regWrite 1 0x50000010 1 [0]).wellFormed = true ∧ (Instr.jobLoad 1 (tParams 127 0 0)).wellFormed = true ∧
    (Instr.readReq 255 ⟨tHdr, [], 0⟩).wellFormed = true ∧ (Instr.tzYield ⟨3, 97, 63, 3⟩).wellFormed = true := by decide

theorem test_wellFormed_refuses_words :
    (Instr.stateGet 65536).wellFormed = false ∧ (Instr.stateSet 1 65536).wellFormed = false ∧
    (Instr.regRead 1 (2 ^ 32) 1 0).wellFormed = false ∧ (Instr.regRead 1 0 65536 0).wellFormed = false ∧
    (Instr.larderRead 1 (2 ^ 64) 8 .ok).wellFormed = false ∧ (Instr.larderRead 1 0 (2 ^ 32) .ok).wellFormed = false ∧
    (Instr.jobStepClose 1 0 (2 ^ 64)).wellFormed = false ∧ (Instr.leafStateSend 0 0 (2 ^ 48) 0 .ok []).wellFormed = false ∧
    (Instr.heartbeat 1 (2 ^ 32)).wellFormed = false := by decide

theorem test_wellFormed_refuses_lengths :
    (Instr.idQuote 1 (List.replicate 31 0)).wellFormed = false ∧ (Instr.regWrite 1 0 2 [0]).wellFormed = false ∧
    (Instr.readReq 0 ⟨tHdr, [0], 0⟩).wellFormed = false ∧
    (Instr.commandFrame { tFrame 1 0x0202 0 true [] with length := 8 }).wellFormed = false ∧
    (Instr.bulkFrame { tFrame 5 0x0502 0 true [1] with length := 0 }).wellFormed = false := by decide

theorem test_wellFormed_refuses_units :
    (Instr.crossbarCellTime 4).wellFormed = false ∧ (Instr.packetTransmit 256).wellFormed = false ∧
    (Instr.bitSlipSearch 512 none).wellFormed = false ∧ (Instr.eyeScanDone 16 []).wellFormed = false ∧
    (Instr.thermalHold 40).wellFormed = false ∧ (Instr.thermalTrip 0 2 0).wellFormed = false ∧ (Instr.leak 2).wellFormed = false ∧
    (Instr.descriptorAccept 0 6 .ok).wellFormed = false ∧ (Instr.larderRequestPart 6 .ok .ok).wellFormed = false ∧
    (Instr.refreshSlot 12 0 0 0 .ok).wellFormed = false ∧ (Instr.refreshSlot 0 32 0 0 .ok).wellFormed = false ∧
    (Instr.launchGroupStart 1024 .ok).wellFormed = false ∧ (Instr.brakeIncrease 0 128).wellFormed = false ∧
    (Instr.entdaa 128).wellFormed = false ∧ (Instr.tzAxle tT 32).wellFormed = false := by decide

theorem test_wellFormed_refuses_records :
    (Instr.tzYield ⟨4, 0, 0, 0⟩).wellFormed = false ∧ (Instr.tzYield ⟨0, 98, 0, 0⟩).wellFormed = false ∧
    (Instr.tzYield ⟨0, 0, 64, 0⟩).wellFormed = false ∧ (Instr.tzYield ⟨0, 0, 0, 4⟩).wellFormed = false ∧
    (Instr.jobLoad 1 (tParams 65536 0 0)).wellFormed = false ∧ (Instr.jobLoad 1 (tParams 0 65536 0)).wellFormed = false ∧
    (Instr.jobLoad 1 (tParams 0 0 (2 ^ 64))).wellFormed = false ∧
    (Instr.repairMark 1 ⟨65536, 0⟩).wellFormed = false ∧ (Instr.repairMark 1 ⟨0, 2 ^ 32⟩).wellFormed = false ∧
    (Instr.recordStart 1 ⟨0, 65536, 0, 0, 0, none⟩).wellFormed = false ∧
    (Instr.recordStart 1 ⟨0, 1, 0, 0, 0, some (2 ^ 48)⟩).wellFormed = false := by decide

-- The specification's worked examples

/-- The header of 03's example: a plain larder write of block 12. -/
def tWriteHdr : Header :=
  { typ := 0, tclass := 2, epoch := true, mcast := false, last := true, mark := false, resend := false, rsvd := 0, len := 64, dst := 0x8009,
    src := 0x001B, seq := 0x107, ctag := 0x8123, op := 0, addr := 0x000480000000, step := 0x02A1, chunk := 0, aux := 0 }

/-- 03, example: the header bytes 0 to 31 on the wire, and back. -/
theorem test_header_bytes :
    headerBytes tWriteHdr =
      [0x60, 0x01, 0x40, 0x00, 0x09, 0x80, 0x1B, 0x00, 0x07, 0x01, 0x00, 0x00, 0x23, 0x81, 0x00, 0x00,
       0x00, 0x00, 0x00, 0x80, 0x04, 0x00, 0xA1, 0x02, 0x00, 0x00, 0x00, 0x00, 0x00, 0x00, 0x00, 0x00] ∧
    headerOf (headerBytes tWriteHdr) = tWriteHdr ∧ ctagSlot 0x8123 = some 0x0123 := by decide

/-- 03, example: the ACK's ctl word, and the slot word of 2 packets and 4,096 bytes. -/
theorem test_ack_ctl_and_slot_word :
    ctlOf { tWriteHdr with typ := 8, tclass := 3, mark := true } = 0x0378 ∧
    (cslotOfWord 0x0000020000001000).packets = 2 ∧ (cslotOfWord 0x0000020000001000).bytes = 4096 ∧
    cslotWord (cslotOfWord 0x0000020000001000) = 0x0000020000001000 := by decide

/-- 02 R27: the accelerator at (5, 2, 3) is 0x5B. -/
theorem test_epa : epaX 0x5B = 5 ∧ epaY 0x5B = 2 ∧ epaZ 0x5B = 3 ∧ isAccel 0x5B = true := by decide

/-- 02, example: cluster 37 of H2 at local offset 0x0001_24A0_0000, and larder location 102 GiB. -/
theorem test_local_map :
    localPlace State.reset tT 0x000124A00000 = .cmem (cmemKey 2 37 0) false ∧
    placeOf State.reset tT 0x7FFF011980000000 = .larder (102 * gib) none := by decide +kernel

/-- 10, example: larder address 0x19_8000_0300 on each grade. -/
theorem test_larder_decode :
    (let s := { State.reset with fixed := { State.reset.fixed with grade := .h12 } }
     lardDie s 0x1980000300 = 3 ∧ lardStack s 0x1980000300 = 6 ∧ lardPc s 0x1980000300 = 0) ∧
    (let s := { State.reset with fixed := { State.reset.fixed with grade := .h6 } }
     lardDie s 0x1980000300 = 0 ∧ lardStack s 0x1980000300 = 1 ∧ lardPc s 0x1980000300 = 0) := by decide +kernel

/-- 07, example: 256 + 1 + 1 in BF16, made exact. -/
theorem test_exact_sum :
    roundOut (accAdd (accAdd (convert 1 0x4380 127) (convert 1 0x3F80 127)) (convert 1 0x3F80 127)) 1 none = 0x4381 ∧
    accAdd (accAdd (convert 1 0x4380 127) (convert 1 0x3F80 127)) (convert 1 0x3F80 127) = .fin (2 ^ 157 + 2 ^ 150) := by decide +kernel

/-- 07, example: the generator value, and the stochastic rounding of 1.296875 to E4M3 against nearest-even. -/
theorem test_stochastic_rounding :
    rand32 0x0000002A00000007 0x0131 0x028 0x805 = 0x5E98735D ∧
    roundOut (.fin (0x298 * 2 ^ 140)) 3 (some 0x5E98735D) = 0x3B ∧ roundOut (.fin (0x298 * 2 ^ 140)) 3 none = 0x3A := by decide +kernel

/-- 07, example: the sum-checks of members a, b and c and of the exact sum. -/
theorem test_sum_check :
    sumCheck [convert 1 0x3F80 127, convert 1 0x4000 127] = 0x86A00005 ∧ sumCheck [convert 1 0xBF80 127, convert 1 0x3F00 127] = 0 ∧
    sumCheck [convert 1 0x3F00 127, convert 1 0xBF00 127] = 0xD8EFFFFB ∧ sumCheck [convert 1 0x3F00 127, convert 1 0x4000 127] = 0x5F900005 := by
  decide +kernel

/-- 09, example: E4M3 0x3B and 0x81 as BF16. -/
theorem test_convert_e4m3 :
    roundOut (convert 3 0x3B 127) 1 none = 0x3FB0 ∧ roundOut (convert 3 0x81 127) 1 none = 0xBB00 := by decide +kernel

/-- 08: the word of TZ.WAIT a0, a1, a2. -/
theorem test_tz_wait_word : decInstr 0x00C5A50B = some (.tz .wait 10 11 12) := by decide

/-- The timing message of 13's example: t3 1,000,500, t1 1,000,000 and t2 1,000,013. -/
def tTiming : List Byte :=
  let m : List Byte := [2, 0, 0, 0, 0, 0, 0, 0] ++ leBytes 8 1000500 ++ leBytes 8 1000000 ++ leBytes 8 1000013 ++ List.replicate 24 0
  m ++ leBytes 8 (crc64 m)

/-- 13, example: with t4 1,000,507 the sample's difference is 507 - 487 = 20 ns, and eight such samples give the delay 10 ns. -/
theorem test_delay :
    tTiming.length = 64 ∧
    (let s := { State.reset with ports := [(0, { stage := .verify, samples := List.replicate 7 20 })] }
     (portOf (timingMessage s 0 tTiming 1000507) 0).samples = List.replicate 8 20 ∧
     (portOf (timingMessage s 0 tTiming 1000507) 0).delay = 10) := by decide +kernel

/-- 12, example: on H0 LC0 is x8 and LC1 x2; port 13 is chiplet port 9 of LC1, on lanes 50 and 51, port 36 is H1's first, and there are 132 ports. -/
theorem test_mixed_widths :
    (let s := { State.reset with regs := [(0x30007000, some 0x52)] }
     widthOf s 0 = 2 ∧ widthOf s 1 = 0 ∧ firstPort s 1 = 4 ∧ firstPort s 2 = 20 ∧ firstPort s 4 = 36 ∧ (allPorts s).length = 132 ∧
     lanesOf s 13 = [50, 51] ∧ chipIdx s 13 = 9) := by decide +kernel

/-- 12, example: with slices 18 and 29 of LC8 marked, HUB_LANE_MAP[0] of H2 reads 0x0000_5D52. -/
theorem test_lane_map_word : laneMapWord { State.reset with lmap := [(8, [18, 29])] } 8 = 0x00005D52 := by decide

/-- 12 R298, R303, R304: a is a root of x^10 + x^3 + 1 and inverts; bit pairs 00, 01, 11, 10 are levels 0 to 3; after a run of 48 equal levels a stuff
symbol stands, and its removal gives the levels back. -/
theorem test_line_code :
    gfExp 10 = 0b1001 ∧ gfExp 1023 = 1 ∧ gfMul 0x155 (gfInv 0x155) = 1 ∧
    levels [false, false, false, true, true, true, true, false] = [0, 1, 2, 3] ∧
    (let l := List.replicate 60 0
     (stuff (0, 0) l).1.length = 61 ∧ (unstuff (0, 0) (stuff (0, 0) l).1).1 = l) := by decide +kernel

/-- 08 R185: addi a0, a0, 1 and its compressed form, a multiplication, and a double-precision addition, by the ratified encodings. -/
theorem test_base_decoding :
    decInstr 0x00150513 = decInstr 0x0505 ∧ decInstr 0x02B50533 = some (.op .mul 10 10 11 false) ∧
    (decInstr 0x02B57553).isSome = true ∧ decInstr 0 = none := by decide

/-- 08 R185, R200: on an empty queue the thread's addi a0, a0, 1 runs, and it stands before the next instruction. -/
theorem test_base_step :
    (match Machine.step (tAt 0x00150513 [(10, 5)]) with
     | .next t => decide (getX t tT 10 = 6 ∧ (thrOf t tT).pc = 0x7FFF000000000104)
     | _ => false) = true := by decide +kernel

/-- 01: without input the module is in Off; log 1: on an empty queue one nanosecond passes. -/
theorem test_reset_is_off_and_idles :
    State.reset.mod.st = .off ∧ State.reset.pending = [] ∧
    (match Machine.step State.reset with | .next t => decide (t.now = State.reset.now + 1) | _ => false) = true := by decide

end Sys2Proof.Tests
end

/-! PROOFS. The layout of endpoint addresses (02 R27): the fields of a word as the model reads them from its number, and the kinds of EPA by field. -/

namespace Sys2Proof.Machine

/-- The model's `bits` of a word's number is the number of the word's field. -/
theorem toNat_extractLsb'_eq_bits {w : Nat} (v : BitVec w) (lo len : Nat) : (v.extractLsb' lo len).toNat = bits v.toNat lo len := by
  rw [BitVec.extractLsb'_toNat, Nat.shiftRight_eq_div_pow, bits]

theorem extractLsb'_eq_zero_iff_bits {w : Nat} (v : BitVec w) (lo len : Nat) : v.extractLsb' lo len = 0 ↔ bits v.toNat lo len = 0 := by
  rw [← toNat_extractLsb'_eq_bits, BitVec.toNat_eq, BitVec.ofNat_eq_ofNat, BitVec.toNat_zero]

/-- The model's `bit` of a word's number is the word's bit. -/
theorem getLsbD_eq_bit {w : Nat} (v : BitVec w) (i : Nat) : v.getLsbD i = bit v.toNat i := by
  rw [← BitVec.testBit_toNat, Nat.testBit_eq_decide_div_mod_eq, bit]

/-- Kind 0 with bits 14 to 7 zero (02 R27, table "EPA layout"). -/
theorem isAccel_iff_layout (e : BitVec 16) : isAccel e.toNat = true ↔ e.getLsbD 15 = false ∧ e.extractLsb' 7 8 = 0 := by
  have lt : e.toNat < 65536 := e.isLt
  rw [getLsbD_eq_bit, extractLsb'_eq_zero_iff_bits]
  simp only [isAccel, bit, bits, decide_eq_true_eq, decide_eq_false_iff_not]
  omega

/-- Kind 1 with bits 14 to 4 zero (02 R27, table "EPA layout"). -/
theorem isModule_iff_layout (e : BitVec 16) : isModule e.toNat = true ↔ e.getLsbD 15 = true ∧ e.extractLsb' 4 11 = 0 := by
  have lt : e.toNat < 65536 := e.isLt
  rw [getLsbD_eq_bit, extractLsb'_eq_zero_iff_bits]
  simp only [isModule, bit, bits, decide_eq_true_eq]
  omega

theorem validEpa_iff (e : Nat) : validEpa e = true ↔ isAccel e = true ∨ isModule e = true := by
  rw [validEpa, Bool.or_eq_true]

/-- The own EPA of a module on a plane of the rack is a valid module EPA (02 R28). -/
theorem isModule_ownEpa {s : State} (h : s.mod.plane < 16) : isModule (ownEpa s) = true := by
  rw [isModule, decide_eq_true_eq, ownEpa]
  omega

/-- Bits 3:0 of the own EPA are the plane (02 R27, R28). -/
theorem ownEpa_mod_sixteen {s : State} (h : s.mod.plane < 16) : ownEpa s % 16 = s.mod.plane := by
  rw [ownEpa]
  omega

/-- Settles O59: a valid EPA is of one of two kinds, and each kind is read off its fields. -/
theorem endpointAddressLayout : Obligations.EndpointAddressLayout := by
  unfold Obligations.EndpointAddressLayout
  refine ⟨fun e => ?valid, isAccel_iff_layout, isModule_iff_layout, fun e => ?coordinates, fun s h => ⟨isModule_ownEpa h, ownEpa_mod_sixteen h⟩⟩
  case valid => rw [validEpa_iff, isAccel_iff_layout, isModule_iff_layout]
  case coordinates => simp only [epaX, epaY, epaZ, toNat_extractLsb'_eq_bits, and_self]

end Sys2Proof.Machine

/-! PROOFS. The count slots (03 R68 to R70): a slot's word, the sum of two updates, and what placing a packet does to a slot and to the block. -/

namespace Sys2Proof.Machine

theorem b2n_le_one (v : Bool) : b2n v ≤ 1 := by cases v <;> decide

theorem b2n_eq_one_iff (v : Bool) : b2n v = 1 ↔ v = true := by cases v <;> decide

/-- The fields of a count slot stand side by side in its word (03, table "Count slot"). -/
theorem cslotOfWord_cslotWord {c : CSlot} (hb : c.bytes < 2 ^ 40) (hp : c.packets < 2 ^ 23) : cslotOfWord (cslotWord c) = c := by
  have ovf := b2n_le_one c.ovf
  rw [cslotOfWord, CSlot.mk.injEq, cslotWord]
  refine ⟨?_, ?_, ?_⟩
  · rw [bits, pow_zero, Nat.div_one]; omega
  · rw [bits]; omega
  · rw [Bool.eq_iff_iff, bit, decide_eq_true_iff, ← b2n_eq_one_iff]; omega

theorem cslotWord_lt {c : CSlot} (hb : c.bytes < 2 ^ 40) (hp : c.packets < 2 ^ 23) : cslotWord c < 2 ^ 64 := by
  have ovf := b2n_le_one c.ovf
  rw [cslotWord]
  omega

/-- An update that would carry a field past its maximum saturates the slot (03 R70). -/
theorem cslotAdd_of_past {c : CSlot} {n k : Nat} (h : c.bytes + n > cslotMaxBytes ∨ c.packets + k > cslotMaxPkts) :
    cslotAdd c n k = { bytes := cslotMaxBytes, packets := cslotMaxPkts, ovf := true } := if_pos h

/-- An update within both maxima adds to both fields (03 R68). -/
theorem cslotAdd_of_fits {c : CSlot} {n k : Nat} (hb : c.bytes + n ≤ cslotMaxBytes) (hp : c.packets + k ≤ cslotMaxPkts) :
    cslotAdd c n k = { c with bytes := c.bytes + n, packets := c.packets + k } :=
  if_neg (not_or.mpr ⟨hb.not_gt, hp.not_gt⟩)

/-- A saturated slot stays as it is under every update. -/
theorem cslotAdd_saturated (m k : Nat) :
    cslotAdd { bytes := cslotMaxBytes, packets := cslotMaxPkts, ovf := true } m k =
      { bytes := cslotMaxBytes, packets := cslotMaxPkts, ovf := true } := by
  rcases Nat.eq_zero_or_pos m with rfl | hm
  · rcases Nat.eq_zero_or_pos k with rfl | hk
    · rfl
    · exact cslotAdd_of_past (.inr (Nat.lt_add_of_pos_right hk))
  · exact cslotAdd_of_past (.inl (Nat.lt_add_of_pos_right hm))

/-- Two updates are one update by their sums: saturation loses nothing, since a saturated slot stays saturated (03 R69). -/
theorem cslotAdd_cslotAdd (c : CSlot) (n j m k : Nat) : cslotAdd (cslotAdd c n j) m k = cslotAdd c (n + m) (j + k) := by
  by_cases h : c.bytes + n > cslotMaxBytes ∨ c.packets + j > cslotMaxPkts
  · rw [cslotAdd_of_past h, cslotAdd_saturated, cslotAdd_of_past (by omega)]
  · obtain ⟨hb, hp⟩ := not_or.mp h
    rw [cslotAdd_of_fits (not_lt.mp hb) (not_lt.mp hp)]
    simp only [cslotAdd, Nat.add_assoc]

theorem cslotAdd_comm (c : CSlot) (n j m k : Nat) : cslotAdd (cslotAdd c n j) m k = cslotAdd (cslotAdd c m k) n j := by
  rw [cslotAdd_cslotAdd, cslotAdd_cslotAdd, Nat.add_comm n m, Nat.add_comm j k]

/-- Faulting a block that is neither Unloaded nor Faulted is going to Faulted, then the event. -/
theorem faultBlock_eq_emitB {s : State} {b : Nat} (code : Nat) (items : List Nat) (hu : (blockOf s b).st ≠ .unloaded)
    (hf : (blockOf s b).st ≠ .faulted) : faultBlock s b code items = emitB (faultBlockK s b none) b code items := by
  unfold faultBlock
  split
  · contradiction
  · contradiction
  · rfl

/-- The slots after a placement hold the updated slot, whether or not the placement faults the block. -/
theorem countPlaced_cslots (s : State) (b k n p : Nat) :
    (countPlaced s b k n p).cslots = Tab.set {} s.cslots k (cslotAdd (slotOf s k) n p) := by
  unfold countPlaced
  extract_lets c s'
  split
  · exact faultBlock_cslots s' b evCslotOverflow [k]
  · rfl

theorem slotOf_countPlaced (s : State) (b k n p : Nat) : slotOf (countPlaced s b k n p) k = cslotAdd (slotOf s k) n p := by
  rw [slotOf, countPlaced_cslots, Tab.get_set_self]

/-- Placing past a maximum faults the owning block over the saturated slot (03 R70). -/
theorem countPlaced_of_past {s : State} (b : Nat) {k n p : Nat}
    (h : (slotOf s k).bytes + n > cslotMaxBytes ∨ (slotOf s k).packets + p > cslotMaxPkts) :
    countPlaced s b k n p =
      faultBlock { s with cslots := Tab.set {} s.cslots k (cslotAdd (slotOf s k) n p) } b evCslotOverflow [k] := if_pos h

/-- Settles O58: the word, the sums and saturation are facts of the slot's own operations; the fault is `faultBlock` on a block that can fault. -/
theorem countSlotsSaturateAndFault : Obligations.CountSlotsSaturateAndFault := by
  unfold Obligations.CountSlotsSaturateAndFault
  refine ⟨fun c hb hp => ⟨cslotOfWord_cslotWord hb hp, cslotWord_lt hb hp⟩, cslotAdd_comm, fun s b k n p hb hp => ?adds,
    fun s b k n p h => ?saturates, fun s b k n p h hu hf => ?faults⟩
  case adds => exact (slotOf_countPlaced s b k n p).trans (cslotAdd_of_fits hb hp)
  case saturates => exact (slotOf_countPlaced s b k n p).trans (cslotAdd_of_past h)
  case faults =>
    have placed := (countPlaced_of_past b h).trans (faultBlock_eq_emitB evCslotOverflow [k] hu hf)
    exact ⟨placed ▸ faultBlockK_st _ b none hu, _, placed⟩

end Sys2Proof.Machine

/-! PROOFS. State addition (07 R169): its symmetry, so that each row of the table needs one side only, and the rows of one operand. -/

namespace Sys2Proof.Machine

/-- Only two finite states are added as integers; every other pair is decided by its kinds. -/
theorem accAdd_comm (s t : Acc) : accAdd s t = accAdd t s := by
  cases s <;> cases t
  case fin.fin a b => exact congrArg accFin (Int.add_comm a b)
  all_goals rfl

theorem accAdd_nan_left (t : Acc) : accAdd .nan t = .nan := by cases t <;> rfl

/-- An infinity absorbs every state but NaN and the opposite infinity (07, table "State addition", third row). -/
theorem accAdd_infinity_left {i t : Acc} (hi : i = .pInf ∨ i = .nInf) (ht : t ≠ .nan) (hp : i ≠ .pInf ∨ t ≠ .nInf)
    (hn : i ≠ .nInf ∨ t ≠ .pInf) : accAdd i t = i := by
  rcases hi with rfl | rfl <;> cases t
  case inl.nan | inr.nan => exact absurd rfl ht
  case inl.nInf => exact absurd rfl (hp.resolve_left (not_not_intro rfl))
  case inr.pInf => exact absurd rfl (hn.resolve_left (not_not_intro rfl))
  all_goals rfl

theorem accFin_of_mem_range {n : Int} (hl : -accLim ≤ n) (hu : n < accLim) : accFin n = .fin n := by
  rw [accFin, if_neg hu.not_ge, if_neg hl.not_gt]

theorem accFin_of_ge {n : Int} (h : accLim ≤ n) : accFin n = .pInf := if_pos h

theorem accLim_pos : 0 < accLim := pow_pos two_pos 310

theorem accFin_of_lt {n : Int} (h : n < -accLim) : accFin n = .nInf := by
  have below : ¬ n ≥ accLim := (h.trans (neg_lt_self accLim_pos)).not_ge
  rw [accFin, if_neg below, if_pos h]

/-- Settles O56: symmetry reduces each row to its left operand, and a finite sum is the integer sum put back into the finite range. -/
theorem stateAdditionFollowsItsTable : Obligations.StateAdditionFollowsItsTable := by
  unfold Obligations.StateAdditionFollowsItsTable
  refine ⟨fun s t h => ?nan, fun s t h => ?opposite, fun s t i hi hs ht h hp hn => ?infinity, rfl, fun a => ⟨rfl, rfl⟩,
    fun a b => accFin_of_mem_range, fun a b => accFin_of_ge, fun a b => accFin_of_lt, accAdd_comm⟩
  case nan =>
    rcases h with rfl | rfl
    · exact accAdd_nan_left t
    · exact (accAdd_comm s .nan).trans (accAdd_nan_left s)
  case opposite => rcases h with ⟨rfl, rfl⟩ | ⟨rfl, rfl⟩ <;> rfl
  case infinity =>
    rcases h with rfl | rfl
    · exact accAdd_infinity_left hi ht hp hn
    · exact (accAdd_comm s t).trans (accAdd_infinity_left hi hs hn.symm hp.symm)

end Sys2Proof.Machine

/-! PROOFS. What every step keeps (01 R17, 14 R371): the outcome of a step as a command's, and the invariants along a run. -/

namespace Sys2Proof.Machine

/-- The queue once the step has taken its front command. -/
def unqueued (s : State) : State := { s with pending := s.pending.tail }

/-- Every step ends as a command does: in a next state around some effect, or on an absent unit. -/
theorem step_shape (s : State) : Shape (unqueued s) (step s) := by
  cases h : s.pending with
  | nil =>
    have same : unqueued s = s := by cases s; subst h; rfl
    rw [same, step, h]
    exact shape_done s (idleTick s)
  | cons c rest =>
    have popped : unqueued s = { s with pending := rest } := by rw [unqueued, h]; rfl
    rw [popped, step, h]
    exact exec_shape c _

/-- A step that answers a next state leaves some effect with its end of Run and its alert byte noted. -/
theorem step_next {s t : State} (h : step s = .next t) : ∃ u, t = after (unqueued s) u := by
  rcases step_shape s with ⟨u, e⟩ | e
  · exact ⟨u, Host.Outcome.next.inj (h.symm.trans e)⟩
  · rw [h] at e; cases e

theorem after_runHasActive (s u : State) : RunHasActive (after s u) := after_run s u

theorem after_alertNoted (s u : State) : AlertNoted (after s u) :=
  (after_lastAlert s u).trans (alertByte_after s u).symm

/-- What a step keeps of its start and establishes at its end. -/
theorem step_keeps {s t : State} (h : step s = .next t) :
    RunHasActive t ∧ AlertNoted t ∧ t.fixed = s.fixed ∧ t.pending = s.pending.tail := by
  obtain ⟨u, rfl⟩ := step_next h
  exact ⟨after_runHasActive _ u, after_alertNoted _ u, rfl, rfl⟩

/-- A run of one step more begins with a step. -/
theorem run_succ (M : Host.Core) {n : Nat} {s t : M.State} (h : M.run (n + 1) s = .next t) :
    ∃ u, M.step s = .next u ∧ M.run n u = .next t := by
  unfold Host.Core.run at h
  cases hs : M.step s with
  | next u => rw [hs] at h; exact ⟨u, rfl, h⟩
  | fault r => rw [hs] at h; cases h
  | refused r => rw [hs] at h; cases h

/-- What holds at the start and what every step keeps holds after a run. -/
theorem run_invariant {P : State → Prop} (keep : ∀ s t, P s → step s = .next t → P t) :
    ∀ n s t, P s → Sys2Proof.core.run n s = .next t → P t := by
  intro n
  induction n with
  | zero => rintro s t hs ⟨⟩; exact hs
  | succ n ih =>
    intro s t hs h
    obtain ⟨u, step_u, run_u⟩ := run_succ Sys2Proof.core h
    exact ih u t (keep s u hs step_u) run_u

/-- A run takes its commands from the front of the queue and leaves the factory's facts. -/
theorem run_queue : ∀ n s t, Sys2Proof.core.run n s = .next t → t.fixed = s.fixed ∧ t.pending = s.pending.drop n := by
  intro n
  induction n with
  | zero => rintro s t ⟨⟩; exact ⟨rfl, rfl⟩
  | succ n ih =>
    intro s t h
    obtain ⟨u, step_u, run_u⟩ := run_succ Sys2Proof.core h
    obtain ⟨-, -, fixed_u, pending_u⟩ := step_keeps step_u
    obtain ⟨fixed_t, pending_t⟩ := ih u t run_u
    exact ⟨fixed_t.trans fixed_u, by rw [pending_t, pending_u, List.drop_tail]⟩

/-- Settles O51: the outcome of every step is `after` of some effect, which ends Run and notes the alert byte; runs by induction. -/
theorem stepsNoteTheAlertByte : Obligations.StepsNoteTheAlertByte := by
  unfold Obligations.StepsNoteTheAlertByte
  refine ⟨fun s t h run => ?active, ?runs, fun c rest s t hp h => ?front, fun s t _ h => (step_keeps h).2.1, fun n s t noted h => ?along⟩
  case active =>
    obtain ⟨hasActive, -⟩ := step_keeps h
    simpa [anyActive] using hasActive run
  case runs => exact run_invariant fun _ _ _ h => (step_keeps h).1
  case front =>
    obtain ⟨-, noted, fixed_t, pending_t⟩ := step_keeps h
    exact ⟨noted, by rw [pending_t, hp]; rfl, fixed_t⟩
  case along =>
    exact ⟨run_invariant (fun _ _ _ h => (step_keeps h).2.1) n s t noted h, run_queue n s t h⟩

end Sys2Proof.Machine

/-! PROOFS. How a command ends, by the shape of its body. -/

namespace Sys2Proof.Machine

/-- How a command ends where its body decides. -/
theorem ends_ite {c : Prop} {_ : Decidable c} (s : State) (tag op : Nat) (x y : State × Option Reply) :
    ends s tag op (if c then x else y) = if c then ends s tag op x else ends s tag op y := by
  split <;> rfl

end Sys2Proof.Machine

/-! PROOFS. Canonical memories (log 4): the form as a predicate on the state, and how it passes through the ways in which the model builds a state. -/

namespace Sys2Proof.Machine

/-- The byte memories of the state are canonical. A predicate of its own, so that one lemma per function of the model says that the function keeps it. -/
def Canon (s : State) : Prop := MemoryCanonical s

@[simp] theorem Canon.lard {s : State} (h : Canon s) : Mem.wf s.lard.mem = true := h.1
@[simp] theorem Canon.scratch {s : State} (h : Canon s) : Mem.wf s.scratch = true := h.2.1
@[simp] theorem Canon.cmem {s : State} (h : Canon s) : Mem.wf s.cmem = true := h.2.2

/-- A state with the same three memories. -/
theorem Canon.of_eq {s t : State} (h : Canon s) (hl : t.lard.mem = s.lard.mem) (hs : t.scratch = s.scratch) (hc : t.cmem = s.cmem) :
    Canon t := by
  obtain ⟨l, m, c⟩ := h
  exact ⟨hl ▸ l, hs ▸ m, hc ▸ c⟩

/-- An update that leaves scratch and the clusters' memories, and of the larder its bytes: every other field of the state may change. -/
@[simp] theorem canon_same_memories (u : State) {lard : Larder} (same : lard.mem = u.lard.mem) (pending : List Instr) (now freeCtr
    flightId fixed nv mod lonus i3c mgmt pwr therm cool ehrok regs held winEff winPend blocks noBlockAt cslots epoch harn coll localQ img
    clusters thr code issue eng descId hub ports lanes lmap cmap e2e axle cert certRuns certAt rings replay telem eye wire) :
    Canon (State.mk pending now freeCtr flightId fixed nv mod lonus i3c mgmt pwr therm cool ehrok regs held winEff winPend blocks noBlockAt
      cslots epoch harn coll localQ img clusters thr u.scratch u.cmem code issue eng descId hub ports lanes lmap cmap lard e2e axle cert certRuns
      certAt rings replay telem eye wire) ↔ Canon u := by
  unfold Canon MemoryCanonical
  rw [same]

@[simp] theorem canon_foldl {ι : Type} {f : State → ι → State} {l : List ι} {s : State} (h : Canon s)
    (hf : ∀ t x, Canon t → Canon (f t x)) : Canon (l.foldl f s) := by
  induction l generalizing s with
  | nil => exact h
  | cons x l ih => exact ih (hf s x h)

@[simp] theorem canon_foldl_frame {ι : Type} {f : State → ι → State} {l : List ι} {s : State} (hf : ∀ t x, Canon (f t x) ↔ Canon t) :
    Canon (l.foldl f s) ↔ Canon s := by
  induction l generalizing s with
  | nil => exact Iff.rfl
  | cons x l ih => exact ih.trans (hf s x)

@[simp] theorem canon_ite {c : Prop} {_ : Decidable c} {s t : State} : Canon (if c then s else t) ↔ if c then Canon s else Canon t := by
  split <;> rfl

@[simp] theorem wf_write_of {m : Mem} (h : Mem.wf m = true) (a : Nat) (bs : List Byte) : Mem.wf (Mem.write m a bs) = true := Mem.wf_write h a bs

@[simp] theorem wf_clear_of {m : Mem} (h : Mem.wf m = true) (a n : Nat) : Mem.wf (memClear m a n) = true := Mem.wf_clear h a n

end Sys2Proof.Machine

/-! PROOFS. Canonical memories (log 4), function by function in the order of the model. Time, the alert byte, responses, events, tables of the state, sends: which of them reach a memory. -/

namespace Sys2Proof.Machine

@[simp] theorem canon_ibiNote (s : State) : Canon (ibiNote s) ↔ Canon s := by
  simp [ibiNote]

@[simp] theorem canon_endRun (s : State) : Canon (endRun s) ↔ Canon s := by
  simp [endRun]

@[simp] theorem canon_elapse (s : State) (n : Nat) : Canon (elapse s n) ↔ Canon s := by
  simp [elapse]

@[simp] theorem canon_timeTick (s : State) : Canon (timeTick s) ↔ Canon s := by
  simp [timeTick]

@[simp] theorem canon_waitUntil (s : State) (t : Nat) : Canon (waitUntil s t) ↔ Canon s := by
  simp [waitUntil]

@[simp] theorem canon_updBlock (s : State) (b : Nat) (f : Block → Block) : Canon (updBlock s b f) ↔ Canon s := Iff.rfl

@[simp] theorem canon_updPort (s : State) (p : Nat) (f : Port → Port) : Canon (updPort s p f) ↔ Canon s := Iff.rfl

@[simp] theorem canon_updLane (s : State) (l : Nat) (f : Lane → Lane) : Canon (updLane s l f) ↔ Canon s := Iff.rfl

@[simp] theorem canon_updHub (s : State) (d : Nat) (f : Hub → Hub) : Canon (updHub s d f) ↔ Canon s := Iff.rfl

@[simp] theorem canon_updEng (s : State) (d : Nat) (e : Nat) (f : Engine → Engine) : Canon (updEng s d e f) ↔ Canon s := Iff.rfl

@[simp] theorem canon_updImg (s : State) (i : Nat) (f : Image → Image) : Canon (updImg s i f) ↔ Canon s := Iff.rfl

@[simp] theorem canon_updHarn (s : State) (h : Nat) (f : Harness → Harness) : Canon (updHarn s h f) ↔ Canon s := Iff.rfl

@[simp] theorem canon_updRing (s : State) (r : Nat) (f : Ring → Ring) : Canon (updRing s r f) ↔ Canon s := Iff.rfl

@[simp] theorem canon_updLd (s : State) (d : Nat) (f : LDie → LDie) : Canon (updLd s d f) ↔ Canon s := Iff.rfl

@[simp] theorem canon_updRecv (s : State) (e : Nat) (f : Recv → Recv) : Canon (updRecv s e f) ↔ Canon s := Iff.rfl

@[simp] theorem canon_updThr (s : State) (t : ThreadRef) (f : Thread → Thread) : Canon (updThr s t f) ↔ Canon s := Iff.rfl

@[simp] theorem canon_lardWrite (s : State) (a : Nat) (bs : List Byte) (hs : Canon s) : Canon (lardWrite s a bs) :=
  ⟨Mem.wf_write hs.lard a bs, hs.scratch, hs.cmem⟩

@[simp] theorem canon_unitsHeal (s : State) (a : Nat) (n : Nat) : Canon (unitsHeal s a n) ↔ Canon s := Iff.rfl

@[simp] theorem canon_codeSync (s : State) (c : Nat) : Canon (codeSync s c) ↔ Canon s := Iff.rfl

@[simp] theorem canon_clusterSync (s : State) (k : Nat) : Canon (clusterSync s k) ↔ Canon s := by
  simp [clusterSync]

@[simp] theorem canon_draw (s : State) : Canon (draw s).2 ↔ Canon s := Iff.rfl

@[simp] theorem canon_emitX (s : State) (code : Nat) (block : Nat) (items : List Nat) (datum : List Byte) : Canon (emitX s code block items datum) ↔ Canon s := by
  simp [emitX]

@[simp] theorem canon_emit (s : State) (code : Nat) (items : List Nat) : Canon (emit s code items) ↔ Canon s := by
  simp [emit]

@[simp] theorem canon_emitB (s : State) (b : Nat) (code : Nat) (items : List Nat) : Canon (emitB s b code items) ↔ Canon s := by
  simp [emitB]

@[simp] theorem canon_updLonus (s : State) (f : Lonus → Lonus) : Canon (updLonus s f) ↔ Canon s := Iff.rfl

@[simp] theorem canon_updMod (s : State) (f : Mod → Mod) : Canon (updMod s f) ↔ Canon s := Iff.rfl

@[simp] theorem canon_updPwr (s : State) (f : Power → Power) : Canon (updPwr s f) ↔ Canon s := Iff.rfl

@[simp] theorem canon_updNv (s : State) (f : NonVolatile → NonVolatile) : Canon (updNv s f) ↔ Canon s := Iff.rfl

@[simp] theorem canon_setReg (s : State) (addr : Nat) (w : Nat) : Canon (setReg s addr w) ↔ Canon s := Iff.rfl

@[simp] theorem canon_setStretch (on : Bool) (s : State) (d : Nat) : Canon (setStretch on s d) ↔ Canon s := by
  simp [setStretch]

@[simp] theorem canon_stretchSettle (s : State) (d : Nat) : Canon (stretchSettle s d) ↔ Canon s := by
  simp [stretchSettle]

@[simp] theorem canon_wipeTable (s : State) (v : Nat) : Canon (wipeTable s v) ↔ Canon s := Iff.rfl

@[simp] theorem canon_queueResponse (s : State) (r : Response) : Canon (queueResponse s r) ↔ Canon s := by
  simp [queueResponse]

@[simp] theorem canon_stageAbort (s : State) : Canon (stageAbort s) ↔ Canon s := by
  simp [stageAbort]

@[simp] theorem canon_completeAs (s : State) (cmd : Option Cmd) (tag op : Nat) (r : Reply) : Canon (completeAs s cmd tag op r) ↔ Canon s := by
  cases cmd <;> simp only [completeAs, canon_ite] <;> split <;> simp

@[simp] theorem canon_complete (s : State) (tag : Nat) (op : Nat) (r : Reply) : Canon (complete s tag op r) ↔ Canon s := by
  simp [complete]

@[simp] theorem canon_finishCmd (s : State) (tag : Nat) (op : Nat) (r : Reply) : Canon (finishCmd s tag op r) ↔ Canon s := by
  simp only [finishCmd]
  split <;> simp

@[simp] theorem canon_keepOutstanding (s : State) (tag : Nat) (op : Nat) : Canon (keepOutstanding s tag op) ↔ Canon s := by
  simp only [keepOutstanding]
  split <;> simp

theorem canon_runCmd (tag op : Nat) (args : List Item) (s : State) (body : State → State × Option Reply) (hs : Canon s)
    (hbody : ∀ u, Canon u → Canon (body u).1) : Canon (runCmd tag op args s body) := by
  have left := hbody s hs
  unfold runCmd
  split
  · exact hs
  · split
    · simp [hs]
    · split
      · simp [hs]
      · split
        · exact hs
        · split <;> simp_all

@[simp] theorem canon_answer (s : State) (r : Reply) : Canon (answer s r).1 ↔ Canon s := Iff.rfl

@[simp] theorem canon_fail (s : State) (st : Status) : Canon (fail s st).1 ↔ Canon s := Iff.rfl

@[simp] theorem canon_unitsWrite (s : State) (a : Nat) (bs : List Byte) (hs : Canon s) : Canon (unitsWrite s a bs) := by
  simp [unitsWrite, *]

@[simp] theorem canon_ringSync (s : State) (k : Nat) (hs : Canon s) : Canon (ringSync s k) := by
  simp [ringSync, *]

@[simp] theorem canon_ringEnd (s : State) (k : Nat) (hs : Canon s) : Canon (ringEnd s k) := by
  simp [ringEnd, *]

@[simp] theorem canon_ringKeep (s : State) (k : Nat) (rec : List Byte) (at_ : Nat) (kept : List (Nat × Nat)) (hs : Canon s) : Canon (ringKeep s k rec at_ kept) := by
  simp [ringKeep, *]

@[simp] theorem canon_ringAppend (k : Nat) (s : State) (rec : List Byte) (hs : Canon s) : Canon (ringAppend k s rec) := by
  simp only [ringAppend]
  split
  · exact hs
  · split <;> simp [hs]

@[simp] theorem canon_ringPut (s : State) (k : Nat) (key : Nat) (rec : List Byte) (hs : Canon s) : Canon (ringPut s k key rec) := by
  simp +contextual [ringPut, *]

@[simp] theorem canon_recordHold (s : State) (d : Nat) (n : Nat) : Canon (recordHold s d n).2 ↔ Canon s := by
  simp [recordHold]

@[simp] theorem canon_ringLose (s : State) (k : Nat) (hs : Canon s) : Canon (ringLose s k) := by
  simp [ringLose, *]

@[simp] theorem canon_ringQueue (s : State) (k : Nat) (port : Nat) (egress : Bool) (rec : List Byte) (hs : Canon s) : Canon (ringQueue s k port egress rec) := by
  simp [ringQueue, *]

@[simp] theorem canon_recordOne (port : Nat) (p : Packet) (egress : Bool) (reason : Option Nat) (dup : Bool) (s : State) (k : Nat) (hs : Canon s) : Canon (recordOne port p egress reason dup s k) := by
  simp [recordOne, *]

@[simp] theorem canon_recordSkip (port : Nat) (s : State) (k : Nat) (hs : Canon s) : Canon (recordSkip port s k) := by
  simp [recordSkip, *]

@[simp] theorem canon_captureOne (port : Nat) (p : Packet) (egress : Bool) (failed : Bool) (reason : Option Nat) (s : State) (k : Nat) (hs : Canon s) : Canon (captureOne port p egress failed reason s k) := by
  simp [captureOne, *]

@[simp] theorem canon_mirrorOut (s : State) (port : Nat) (payload : List Byte) : Canon (mirrorOut s port payload) ↔ Canon s := by
  simp only [mirrorOut]
  (repeat' split) <;> simp

@[simp] theorem canon_sampleIngress (s : State) (port : Nat) (p : Packet) (failed : Bool) (reason : Option Nat) : Canon (sampleIngress s port p failed reason) ↔ Canon s := by
  simp [sampleIngress]

@[simp] theorem canon_watchLive (s : State) (port : Nat) (p : Packet) (failed : Bool) (reason : Option Nat) (hs : Canon s) : Canon (watchLive s port p failed reason) := by
  simp +contextual [watchLive, *]

@[simp] theorem canon_watchIngress (s : State) (port : Nat) (p : Packet) (failed : Bool) (reason : Option Nat) (dup : Bool) (hs : Canon s) : Canon (watchIngress s port p failed reason dup) := by
  simp +contextual [watchIngress, *]

@[simp] theorem canon_watchEgress (s : State) (port : Nat) (p : Packet) (hs : Canon s) : Canon (watchEgress s port p) := by
  have captured : Canon ((List.range 16).foldl (captureOne port p true false none) s) := canon_foldl hs fun t x ht => by simp [ht]
  simp only [watchEgress]
  split
  · exact captured
  · exact canon_foldl captured fun t x ht => by simp [ht]

@[simp] theorem canon_recordBoundary (s : State) (b : Nat) (hs : Canon s) : Canon (recordBoundary s b) := by
  simp +contextual [recordBoundary, *]

@[simp] theorem canon_flightOf (s : State) (p : Packet) (arr : Option Nat) (block : Nat) : Canon (flightOf s p arr block).2 ↔ Canon s := Iff.rfl

@[simp] theorem canon_egInsert (s : State) (p : Nat) (fl0 : Flight) (inn : Nat) : Canon (egInsert s p fl0 inn) ↔ Canon s := by
  simp [egInsert]

@[simp] theorem canon_divertList (s : State) (p : Nat) (fl0 : Flight) : Canon (divertList s p fl0) ↔ Canon s := by
  simp [divertList]

@[simp] theorem canon_flushCount (s : State) (p : Nat) : Canon (flushCount s p) ↔ Canon s := by
  simp [flushCount]

theorem canon_egPlace (s : State) (p : Nat) (fl : Flight) (t : State) (ht : egPlace s p fl = some t) : Canon t ↔ Canon s := by
  unfold egPlace at ht
  split at ht
  · split at ht
    · cases ht; simp
    · cases ht
  · split at ht
    · cases ht; simp
    · cases ht

@[simp] theorem canon_egDirect (s : State) (p : Nat) (pkt : Packet) (block : Nat) : Canon (egDirect s p pkt block) ↔ Canon s := by
  unfold egDirect
  split
  · split <;> simp
  · have made : Canon (flightOf s pkt none block).2 ↔ Canon s := by simp
    cases placed : egPlace (flightOf s pkt none block).2 p (flightOf s pkt none block).1 with
    | none => simp [placed]
    | some t => simp [placed, canon_egPlace _ _ _ _ placed]

@[simp] theorem canon_egRetry (s : State) (p : Nat) : Canon (egRetry s p) ↔ Canon s := by
  refine canon_foldl_frame fun t fl => ?_
  cases placed : egPlace (updPort t p fun q => { q with egWait := q.egWait.erase fl }) p fl with
  | none => simp
  | some u => simpa using canon_egPlace _ _ _ _ placed

@[simp] theorem canon_nackCode (s : State) (p : Nat) (tgt : Nat) (h : Header) (code : Nat) (hs : Canon s) : Canon (nackCode s p tgt h code) := by
  simp [nackCode, *]

@[simp] theorem canon_nack (s : State) (p : Nat) (tgt : Nat) (h : Header) (r : Reason) (hs : Canon s) : Canon (nack s p tgt h r) := by
  simp [nack, *]

@[simp] theorem canon_flushNack (s : State) (fl : Flight) (hs : Canon s) : Canon (flushNack s fl) := by
  simp only [flushNack]
  split <;> simp [*]

@[simp] theorem canon_flushAt (s : State) (p : Nat) (fl : Flight) (hs : Canon s) : Canon (flushAt s p fl) := by
  simp [flushAt, *]

@[simp] theorem canon_divertTo (s : State) (p : Nat) (fl : Flight) (hs : Canon s) : Canon (divertTo s p fl) := by
  simp [divertTo, *]

@[simp] theorem canon_xInsert (s : State) (d : Nat) (input : Nat) (trunk : Bool) (noDefl : Bool) (fl : Flight) (dests : List XDest) (ports : List Nat) (reserve : Option Nat) (inn : Option Nat) : Canon (xInsert s d input trunk noDefl fl dests ports reserve inn) ↔ Canon s := by
  simp [xInsert]

@[simp] theorem canon_arrInput (s : State) (p : Nat) : Canon (arrInput s p).2 ↔ Canon s := by
  simp only [arrInput]
  split <;> simp

@[simp] theorem canon_replicate (s : State) (d : Nat) (input : Nat) (trunk : Bool) (fl : Flight) (report : Option Nat) (inn : Option Nat) : Canon (replicate s d input trunk fl report inn) ↔ Canon s := by
  simp only [replicate]
  split <;> simp

@[simp] theorem canon_replicateFar (s : State) (d : Nat) (src : Nat) (fl : Flight) (inn : Nat) : Canon (replicateFar s d src fl inn) ↔ Canon s := by
  simp [replicateFar]

@[simp] theorem canon_replicateResult (s : State) (d : Nat) (fl : Flight) : Canon (replicateResult s d fl) ↔ Canon s := by
  simp [replicateResult]

@[simp] theorem canon_resultFar (s : State) (d : Nat) (src : Nat) (fl : Flight) (inn : Nat) : Canon (resultFar s d src fl inn) ↔ Canon s := by
  simp [resultFar]

@[simp] theorem canon_takeSeq (s : State) (key : Nat) : Canon (takeSeq s key).2 ↔ Canon s := Iff.rfl

@[simp] theorem canon_holdAt (s : State) (d : Nat) (x : Held) : Canon (holdAt s d x) ↔ Canon s := by
  simp [holdAt]

@[simp] theorem canon_originate (s : State) (d : Nat) (block : Nat) (h : Header) (payload : List Byte) (why : Purpose) (port : Option Nat) (pace : Option Nat) : Canon (originate s d block h payload why port pace).2 ↔ Canon s := by
  simp [originate]

@[simp] theorem canon_inject (s : State) (d : Nat) (block : Nat) (p : Packet) : Canon (inject s d block p) ↔ Canon s := by
  simp only [inject]
  (repeat' split) <;> simp

@[simp] theorem canon_ovfEase (s : State) : Canon (ovfEase s) ↔ Canon s := by
  simp [ovfEase]

@[simp] theorem canon_dropFlights (s : State) (kill : Flight → Bool) : Canon (dropFlights s kill) ↔ Canon s := by
  simp [dropFlights]

@[simp] theorem canon_dropBlock (s : State) (b : Nat) (keep : Option Nat) : Canon (dropBlock s b keep) ↔ Canon s := by
  simp [dropBlock]

@[simp] theorem canon_updTx (s : State) (p : Nat) (f : LinePar → TxLine → TxLine) : Canon (updTx s p f) ↔ Canon s := by
  simp [updTx]

@[simp] theorem canon_lineFill (s : State) (p : Nat) : Canon (lineFill s p) ↔ Canon s := by
  simp only [lineFill]
  split <;> simp

@[simp] theorem canon_alignStart (s : State) (p : Nat) : Canon (alignStart s p) ↔ Canon s := by
  simp [alignStart]

@[simp] theorem canon_sendTiming (s : State) (p : Nat) : Canon (sendTiming s p) ↔ Canon s := by
  simp [sendTiming]

@[simp] theorem canon_idleLine (s : State) (p : Nat) : Canon (idleLine s p) ↔ Canon s := by
  simp [idleLine]

@[simp] theorem canon_wakeLine (s : State) (p : Nat) : Canon (wakeLine s p) ↔ Canon s := by
  simp [wakeLine]

@[simp] theorem canon_beaconLine (s : State) (p : Nat) : Canon (beaconLine s p) ↔ Canon s := by
  simp [beaconLine]

@[simp] theorem canon_genStop (s : State) (l : Nat) : Canon (genStop s l) ↔ Canon s := by
  simp only [genStop]
  split <;> simp

@[simp] theorem canon_prbsCount (s : State) (l : Nat) : Canon (prbsCount s l) ↔ Canon s := by
  simp [prbsCount]

@[simp] theorem canon_prbsOff (s : State) (l : Nat) : Canon (prbsOff s l) ↔ Canon s := by
  simp [prbsOff]

@[simp] theorem canon_updLTx (s : State) (f : TxLine → TxLine) : Canon (updLTx s f) ↔ Canon s := by
  simp [updLTx]

@[simp] theorem canon_lonusFill (s : State) : Canon (lonusFill s) ↔ Canon s := by
  simp [lonusFill]

end Sys2Proof.Machine

/-! PROOFS. Canonical memories (log 4), function by function in the order of the model. Settling, releases, block and port faults, the larder's stores and reads, thread faults. -/

namespace Sys2Proof.Machine

@[simp] theorem canon_winSettle (s : State) : Canon (winSettle s) ↔ Canon s := by
  simp [winSettle]

@[simp] theorem canon_winRelease (s : State) (b : Nat) : Canon (winRelease s b) ↔ Canon s := by
  simp [winRelease]

@[simp] theorem canon_settle (s : State) : Canon (settle s) ↔ Canon s := by
  simp [settle]

@[simp] theorem canon_endReplay (s : State) (ev : Option Nat) (items : List Nat) (hs : Canon s) : Canon (endReplay s ev items) := by
  simp only [endReplay]
  (repeat' split) <;> simp [*]

@[simp] theorem canon_replayLeave (s : State) (b : Nat) (hs : Canon s) : Canon (replayLeave s b) := by
  simp [replayLeave, *]

@[simp] theorem canon_clearGalley (s : State) (b : Nat) (hs : Canon s) : Canon (clearGalley s b) := by
  simp [clearGalley, *]

@[simp] theorem canon_clearColl (s : State) (p : Nat → Bool) : Canon (clearColl s p) ↔ Canon s := Iff.rfl

@[simp] theorem canon_clearLarder (s : State) (b : Nat) : Canon (clearLarder s b) ↔ Canon s := Iff.rfl

@[simp] theorem canon_faultBlockK (s : State) (b : Nat) (keep : Option Nat) (hs : Canon s) : Canon (faultBlockK s b keep) := by
  simp only [faultBlockK]
  split <;> simp [*]

@[simp] theorem canon_faultBlock (s : State) (b : Nat) (code : Nat) (items : List Nat) (hs : Canon s) : Canon (faultBlock s b code items) := by
  simp only [faultBlock]
  split <;> simp [*]

@[simp] theorem canon_countPlaced (s : State) (b : Nat) (k : Nat) (n : Nat) (pk : Nat) (hs : Canon s) : Canon (countPlaced s b k n pk) := by
  simp [countPlaced, *]

@[simp] theorem canon_startHitch (s : State) (p : Nat) : Canon (startHitch s p) ↔ Canon s := by
  simp [startHitch]

@[simp] theorem canon_dropIngress (s : State) (p : Nat) : Canon (dropIngress s p) ↔ Canon s := by
  simp [dropIngress]

@[simp] theorem canon_flushPort (s : State) (p : Nat) (hs : Canon s) : Canon (flushPort s p) := by
  simp only [flushPort]
  exact canon_foldl (by simp [hs]) fun t fl ht => by simp [ht]

@[simp] theorem canon_portDown (s : State) (p : Nat) (cause : Nat) (hs : Canon s) : Canon (portDown s p cause) := by
  simp [portDown, *]

@[simp] theorem canon_restartPort (s : State) (p : Nat) (hs : Canon s) : Canon (restartPort s p) := by
  simp [restartPort, *]

@[simp] theorem canon_abortTransition (s : State) (st : Status) : Canon (abortTransition s st) ↔ Canon s := by
  simp only [abortTransition]
  split <;> simp

@[simp] theorem canon_stopDataPlane (s : State) (hs : Canon s) : Canon (stopDataPlane s) := by
  have dropped : Canon (dropFlights s fun _ => true) := by simp [hs]
  exact ⟨dropped.lard, rfl, rfl⟩

@[simp] theorem canon_loseLarder (s : State) (hs : Canon s) : Canon (loseLarder s) := ⟨rfl, hs.scratch, hs.cmem⟩

@[simp] theorem canon_holdBlocks (s : State) (cause : Nat) : Canon (holdBlocks s cause) ↔ Canon s := by
  simp [holdBlocks]

@[simp] theorem canon_enterHold (s : State) (cause : Nat) (unit : Option RepairUnit) (hs : Canon s) : Canon (enterHold s cause unit) := by
  unfold enterHold
  split
  · exact hs
  · exact hs
  · exact hs
  · have ended (u : State) (hu : Canon u) : Canon (if u.replay.running then endReplay u (some evReplayEnd) [] else u) := by
      split <;> simp [hu]
    have emptied (u : State) (hu : Canon u) : Canon (loseLarder (stopDataPlane u)) := by simp [hu]
    simp only [canon_emit, canon_holdBlocks, canon_updMod, canon_same_memories]
    exact emptied _ (ended _ (by simp [hs]))

@[simp] theorem canon_cellsDrop (s : State) (a : Nat) (n : Nat) : Canon (cellsDrop s a n) ↔ Canon s := Iff.rfl

@[simp] theorem canon_lardStore (s : State) (a : Nat) (bs : List Byte) (hs : Canon s) : Canon (lardStore s a bs) := by
  simp [lardStore, *]

@[simp] theorem canon_ringUe (u : Nat) (s : State) (k : Nat) (hs : Canon s) : Canon (ringUe u s k) := by
  simp [ringUe, *]

@[simp] theorem canon_ueMeter (s : State) (a : Nat) : Canon (ueMeter s a) ↔ Canon s := by
  simp [ueMeter]

@[simp] theorem canon_ueCount (s : State) (a : Nat) (hs : Canon s) : Canon (ueCount s a) := by
  simp +contextual [ueCount, *]

@[simp] theorem canon_ueFail (s : State) (a : Nat) (b : Nat) (hs : Canon s) : Canon (ueFail s a b) := by
  simp [ueFail, *]

@[simp] theorem canon_ceCount (s : State) (a : Nat) : Canon (ceCount s a) ↔ Canon s := by
  simp [ceCount]

@[simp] theorem canon_regionEcc (s : State) (base : Nat) (x0 : Ecc) (hs : Canon s) : Canon (regionEcc s base x0) := by
  simp only [regionEcc]
  split <;> simp [*]

@[simp] theorem canon_eccRead (s : State) (a : Nat) (n : Nat) (b : Nat) (ecc : Ecc) (hs : Canon s) : Canon (eccRead s a n b ecc).2 := by
  simp only [eccRead]
  split <;> simp [*]

@[simp] theorem canon_lardChoice (s : State) (d : Nat) : Canon (lardChoice s d) ↔ Canon s := by
  simp [lardChoice]

@[simp] theorem canon_addAt (s : State) (fmt : Nat) (a : Nat) (v : Nat) (hs : Canon s) : Canon (addAt s fmt a v) := by
  simp [addAt, *]

@[simp] theorem canon_setX (s : State) (t : ThreadRef) (rd : Nat) (v : Nat) : Canon (setX s t rd v) ↔ Canon s := by
  simp [setX]

@[simp] theorem canon_sleepIn (s : State) (t : ThreadRef) (why : Sleep) : Canon (sleepIn s t why) ↔ Canon s := by
  simp [sleepIn]

@[simp] theorem canon_threadFault (s : State) (t : ThreadRef) (cause : Nat) (addr : Nat) (hs : Canon s) : Canon (threadFault s t cause addr) := by
  simp [threadFault, *]

@[simp] theorem canon_loadDest (s : State) (t : ThreadRef) (d : Dest) (data : List Byte) : Canon (loadDest s t d data) ↔ Canon s := by
  simp only [loadDest]
  split <;> simp

@[simp] theorem canon_breakResv (s : State) (me : Option ThreadRef) (lo : Nat) (hi : Nat) : Canon (breakResv s me lo hi) ↔ Canon s := by
  simp only [breakResv]
  split <;> simp

@[simp] theorem canon_plainWrite (s : State) (me : Option ThreadRef) (p : Place) (bs : List Byte) (hs : Canon s) : Canon (plainWrite s me p bs) := by
  cases p with
  | scratch k =>
    have stored : Canon { s with scratch := Mem.write s.scratch k bs } := ⟨hs.lard, Mem.wf_write hs.scratch k bs, hs.cmem⟩
    simp [plainWrite, stored]
  | cmem k g =>
    have stored : Canon { s with cmem := Mem.write s.cmem k bs } := ⟨hs.lard, hs.scratch, Mem.wf_write hs.cmem k bs⟩
    simp [plainWrite, stored]
  | larder a g => simp [plainWrite, hs]
  | _ => exact hs

@[simp] theorem canon_resume (s : State) (t : ThreadRef) : Canon (resume s t) ↔ Canon s := by
  simp [resume]

@[simp] theorem canon_retire (s : State) (t : ThreadRef) : Canon (retire s t) ↔ Canon s := by
  simp [retire]

@[simp] theorem canon_freeBytes (s : State) (n : Nat) : Canon (freeBytes s n).2 ↔ Canon s := by
  simp [freeBytes]

@[simp] theorem canon_slotBytes (s : State) (d : Nat) (n : Nat) (off : Nat) (len : Nat) : Canon (slotBytes s d n off len).2 ↔ Canon s := by
  simp only [slotBytes]
  (repeat' split) <;> simp

@[simp] theorem canon_sendDeliver (s : State) (t : ThreadRef) (payload : List Byte) (hs : Canon s) : Canon (sendDeliver s t payload) := by
  simp only [sendDeliver]
  split <;> simp [*]

end Sys2Proof.Machine

/-! PROOFS. Canonical memories (log 4), function by function in the order of the model. Larder requests and their parts, launches, chunks and leaf states, releases, queues over time, boundaries. -/

namespace Sys2Proof.Machine

@[simp] theorem canon_queueParts (s : State) (r : LReq) : Canon (queueParts s r) ↔ Canon s := by
  simp [queueParts]

@[simp] theorem canon_lardEnter (s : State) (r : LReq) : Canon (lardEnter s r) ↔ Canon s := by
  simp [lardEnter]

@[simp] theorem canon_respond (s : State) (r : LReq) (typ : Nat) (payload : List Byte) (hs : Canon s) : Canon (respond s r typ payload) := by
  simp [respond, *]

@[simp] theorem canon_countRsp (s : State) (r : LReq) (n : Nat) (hs : Canon s) : Canon (countRsp s r n) := by
  simp only [countRsp]
  split <;> simp [*]

@[simp] theorem canon_reqDone (s : State) (r : LReq) (hs : Canon s) : Canon (reqDone s r) := by
  simp only [reqDone]
  (repeat' split) <;> simp [*]

@[simp] theorem canon_reqFail (s : State) (r : LReq) (hs : Canon s) : Canon (reqFail s r) := by
  simp [reqFail, *]

@[simp] theorem canon_opFault (s : State) (r : LReq) (kind : Nat) (off : Nat) (i : Nat) (hs : Canon s) : Canon (opFault s r kind off i) := by
  simp [opFault, *]

@[simp] theorem canon_partDone (s : State) (id : Nat) (f : LReq → LReq) (hs : Canon s) : Canon (partDone s id f) := by
  simp only [partDone]
  (repeat' split) <;> simp [*]

@[simp] theorem canon_partChoice (s : State) (ld : Nat) (b : Nat) (fmt : Nat) : Canon (partChoice s ld b fmt) ↔ Canon s := by
  simp [partChoice]

@[simp] theorem canon_exactPart (s : State) (f : Nat) (r : LReq) (c : LadleCheck) (hs : Canon s) : Canon (exactPart s f r c) := by
  simp only [exactPart]
  split <;> simp [*]

@[simp] theorem canon_partRun (s : State) (ld : Nat) (r : LReq) (p : LPart) (c : LadleCheck) (hs : Canon s) : Canon (partRun s ld r p c) := by
  have added (f : Nat) (v : Nat → Nat) (a : Nat → Nat) (n : Nat) : Canon ((List.range n).foldl (fun s i => addAt s f (a i) (v i)) s) :=
    canon_foldl hs fun t i ht => by simp [ht]
  unfold partRun
  split
  case h_11 =>
    refine canon_partDone _ _ _ ?_
    split <;> simp [hs]
  all_goals simp [hs, added]

@[simp] theorem canon_partPop (s : State) (ld : Nat) (p : LPart) (hs : Canon s) : Canon (partPop s ld p) := by
  simp only [partPop]
  split <;> simp [*]

@[simp] theorem canon_lardPart (s : State) (ld : Nat) (ecc : Ecc) (c : LadleCheck) (hs : Canon s) : Canon (lardPart s ld ecc c) := by
  have read (u : State) (a : Nat) (c : Prop) [Decidable c] (hu : Canon u) : Canon (if c then ceCount u a else u) := by split <;> simp [hu]
  unfold lardPart
  split
  · exact hs
  · split
    · simp [hs]
    · split
      · exact hs
      · have popped := canon_partPop s ld ‹_› hs
        simp only
        split
        · exact canon_reqFail _ _ (canon_ueFail _ _ _ popped)
        · exact canon_partRun _ _ _ _ _ (read _ _ _ popped)

@[simp] theorem canon_refreshSlot (s : State) (stack : Nat) (pc : Nat) (waiting : Nat) (scrubAddr : Nat) (ecc : Ecc) (hs : Canon s) : Canon (refreshSlot s stack pc waiting scrubAddr ecc) := by
  simp [refreshSlot, *]

theorem canon_queueLaunch (s : State) (img : Nat) (l : Launch) (t : State) (ht : queueLaunch s img l = some t) : Canon t ↔ Canon s := by
  simp only [queueLaunch] at ht
  split at ht
  · cases ht
  · cases ht; simp

theorem canon_queueCall (s : State) (img entry : Nat) (p : Packet) (hs : Canon s) (t : State) (ht : queueCall s img entry p = some t) :
    Canon t := by
  obtain ⟨u, queued, rfl⟩ := Option.map_eq_some_iff.mp ht
  simp [(canon_queueLaunch _ _ _ _ queued).mpr hs]

@[simp] theorem canon_boundLaunch (s : State) (h trigger step chunk : Nat) (hs : Canon s) : Canon (boundLaunch s h trigger step chunk) := by
  simp only [boundLaunch]
  split
  · cases queued : queueLaunch s (bits (bindWord s h) 16 10)
      { id := 0, entry := bits (bindWord s h) 8 6, a0 := step, a1 := chunk, a2 := h, key := step + chunk } with
    | none => simp [hs]
    | some t => exact (canon_queueLaunch _ _ _ _ queued).mpr hs
  · exact hs

@[simp] theorem canon_closeReq (s : State) (b : Nat) (v : Nat) : Canon (closeReq s b v) ↔ Canon s := by
  simp [closeReq]

@[simp] theorem canon_harnClose (s : State) (h : Nat) (v : Nat) : Canon (harnClose s h v) ↔ Canon s := by
  simp [harnClose]

@[simp] theorem canon_claim (s : State) (k : CKey) (t : Nat) : Canon (claim s k t) ↔ Canon s := by
  simp [claim]

@[simp] theorem canon_updSlot (s : State) (k : CKey) (f : RSlot → RSlot) : Canon (updSlot s k f) ↔ Canon s := by
  simp [updSlot]

@[simp] theorem canon_freeSlotAt (s : State) (k : CKey) : Canon (freeSlotAt s k) ↔ Canon s := Iff.rfl

@[simp] theorem canon_ladleChoice (s : State) (d : Nat) (h : Nat) (n : Nat) : Canon (ladleChoice s d h n) ↔ Canon s := by
  simp [ladleChoice]

@[simp] theorem canon_ladleAdd (s : State) (x : RSlot) (c : LadleCheck) (i : CItem) : Canon (ladleAdd s x c i) ↔ Canon s := by
  simp [ladleAdd]

@[simp] theorem canon_slotAdd (s : State) (k : CKey) (c : LadleCheck) (i : CItem) (hs : Canon s) : Canon (slotAdd s k c i) := by
  simp only [slotAdd]
  split <;> simp [*]

@[simp] theorem canon_holdResult (s : State) (x : RSlot) (bytes : List Byte) (hs : Canon s) : Canon (holdResult s x bytes) := by
  simp [holdResult, *]

@[simp] theorem canon_sendResults (s : State) (h step c : Nat) (bytes : List Byte) (hs : Canon s) : Canon (sendResults s h step c bytes) := by
  simp only [sendResults]
  split
  · exact canon_faultBlock _ _ _ _ ((canon_foldl_frame fun t e => canon_foldl_frame fun u p => by simp).mpr hs)
  · exact (canon_foldl_frame fun t e => canon_foldl_frame fun u p => by simp).mpr hs

@[simp] theorem canon_holdAcked (s : State) (h : Nat) (step : Nat) (c : Nat) (r : Nat) (j : Nat) (hs : Canon s) : Canon (holdAcked s h step c r j) := by
  simp [holdAcked, *]

@[simp] theorem canon_advance (n : Nat) (s : State) (h : Nat) (hs : Canon s) : Canon (advance n s h) := by
  induction n generalizing s with
  | zero => exact hs
  | succ n ih =>
    simp only [advance]
    split
    · exact ih _ (by simp [hs])
    · exact hs

@[simp] theorem canon_noteFormed (s : State) (k : CKey) (hs : Canon s) : Canon (noteFormed s k) := by
  simp [noteFormed, *]

theorem canon_eachItem (f : State → LadleCheck → CItem → List LadleCheck → State × List LadleCheck)
    (hf : ∀ u c i cs, Canon u → Canon (f u c i cs).1) (l : List CItem) (s : State) (cs : List LadleCheck) (hs : Canon s) :
    Canon (eachItem f l s cs).1 := by
  induction l generalizing s cs with
  | nil => exact hs
  | cons i l ih => exact ih _ _ (hf s _ i _ hs)

@[simp] theorem canon_finishAdds (s : State) (x : RSlot) (c : LadleCheck) (hs : Canon s) : Canon (finishAdds s x c) := by
  simp only [finishAdds]
  (repeat' split) <;> simp [*]

/-- The end of a round of `finish` after the chunk's result is held and its slot freed: the oldest spilled chunk takes the slot, the rounds that
this brings about given as `go`, and the result is sent (06 R151, R152). -/
def finishResult (go : State → CKey → List LadleCheck → State × List LadleCheck) (b : Nat) (s : State) (k : CKey) (bytes : List Byte)
    (cs : List LadleCheck) : State × List LadleCheck :=
  let (s, cs) := match spillList s k.die k.h with
    | [] => (s, cs)
    | y :: _ =>
      let s := { s with coll := { s.coll with spills := s.coll.spills.filter fun z => decide (z.key ≠ y.key) } }
      eachItem (fun s c i cs => go (slotAdd s y.key c i) y.key cs) y.items (claim s y.key y.startAt) cs
  if (blockOf s b).st = .faulted then (s, cs) else (noteFormed (sendResults s k.h k.step k.chunk bytes) k, cs)

/-- One round of `finish`, the rounds that follow given as `go` (06 R150). -/
def finishRound (go : State → CKey → List LadleCheck → State × List LadleCheck) (s : State) (k : CKey) (cs : List LadleCheck) :
    State × List LadleCheck :=
  match slotAt s k with
  | none => (s, cs)
  | some x =>
    let b := harnOwner s k.h
    if x.count ≠ expected s k ∨ x.ready then (s, cs)
    else
      let adds := finishing s x
      let s := if adds then finishAdds s x (cs.headD .ok) else s
      let cs := if adds then cs.tail else cs
      if adds && decide ((blockOf s b).st = .faulted) then (s, cs)
      else if k.die ≠ treeRoot k.chunk then (updSlot s k fun x => { x with ready := true }, cs)
      else if sumChecked s k.h && !harnFast s k.h && decide (x.k ≠ sumCheck x.elems) then (faultBlock s b evCollSumcheck [], cs)
      else
        let bytes := resultBytes s x
        finishResult go b (freeSlotAt (boundLaunch (holdResult s x bytes) k.h 0 k.step k.chunk) k) k bytes cs

theorem finish_succ (n : Nat) (s : State) (k : CKey) (cs : List LadleCheck) : finish (n + 1) s k cs = finishRound (finish n) s k cs := rfl

theorem canon_finishResult (go : State → CKey → List LadleCheck → State × List LadleCheck) (hgo : ∀ u k cs, Canon u → Canon (go u k cs).1)
    (b : Nat) (s : State) (k : CKey) (bytes : List Byte) (cs : List LadleCheck) (hs : Canon s) : Canon (finishResult go b s k bytes cs).1 := by
  have claimed (u : State) (y : CSpill) (hu : Canon u) :
      Canon (eachItem (fun s c i cs => go (slotAdd s y.key c i) y.key cs) y.items (claim u y.key y.startAt) cs).1 :=
    canon_eachItem _ (fun _ _ _ _ hv => hgo _ _ _ (by simp [hv])) _ _ _ (by simp [hu])
  unfold finishResult
  cases spillList s k.die k.h with
  | nil => simp only; split <;> simp [hs]
  | cons y l =>
    have freed := claimed { s with coll := { s.coll with spills := s.coll.spills.filter fun z => decide (z.key ≠ y.key) } } y (by simp [hs])
    simp only
    split
    · exact freed
    · exact canon_noteFormed _ _ (canon_sendResults _ _ _ _ _ freed)

theorem canon_finishRound (go : State → CKey → List LadleCheck → State × List LadleCheck) (hgo : ∀ u k cs, Canon u → Canon (go u k cs).1)
    (s : State) (k : CKey) (cs : List LadleCheck) (hs : Canon s) : Canon (finishRound go s k cs).1 := by
  unfold finishRound
  split
  · exact hs
  · next x _ =>
    have added (c : LadleCheck) : Canon (finishAdds s x c) := by simp [hs]
    have freed (u : State) (bytes : List Byte) (hu : Canon u) :
        Canon (freeSlotAt (boundLaunch (holdResult u x bytes) k.h 0 k.step k.chunk) k) := by simp [hu]
    simp only
    (repeat' split) <;> simp [hs, added, canon_finishResult go hgo, freed]

/-- The memories stay canonical through `finish`, by induction on its fuel. -/
@[simp] theorem canon_finish (n : Nat) (s : State) (k : CKey) (cs : List LadleCheck) (hs : Canon s) : Canon (finish n s k cs).1 := by
  induction n generalizing s k cs with
  | zero => exact hs
  | succ n ih => exact canon_finishRound _ ih s k cs hs

@[simp] theorem canon_addItem (s : State) (k : CKey) (c : LadleCheck) (i : CItem) (cs : List LadleCheck) (hs : Canon s) : Canon (addItem s k c i cs).1 := by
  simp [addItem, *]

@[simp] theorem canon_arriveOne (s : State) (k : CKey) (cs : List LadleCheck) (i : CItem) (hs : Canon s) : Canon (arriveOne s k cs i).1 := by
  simp only [arriveOne]
  (repeat' split) <;> simp [*]

@[simp] theorem canon_claimSpilled (n : Nat) (s : State) (d h : Nat) (cs : List LadleCheck) (hs : Canon s) :
    Canon (claimSpilled n s d h cs).1 := by
  induction n generalizing s cs with
  | zero => exact hs
  | succ n ih =>
    unfold claimSpilled
    split
    · exact hs
    · split
      · exact ih _ _ (canon_eachItem _ (fun _ _ _ _ hu => by simp [hu]) _ _ _ (by simp [hs]))
      · exact hs

@[simp] theorem canon_admitEarly (n : Nat) (s : State) (h : Nat) (cs : List LadleCheck) (hs : Canon s) : Canon (admitEarly n s h cs) := by
  induction n generalizing s cs with
  | zero => exact hs
  | succ n ih =>
    unfold admitEarly
    split
    · exact hs
    · exact ih _ _ (canon_eachItem _ (fun _ _ _ _ hu => by simp [hu]) _ _ _ (by simp [hs]))

@[simp] theorem canon_collFollow (s : State) (d : Nat) (h : Nat) (cs : List LadleCheck) (hs : Canon s) : Canon (collFollow s d h cs) := by
  simp [collFollow, *]

@[simp] theorem canon_arrive (s : State) (k : CKey) (cs : List LadleCheck) (i : CItem) (hs : Canon s) : Canon (arrive s k cs i) := by
  simp [arrive, *]

@[simp] theorem canon_enterItem (s : State) (k : CKey) (cs : List LadleCheck) (i : CItem) (hs : Canon s) : Canon (enterItem s k cs i) := by
  simp [enterItem, *]

@[simp] theorem canon_leafSend (s : State) (k : CKey) (ecc : Ecc) (cs : List LadleCheck) (hs : Canon s) : Canon (leafSend s k ecc cs) := by
  simp only [leafSend]
  split <;> simp [*]

@[simp] theorem canon_leafArrive (s : State) (k : CKey) (cs : List LadleCheck) (hs : Canon s) : Canon (leafArrive s k cs) := by
  simp only [leafArrive]
  split <;> simp [*]

@[simp] theorem canon_collTimeout (s : State) (k : CKey) (hs : Canon s) : Canon (collTimeout s k) := by
  simp only [collTimeout]
  (repeat' split) <;> simp [*]

@[simp] theorem canon_spillExhaust (s : State) (p : Nat) (hs : Canon s) : Canon (spillExhaust s p) := by
  simp only [spillExhaust]
  (repeat' split) <;> simp [*]

@[simp] theorem canon_divertWaiting (s : State) (d : Nat) (hs : Canon s) : Canon (divertWaiting s d) := by
  refine canon_foldl hs fun t e ht => ?_
  simp only
  split
  · exact ht
  · split
    · simp [ht]
    · split <;> simp [ht]

@[simp] theorem canon_divertIngress (n : Nat) (s : State) (p : Nat) (hs : Canon s) : Canon (divertIngress n s p) := by
  induction n generalizing s with
  | zero => exact hs
  | succ n ih =>
    unfold divertIngress
    split
    · split
      · split
        · exact ih _ (by simp [hs])
        · exact hs
      · exact hs
    · exact hs

@[simp] theorem canon_divertRound (s : State) (d : Nat) (hs : Canon s) : Canon (divertRound s d) := by
  simp +contextual [divertRound, *]

@[simp] theorem canon_divertAll (n : Nat) (s : State) (d : Nat) (hs : Canon s) : Canon (divertAll n s d) := by
  induction n generalizing s with
  | zero => exact hs
  | succ n ih =>
    have round : Canon (divertRound s d) := by simp [hs]
    simp only [divertAll]
    split
    · exact round
    · exact ih _ round

@[simp] theorem canon_divertDie (s : State) (d : Nat) (hs : Canon s) : Canon (divertDie s d) := by
  simp [divertDie, *]

@[simp] theorem canon_deflectAll (s : State) (d : Nat) (hs : Canon s) : Canon (deflectAll s d) := by
  simp [deflectAll, *]

@[simp] theorem canon_undeflect (s : State) (d : Nat) : Canon (undeflect s d) ↔ Canon s := by
  simp [undeflect]

@[simp] theorem canon_cellToPort (s : State) (e : XEntry) (p : Nat) (n : Nat) (hs : Canon s) : Canon (cellToPort s e p n) := by
  simp [cellToPort, *]

@[simp] theorem canon_cellToBridge (s : State) (d : Nat) (m : Nat) (e : XEntry) (n : Nat) : Canon (cellToBridge s d m e n) ↔ Canon s := by
  simp [cellToBridge]

@[simp] theorem canon_moveCell (d : Nat) (s : State) (r : XReq) (hs : Canon s) : Canon (moveCell d s r) := by
  simp only [moveCell]
  (repeat' split) <;> simp [*]

@[simp] theorem canon_bridgeArrive (s : State) (d : Nat) (m : Nat) (b : BEntry) (k : Nat) : Canon (bridgeArrive s d m b k) ↔ Canon s := by
  simp only [bridgeArrive]
  (repeat' split) <;> simp

@[simp] theorem canon_bridgeCells (s : State) (d : Nat) (m : Nat) (x : BEntry × Nat) : Canon (bridgeCells s d m x) ↔ Canon s := by
  simp [bridgeCells]

@[simp] theorem canon_bridgeRun (d : Nat) (s : State) (m : Nat) : Canon (bridgeRun d s m) ↔ Canon s := by
  simp [bridgeRun]

@[simp] theorem canon_refill (s : State) (d : Nat) : Canon (refill s d) ↔ Canon s := by
  simp [refill]

@[simp] theorem canon_reseed (s : State) (d : Nat) : Canon (reseed s d) ↔ Canon s := by
  simp [reseed]

@[simp] theorem canon_countStalls (s : State) (d : Nat) (before : List XEntry) : Canon (countStalls s d before) ↔ Canon s := by
  simp [countStalls]

@[simp] theorem canon_failCells (s : State) (d : Nat) : Canon (failCells s d) ↔ Canon s := by
  simp [failCells]

@[simp] theorem canon_cellTime (s : State) (d : Nat) (hs : Canon s) : Canon (cellTime s d) := by
  have deflected : Canon (deflectAll (divertDie ((diePorts s d).foldl egRetry (failCells s d)) d) d) :=
    canon_deflectAll _ _ (canon_divertDie _ _ ((canon_foldl_frame fun t p => by simp).mpr (by simp [hs])))
  have moved (l : List XReq) (u : State) (hu : Canon u) : Canon (l.foldl (moveCell d) u) := canon_foldl hu fun t r ht => by simp [ht]
  have bridged (l : List Nat) (u : State) (hu : Canon u) : Canon (l.foldl (bridgeRun d) u) := canon_foldl hu fun t r ht => by simp [ht]
  have counted (u : State) (l : List XEntry) (hu : Canon u) : Canon (undeflect (countStalls u d l) d) := by simp [hu]
  simp only [cellTime, canon_reseed, canon_refill]
  refine bridged _ _ (canon_divertDie _ _ ?_)
  rw [canon_updHub]
  exact counted _ _ (moved _ _ deflected)

@[simp] theorem canon_lineReady (s : State) (p : Nat) (sync : Bool) : Canon (lineReady s p sync) ↔ Canon s := by
  simp [lineReady]

@[simp] theorem canon_transmit (s0 : State) (p : Nat) (pkt0 : Packet) (hs0 : Canon s0) : Canon (transmit s0 p pkt0) := by
  simp [transmit, *]

@[simp] theorem canon_sendNext (s : State) (p : Nat) (hs : Canon s) : Canon (sendNext s p) := by
  simp only [sendNext]
  split <;> simp [*]

@[simp] theorem canon_echoAt (s : State) (d e : Nat) : Canon (echoAt s d e) ↔ Canon s := by
  simp only [echoAt, echoAt.decrease]
  split
  · split <;> simp
  · simp

@[simp] theorem canon_echo (s : State) (d : Nat) (e : Nat) : Canon (echo s d e) ↔ Canon s := by
  simp [echo]

@[simp] theorem canon_brakeRise (s : State) (d : Nat) (e : Nat) : Canon (brakeRise s d e) ↔ Canon s := by
  simp [brakeRise]

@[simp] theorem canon_armTimer (s : State) (d : Nat) (x : Held) : Canon (armTimer s d x) ↔ Canon s := by
  simp [armTimer]

@[simp] theorem canon_leaveUnit (s : State) (d : Nat) (x : Held) : Canon (leaveUnit s d x) ↔ Canon s := by
  simp [leaveUnit]

@[simp] theorem canon_chargeDie (s : State) (d : Nat) (p : Packet) : Canon (chargeDie s d p) ↔ Canon s := by
  simp [chargeDie]

@[simp] theorem canon_releaseResult (s : State) (d : Nat) (x : Held) : Canon (releaseResult s d x) ↔ Canon s := by
  simp [releaseResult]

@[simp] theorem canon_releasePacket (s : State) (d : Nat) (x : Held) (hs : Canon s) : Canon (releasePacket s d x) := by
  simp only [releasePacket]
  (repeat' split) <;> simp [*]

@[simp] theorem canon_releaseHeld (s : State) (d : Nat) (x : Held) (ecc : Ecc) (hs : Canon s) : Canon (releaseHeld s d x ecc) := by
  simp only [releaseHeld]
  (repeat' split) <;> simp [*]

@[simp] theorem canon_outDone (s : State) (o : OutPkt) : Canon (outDone s o) ↔ Canon s := by
  simp [outDone]

@[simp] theorem canon_resend (s : State) (o : OutPkt) (hs : Canon s) : Canon (resend s o) := by
  simp [resend, *]

@[simp] theorem canon_ackNow (s : State) (src : Nat) (hs : Canon s) : Canon (ackNow s src) := by
  simp [ackNow, *]

@[simp] theorem canon_ovfBad (s : State) (f : Flight) (hs : Canon s) : Canon (ovfBad s f) := by
  simp [ovfBad, *]

@[simp] theorem canon_drainList (n : Nat) (s : State) (p : Nat) (eccs : List Ecc) (hs : Canon s) : Canon (drainList n s p eccs) := by
  induction n generalizing s eccs with
  | zero => exact hs
  | succ n ih =>
    unfold drainList
    split
    · exact hs
    · split
      · exact ih _ _ (by split <;> simp [hs])
      · exact hs

@[simp] theorem canon_drainPort (s : State) (p : Nat) (eccs : List Ecc) (hs : Canon s) : Canon (drainPort s p eccs) := by
  simp [drainPort, *]

@[simp] theorem canon_ovfExhaust (s : State) (hs : Canon s) : Canon (ovfExhaust s) := by
  simp only [ovfExhaust]
  (repeat' split) <;> simp [*]

@[simp] theorem canon_markWindow (s : State) (p : Nat) : Canon (markWindow s p) ↔ Canon s := by
  simp [markWindow]

@[simp] theorem canon_histSample (s : State) (p : Nat) : Canon (histSample s p) ↔ Canon s := by
  simp [histSample]

@[simp] theorem canon_portFlushed (s : State) (p : Nat) : Canon (portFlushed s p) ↔ Canon s := by
  simp [portFlushed]

@[simp] theorem canon_dropCells (s : State) (b : Nat) : Canon (dropCells s b) ↔ Canon s := Iff.rfl

@[simp] theorem canon_beginRings (s : State) (b : Nat) (hs : Canon s) : Canon (beginRings s b) := by
  refine canon_foldl hs fun t k ht => ?_
  simp only
  split
  · split <;> simp [ht]
  · exact ht

@[simp] theorem canon_pauseBlock (s : State) (b : Nat) (hs : Canon s) : Canon (pauseBlock s b) := by
  simp only [pauseBlock]
  split <;> simp [*]

@[simp] theorem canon_boundary (s : State) (b v : Nat) (hs : Canon s) : Canon (boundary s b v) := by
  have recorded : Canon (recordBoundary (dropCells (updBlock s b fun x => { x with step := (v + 1) % 2 ^ 48, close := none }) b) b) := by simp [hs]
  have released := (canon_winRelease _ b).mpr (canon_beginRings _ b recorded)
  simp only [boundary]
  split
  · exact (canon_settle _).mpr (canon_pauseBlock _ _ released)
  · exact released

@[simp] theorem canon_boundaryCheck (s : State) (b : Nat) (hs : Canon s) : Canon (boundaryCheck s b) := by
  simp only [boundaryCheck]
  split <;> simp [*]

@[simp] theorem canon_shareEchoes (s : State) : Canon (shareEchoes s) ↔ Canon s := by
  simp only [shareEchoes]
  refine (canon_foldl_frame fun t d => by simp).trans (canon_foldl_frame fun t d => ?_)
  exact canon_foldl_frame fun t e => canon_foldl_frame fun t m => by simp

@[simp] theorem canon_shareOvf (s : State) : Canon (shareOvf s) ↔ Canon s := by
  simp [shareOvf]

@[simp] theorem canon_drained (s : State) : Canon (drained s) ↔ Canon s := by
  simp [drained]

@[simp] theorem canon_finishMcast (d : Nat) (s : State) (r : McastRep) (hs : Canon s) : Canon (finishMcast d s r) := by
  simp only [finishMcast]
  (repeat' split) <;> simp [*]

@[simp] theorem canon_shareMissing (s : State) (hs : Canon s) : Canon (shareMissing s) := by
  simp only [shareMissing]
  refine canon_foldl (by simp [hs]) fun t d ht => canon_foldl ht fun u m hu => by simp [hu]

@[simp] theorem canon_exchange (s : State) (hs : Canon s) : Canon (exchange s) := by
  simp +contextual [exchange, *]

@[simp] theorem canon_drainSlow (s : State) : Canon (drainSlow s) ↔ Canon s := by
  simp [drainSlow]

end Sys2Proof.Machine

/-! PROOFS. Canonical memories (log 4), function by function in the order of the model. Arrivals, register writes, self-test, Hold, Off, Rest and Setup entry. -/

namespace Sys2Proof.Machine

@[simp] theorem canon_countRefused (s : State) (port : Nat) : Canon (countRefused s port) ↔ Canon s := by
  simp [countRefused]

@[simp] theorem canon_blockRefused (s : State) (src : Nat) : Canon (blockRefused s src) ↔ Canon s := by
  simp only [blockRefused]
  split <;> simp

@[simp] theorem canon_nackRefused (s : State) (port : Nat) (p : Packet) (r : Reason) (hs : Canon s) : Canon (nackRefused s port p r) := by
  simp only [nackRefused]
  (repeat' split) <;> simp [*]

@[simp] theorem canon_noBlockEvent (s : State) (port : Nat) (src : Nat) : Canon (noBlockEvent s port src) ↔ Canon s := by
  simp [noBlockEvent]

@[simp] theorem canon_refuse45 (s : State) (port : Nat) (p : Packet) (r : Reason) (hs : Canon s) : Canon (refuse45 s port p r) := by
  simp [refuse45, *]

@[simp] theorem canon_refuseLocal (s : State) (port : Nat) (p : Packet) (r : Reason) (hs : Canon s) : Canon (refuseLocal s port p r) := by
  simp [refuseLocal, *]

@[simp] theorem canon_crossing (s : State) (port : Nat) (p : Packet) (target : Nat) (hs : Canon s) : Canon (crossing s port p target) := by
  simp [crossing, *]

@[simp] theorem canon_skewCheck (s : State) (p : Packet) (hs : Canon s) : Canon (skewCheck s p) := by
  simp only [skewCheck]
  split <;> simp [*]

@[simp] theorem canon_markEcho (s : State) (port : Nat) (h : Header) : Canon (markEcho s port h) ↔ Canon s := by
  simp [markEcho]

@[simp] theorem canon_ackPurpose (s : State) (e : Nat) (o : OutPkt) (hs : Canon s) : Canon (ackPurpose s e o) := by
  simp only [ackPurpose]
  split <;> simp [*]

@[simp] theorem canon_ackTaken (s : State) (port : Nat) (p : Packet) (hs : Canon s) : Canon (ackTaken s port p) := by
  simp +contextual [ackTaken, *]

@[simp] theorem canon_nackTaken (s : State) (port : Nat) (p : Packet) (hs : Canon s) : Canon (nackTaken s port p) := by
  simp only [nackTaken]
  split <;> simp [*]

@[simp] theorem canon_recvNote (s : State) (port : Nat) (h : Header) : Canon (recvNote s port h) ↔ Canon s := by
  simp [recvNote]

@[simp] theorem canon_ackCount (s : State) (came : Nat) (h : Header) (hs : Canon s) : Canon (ackCount s came h) := by
  simp [ackCount, *]

@[simp] theorem canon_dupTaken (s : State) (port : Nat) (p : Packet) (hs : Canon s) : Canon (dupTaken s port p) := by
  simp only [dupTaken]
  (repeat' split) <;> simp [*]

@[simp] theorem canon_recvNew (s : State) (port : Nat) (h : Header) : Canon (recvNew s port h) ↔ Canon s := by
  simp [recvNew]

@[simp] theorem canon_responseTaken (s : State) (b : Nat) (p : Packet) (hs : Canon s) : Canon (responseTaken s b p) := by
  simp only [responseTaken]
  (repeat' split) <;> simp [*]

@[simp] theorem canon_orFaulted (s : State) (w : LocalWait) (hs : Canon s) : Canon (orFaulted s w) := by
  simp [orFaulted, *]

theorem canon_contribTaken (s : State) (w : LocalWait) (hs : Canon s) (t : State) (ht : contribTaken s w = some t) : Canon t := by
  unfold contribTaken at ht
  simp only at ht
  split at ht
  · cases ht; simp [hs]
  · cases ht; exact canon_orFaulted _ _ (by simp [hs])
  · split at ht
    · cases ht
    · cases ht; exact canon_orFaulted _ _ (by simp [hs])

theorem canon_callTaken (s : State) (w : LocalWait) (hs : Canon s) (t : State) (ht : callTaken s w = some t) : Canon t := by
  unfold callTaken at ht
  simp only at ht
  split at ht
  · cases ht; simp [hs]
  · obtain ⟨u, queued, rfl⟩ := Option.map_eq_some_iff.mp ht
    exact canon_ackCount _ _ _ (canon_queueCall _ _ _ _ (by simp [hs]) _ queued)

theorem canon_takeLocal (s : State) (w : LocalWait) (hs : Canon s) (t : State) (ht : takeLocal s w = some t) : Canon t := by
  unfold takeLocal at ht
  simp only at ht
  split at ht
  · cases ht; simp [hs]
  split at ht
  · cases ht; simp [hs]
  split at ht
  · cases ht; simp [hs]
  split at ht
  · cases ht; simp [hs]
  split at ht
  · exact canon_contribTaken s w hs t ht
  split at ht
  · exact canon_callTaken s w hs t ht
  split at ht
  · cases ht; simp [hs]
  · cases ht
    refine canon_ackCount _ _ _ ?_
    split <;> simp [hs]

@[simp] theorem canon_runLocal (n : Nat) (s : State) (port : Nat) (hs : Canon s) : Canon (runLocal n s port) := by
  induction n generalizing s with
  | zero => exact hs
  | succ n ih =>
    unfold runLocal
    split
    · exact hs
    · split
      · exact hs
      · split
        · next taken => exact ih _ (canon_takeLocal _ _ (by simp [hs]) _ taken)
        · simp [hs]

@[simp] theorem canon_localEnter (s : State) (w : LocalWait) (hs : Canon s) : Canon (localEnter s w) := by
  simp [localEnter, *]

@[simp] theorem canon_takePacket (s : State) (port : Nat) (p : Packet) (checks : List LadleCheck) (hs : Canon s) : Canon (takePacket s port p checks) := by
  simp only [takePacket]
  split <;> simp [*]

@[simp] theorem canon_failingEnter (s : State) (port : Nat) (p : Packet) : Canon (failingEnter s port p) ↔ Canon s := by
  simp only [failingEnter]
  (repeat' split) <;> simp

@[simp] theorem canon_countCrc (s : State) (port : Nat) : Canon (countCrc s port) ↔ Canon s := by
  simp [countCrc]

@[simp] theorem canon_liveSeen (s : State) (port : Nat) (p : Packet) (failed : Bool) (hs : Canon s) : Canon (liveSeen s port p failed) := by
  simp [liveSeen, *]

@[simp] theorem canon_crcFailed (s : State) (port : Nat) (p : Packet) (hs : Canon s) : Canon (crcFailed s port p) := by
  simp [crcFailed, *]

@[simp] theorem canon_countArrival (s : State) (port : Nat) (p : Packet) : Canon (countArrival s port p) ↔ Canon s := by
  simp [countArrival]

@[simp] theorem canon_process (s : State) (port : Nat) (p : Packet) (checks : List LadleCheck) (hs : Canon s) : Canon (process s port p checks) := by
  simp [process, *]

@[simp] theorem canon_quarantined (s : State) (port : Nat) (n : Nat) : Canon (quarantined s port n) ↔ Canon s := by
  simp [quarantined]

@[simp] theorem canon_arrival (s : State) (port : Nat) (p : Packet) (checks : List LadleCheck) (hs : Canon s) : Canon (arrival s port p checks) := by
  simp [arrival, *]

@[simp] theorem canon_sendFrame (s : State) (x : Frame) : Canon (sendFrame s x) ↔ Canon s := by
  simp [sendFrame]

@[simp] theorem canon_writeWidth (s : State) (a : Nat) (w : Nat) (hs : Canon s) : Canon (writeWidth s a w) := by
  simp +contextual [writeWidth, *]

@[simp] theorem canon_regApply (s : State) (a : Nat) (r : Reg) (w : Nat) (hs : Canon s) : Canon (regApply s a r w) := by
  simp only [regApply]
  split <;> simp [*]

theorem canon_regWrite (s : State) (a word : Nat) (hs : Canon s) (t : State) (ht : regWrite s a word = .ok t) : Canon t := by
  unfold regWrite at ht
  split at ht
  · cases ht
  · simp only at ht
    split at ht
    · cases ht
    split at ht
    · cases ht
    split at ht
    · cases ht
    split at ht
    · cases ht
    · cases ht; simp [hs]

@[simp] theorem canon_regWrites (s : State) (a : Nat) (ws : List Word) (n : Nat) (hs : Canon s) : Canon (regWrites s a ws n).2.2 := by
  induction ws generalizing s n with
  | nil => exact hs
  | cons w ws ih =>
    unfold regWrites
    split
    · exact hs
    · next written => exact ih _ _ (canon_regWrite _ _ _ hs _ written)

@[simp] theorem canon_commitHeld (s : State) : Canon (commitHeld s).2 ↔ Canon s := by
  simp only [commitHeld]
  split <;> simp

@[simp] theorem canon_regWriteBody (addr : Nat) (count : Nat) (ws : List Word) (s : State) (hs : Canon s) : Canon (regWriteBody addr count ws s).1 := by
  simp only [regWriteBody]
  split <;> simp [*]

@[simp] theorem canon_updNext (s : State) (f : Slot → Slot) : Canon (updNext s f) ↔ Canon s := by
  simp [updNext]

@[simp] theorem canon_disarmNext (s : State) : Canon (disarmNext s) ↔ Canon s := by
  simp [disarmNext]

@[simp] theorem canon_raiseFloor (s : State) : Canon (raiseFloor s) ↔ Canon s := by
  simp only [raiseFloor]
  split <;> simp

@[simp] theorem canon_chooseSlot (s : State) : Canon (chooseSlot s) ↔ Canon s := by
  simp [chooseSlot]

@[simp] theorem canon_sealLogAdd (s : State) (loop : Nat) (kind : Nat) : Canon (sealLogAdd s loop kind) ↔ Canon s := by
  simp [sealLogAdd]

@[simp] theorem canon_stopEvent (s : State) : Canon (stopEvent s) ↔ Canon s := by
  simp only [stopEvent]
  split <;> simp

@[simp] theorem canon_bootSample (s : State) (i : PowerUpInput) : Canon (bootSample s i) ↔ Canon s := Iff.rfl

@[simp] theorem canon_bootRecord (s : State) (i : PowerUpInput) : Canon (bootRecord s i) ↔ Canon s := by
  simp [bootRecord]

@[simp] theorem canon_boot (s : State) (i : PowerUpInput) : Canon (boot s i) ↔ Canon s := by
  simp [boot]

@[simp] theorem canon_powerUp (s : State) (i : PowerUpInput) : Canon (powerUp s i) ↔ Canon s := by
  simp [powerUp]

@[simp] theorem canon_lastResponse (s : State) (hs : Canon s) : Canon (lastResponse s) := by
  simp only [lastResponse]
  (repeat' split) <;> simp [*]

@[simp] theorem canon_goOff (s : State) (stop : Option StopRecord) : Canon (goOff s stop) := ⟨rfl, rfl, rfl⟩

@[simp] theorem canon_unqualify (s : State) (hs : Canon s) : Canon (unqualify s) := by
  simp [unqualify, *]

@[simp] theorem canon_protectiveStop (s : State) (ovp : Bool) (hs : Canon s) : Canon (protectiveStop s ovp) := by
  simp [protectiveStop, *]

@[simp] theorem canon_pinReset (s : State) (hs : Canon s) : Canon (pinReset s) := by
  simp [pinReset, *]

@[simp] theorem canon_resetNRelease (s : State) (inRange : Bool) (i : PowerUpInput) : Canon (resetNRelease s inRange i) ↔ Canon s := by
  simp [resetNRelease]

@[simp] theorem canon_cutLine (s : State) : Canon (cutLine s) ↔ Canon s := by
  simp [cutLine]

@[simp] theorem canon_refclkAbsent (s : State) (hs : Canon s) : Canon (refclkAbsent s) := by
  simp only [refclkAbsent]
  split <;> simp [*]

@[simp] theorem canon_refclkRestored (s : State) : Canon (refclkRestored s) ↔ Canon s := by
  simp only [refclkRestored]
  split <;> simp

@[simp] theorem canon_freshPlane (s : State) : Canon (freshPlane s) ↔ Canon s := Iff.rfl

@[simp] theorem canon_freshLarder (s : State) : Canon (freshLarder s) ↔ Canon s := Iff.rfl

@[simp] theorem canon_epochSetup (s : State) (cold : Bool) : Canon (epochSetup s cold) ↔ Canon s := by
  simp [epochSetup]

@[simp] theorem canon_enterSetup (s : State) (t : Transition) (imagesOk : Bool) (hs : Canon s) : Canon (enterSetup s t imagesOk) := by
  simp [enterSetup, *]

@[simp] theorem canon_setupEntry (s : State) (imagesOk : Bool) (hs : Canon s) : Canon (setupEntry s imagesOk) := by
  simp only [setupEntry]
  split <;> simp [*]

@[simp] theorem canon_repairFound (s : State) (u : RepairUnit) : Canon (repairFound s u) ↔ Canon s := by
  simp [repairFound]

@[simp] theorem canon_scratchLost (s : State) (img : Nat) (hs : Canon s) : Canon (scratchLost s img) := by
  simp [scratchLost, *]

@[simp] theorem canon_setMaps (s : State) : Canon (setMaps s) ↔ Canon s := Iff.rfl

@[simp] theorem canon_mapSpares (s : State) : Canon (mapSpares s) ↔ Canon s := by
  simp [mapSpares]

theorem wf_keepMem (s : State) {m : Mem} (hm : Mem.wf m = true) (size : Nat) : Mem.wf (keepMem s m size) = true := Tab.wf_filter hm _

@[simp] theorem canon_testMem (s : State) (hs : Canon s) : Canon (testMem s) := by
  refine ⟨?_, wf_keepMem s hs.scratch _, wf_keepMem s hs.cmem _⟩
  unfold testMem
  simp only
  split
  · exact hs.lard
  · rfl

@[simp] theorem canon_selfTest (s : State) (r : SelfTest) (hs : Canon s) : Canon (selfTest s r) := by
  have repaired : Canon (r.failed.foldl repairFound (testMem s)) := canon_foldl (by simp [hs]) fun t u ht => by simp [ht]
  have mapped : Canon (r.lostScratch.foldl scratchLost (mapSpares (r.failed.foldl repairFound (testMem s)))) :=
    canon_foldl (by simp [repaired]) fun t i ht => by simp [ht]
  unfold selfTest
  split
  · exact hs
  · extract_lets u _ v bad w
    have left : Canon v := by unfold v; split <;> simp [u, mapped]
    have noted : Canon w := by simp [w, left]
    split
    · exact canon_foldl noted fun t p ht => by simp [ht]
    · simp [noted]

@[simp] theorem canon_enterReady (s : State) : Canon (enterReady s) ↔ Canon s := by
  simp [enterReady]

@[simp] theorem canon_readyCheck (s : State) : Canon (readyCheck s) ↔ Canon s := by
  simp [readyCheck]

@[simp] theorem canon_endRings (s : State) (hs : Canon s) : Canon (endRings s) := by
  simp +contextual [endRings, *]

@[simp] theorem canon_finishParts (n : Nat) (s : State) (hs : Canon s) : Canon (finishParts n s) := by
  induction n generalizing s with
  | zero => exact hs
  | succ n ih =>
    unfold finishParts
    split
    · exact hs
    · exact ih _ (canon_foldl hs fun t ld ht => by simp [ht])

@[simp] theorem canon_finishWrites (s : State) (hs : Canon s) : Canon (finishWrites s) := by
  simp [finishWrites, *]

/-- Scratch and the clusters' memories replaced by canonical ones, the larder's requests and queues emptied. -/
theorem canon_restMemories {u : State} (hu : Canon u) {sc cm : Mem} (hsc : Mem.wf sc = true) (hcm : Mem.wf cm = true) (dies : Tab LDie) :
    Canon { u with scratch := sc, cmem := cm, lard := { u.lard with reqs := [], cells := [], state := 2, recHeld := [], dies := dies } } :=
  ⟨hu.lard, hsc, hcm⟩

@[simp] theorem canon_enterRest (s : State) (t : Transition) (hs : Canon s) : Canon (enterRest s t) := by
  unfold enterRest
  extract_lets dr fix _ s1 s2 s3 sc cm s4 _ s5 s6
  have sealed : Canon s2 := (canon_foldl_frame fun t v => by simp).mpr (by simp [s1, hs])
  have written : Canon s3 := by simp [s3, sealed]
  have fresh : Canon s4 := by simp [s4, written]
  have kept : Canon s5 := canon_restMemories fresh (wf_keepMem s3 written.scratch _) (wf_keepMem s3 written.cmem _) _
  have synced : Canon s6 := (canon_foldl_frame fun t k => by simp).mpr kept
  simp [synced]

@[simp] theorem canon_restEntry (s : State) (hs : Canon s) : Canon (restEntry s) := by
  simp only [restEntry]
  split <;> simp [*]

@[simp] theorem canon_enterStandby (s : State) : Canon (enterStandby s) := by
  unfold enterStandby
  extract_lets s1 _ s2 s3
  have emptied : Canon s2 := ⟨rfl, rfl, rfl⟩
  have cut : Canon s3 := by unfold s3; split <;> simp [emptied]
  simp [cut]

@[simp] theorem canon_enterDrain (s : State) : Canon (enterDrain s) ↔ Canon s := by
  simp [enterDrain]

@[simp] theorem canon_drainLimit (s : State) (hs : Canon s) : Canon (drainLimit s) := by
  simp +contextual [drainLimit, *]

@[simp] theorem canon_dropOverflow (s : State) : Canon (dropOverflow s) ↔ Canon s := by
  simp [dropOverflow]

@[simp] theorem canon_beginTrans (s : State) (tag : Nat) (t : ModState) (warm : Bool) : Canon (beginTrans s tag t warm).1 ↔ Canon s := by
  simp [beginTrans]

@[simp] theorem canon_stateSet (tag : Nat) (target : Nat) (s : State) (hs : Canon s) : Canon (stateSet tag target s).1 := by
  simp only [stateSet]
  (repeat' split) <;> simp +contextual [*]

end Sys2Proof.Machine

/-! PROOFS. Canonical memories (log 4), function by function in the order of the model. Power, coolant, certification, cores, links and training, galley services and accesses. -/

namespace Sys2Proof.Machine

@[simp] theorem canon_applyLimits (s : State) : Canon (applyLimits s) ↔ Canon s := Iff.rfl

@[simp] theorem canon_addCause (s : State) (c : Nat) : Canon (addCause s c) ↔ Canon s := by
  simp [addCause]

@[simp] theorem canon_shedCheck (s : State) : Canon (shedCheck s) ↔ Canon s := by
  simp [shedCheck]

@[simp] theorem canon_dropCause (s : State) (c : Nat) : Canon (dropCause s c) ↔ Canon s := by
  simp [dropCause]

@[simp] theorem canon_capFloor (s : State) (hs : Canon s) : Canon (capFloor s) := by
  simp only [capFloor]
  (repeat' split) <;> simp +contextual [*]

@[simp] theorem canon_capChanged (s : State) (hs : Canon s) : Canon (capChanged s) := by
  simp [capChanged, *]

@[simp] theorem canon_heartbeat (s : State) (hs : Canon s) : Canon (heartbeat s) := by
  simp only [heartbeat]
  split <;> simp [*]

@[simp] theorem canon_orphanEnter (s : State) (hs : Canon s) : Canon (orphanEnter s) := by
  simp [orphanEnter, *]

@[simp] theorem canon_capOverrun (s : State) (draw : Option Nat) : Canon (capOverrun s draw) ↔ Canon s := by
  simp only [capOverrun]
  split <;> simp

@[simp] theorem canon_inputRecovered (s : State) (volts : Nat) : Canon (inputRecovered s volts) ↔ Canon s := by
  simp [inputRecovered]

@[simp] theorem canon_droopStretch (s : State) (d : Nat) : Canon (droopStretch s d) ↔ Canon s := by
  simp [droopStretch]

@[simp] theorem canon_droopRelease (s : State) (d : Nat) : Canon (droopRelease s d) ↔ Canon s := by
  simp [droopRelease]

@[simp] theorem canon_marginLow (s : State) (p : Nat) (atLimit : Bool) (hs : Canon s) : Canon (marginLow s p atLimit) := by
  simp [marginLow, *]

@[simp] theorem canon_coolLowFlow (s : State) (flow : Nat) (bad : Bool) : Canon (coolLowFlow s flow bad) ↔ Canon s := by
  simp [coolLowFlow]

@[simp] theorem canon_flowRecovered (s : State) (flow : Nat) : Canon (flowRecovered s flow) ↔ Canon s := by
  simp [flowRecovered]

@[simp] theorem canon_setLoop (s : State) (loop : Nat) (v : Nat) : Canon (setLoop s loop v) ↔ Canon s := by
  simp [setLoop]

@[simp] theorem canon_leak (s : State) (loop : Nat) (hs : Canon s) : Canon (leak s loop) := by
  simp [leak, *]

@[simp] theorem canon_loopReading (s : State) (loop : Nat) (r : Nat) (hs : Canon s) : Canon (loopReading s loop r) := by
  simp only [loopReading]
  (repeat' split) <;> simp [*]

@[simp] theorem canon_suspectCheck (s : State) : Canon (suspectCheck s) ↔ Canon s := by
  simp [suspectCheck]

@[simp] theorem canon_dualCheck (s : State) : Canon (dualCheck s) ↔ Canon s := by
  unfold dualCheck
  extract_lets t both old add u
  have same : Canon u ↔ Canon s := Iff.rfl
  clear_value u
  rw [canon_ite, canon_ite, canon_dropCause, canon_addCause, same, ite_self, ite_self]

@[simp] theorem canon_stackHeat (s : State) (hs : Canon s) : Canon (stackHeat s) := by
  simp only [stackHeat]
  split <;> simp [*]

@[simp] theorem canon_thermalLoop (s : State) (hs : Canon s) : Canon (thermalLoop s) := by
  simp [thermalLoop, *]

@[simp] theorem canon_thermalHold (s : State) (p : Nat) (hs : Canon s) : Canon (thermalHold s p) := by
  simp [thermalHold, *]

@[simp] theorem canon_thermalTrip (s : State) (p : Nat) (i : Nat) (v : Int) (hs : Canon s) : Canon (thermalTrip s p i v) := by
  simp [thermalTrip, *]

@[simp] theorem canon_readSensors (s : State) (x : Sensed) : Canon (readSensors s x) ↔ Canon s := by
  simp [readSensors]

@[simp] theorem canon_slowLoop (s : State) : Canon (slowLoop s) ↔ Canon s := by
  simp [slowLoop]

@[simp] theorem canon_rampLoop (s : State) (demand : Nat) : Canon (rampLoop s demand) ↔ Canon s := by
  simp [rampLoop]

@[simp] theorem canon_burnLoop (s : State) (demand : Nat) : Canon (burnLoop s demand) ↔ Canon s := by
  simp [burnLoop]

@[simp] theorem canon_voltageLoop (s : State) (want : List Int) : Canon (voltageLoop s want) ↔ Canon s := by
  simp [voltageLoop]

@[simp] theorem canon_capCauses (s : State) : Canon (capCauses s) ↔ Canon s := by
  simp [capCauses]

@[simp] theorem canon_restartAt (s : State) (p : Nat) (hs : Canon s) : Canon (restartAt s p) := by
  simp [restartAt, *]

@[simp] theorem canon_planInstall (tag : Nat) (own : List Byte) (s : State) (hs : Canon s) : Canon (planInstall tag own s).1 := by
  simp only [planInstall]
  (repeat' split) <;> simp +contextual [*]

@[simp] theorem canon_planEdit (port : Nat) (state : Nat) (s : State) (hs : Canon s) : Canon (planEdit port state s).1 := by
  simp only [planEdit]
  (repeat' split) <;> simp [*]

@[simp] theorem canon_swapCheck (s : State) (p : Nat) : Canon (swapCheck s p) ↔ Canon s := by
  simp [swapCheck]

@[simp] theorem canon_quarantine (s : State) (p : Nat) (i : Ident) (res : Nat) : Canon (quarantine s p i res) ↔ Canon s := by
  simp [quarantine]

@[simp] theorem canon_portMisplaced (s : State) (p : Nat) : Canon (portMisplaced s p) ↔ Canon s := by
  simp only [portMisplaced]
  (repeat' split) <;> simp

@[simp] theorem canon_enterStage (s : State) (p : Nat) (st : Stage) : Canon (enterStage s p st) ↔ Canon s := by
  simp [enterStage]

@[simp] theorem canon_countFrame (s : State) (p : Nat) (m : Nat) (good : Bool) : Canon (countFrame s p m good) ↔ Canon s := by
  simp [countFrame]

@[simp] theorem canon_drawLanes (s : State) (p : Nat) (n : Nat) (f : Lane → Nat → Lane) : Canon (drawLanes s p n f) ↔ Canon s := by
  simp [drawLanes]

@[simp] theorem canon_detectFrame (s : State) (p : Nat) (l : Nat) (m : Nat) (inverted : Bool) : Canon (detectFrame s p l m inverted) ↔ Canon s := by
  simp [detectFrame]

@[simp] theorem canon_soundFrame (s : State) (p : Nat) (l : Nat) (m : Nat) (c : Nat) (errorsLow : Bool) : Canon (soundFrame s p l m c errorsLow) ↔ Canon s := by
  simp [soundFrame]

@[simp] theorem canon_partnerRestart (s : State) (p : Nat) (hs : Canon s) : Canon (partnerRestart s p) := by
  simp only [partnerRestart]
  split <;> simp [*]

@[simp] theorem canon_validFrame (s0 : State) (p : Nat) (m : Nat) (c : Nat) (inverted : Bool) (errorsLow : Bool) (hs0 : Canon s0) : Canon (validFrame s0 p m c inverted errorsLow) := by
  simp only [validFrame]
  split <;> simp [*]

@[simp] theorem canon_trainingFrame (s : State) (p : Nat) (m : Nat) (c : Nat) (inverted : Bool) (errorsLow : Bool) (hs : Canon s) : Canon (trainingFrame s p m c inverted errorsLow) := by
  simp [trainingFrame, *]

@[simp] theorem canon_stageFail (s : State) (p : Nat) (cause : Nat) : Canon (stageFail s p cause) ↔ Canon s := by
  simp [stageFail]

@[simp] theorem canon_swingGone (s : State) (p : Nat) : Canon (swingGone s p) ↔ Canon s := by
  simp [swingGone]

@[simp] theorem canon_stageTimeout (s : State) (p : Nat) (swingLost : Bool) : Canon (stageTimeout s p swingLost) ↔ Canon s := by
  simp only [stageTimeout]
  split <;> simp

@[simp] theorem canon_backOffEnd (s : State) (p : Nat) : Canon (backOffEnd s p) ↔ Canon s := by
  simp [backOffEnd]

@[simp] theorem canon_listenBeacon (s : State) (p : Nat) : Canon (listenBeacon s p) ↔ Canon s := by
  simp [listenBeacon]

@[simp] theorem canon_lanesSignal (s : State) (p : Nat) (v : Bool) : Canon (lanesSignal s p v) ↔ Canon s := by
  simp [lanesSignal]

@[simp] theorem canon_listenSwing (s : State) (p : Nat) : Canon (listenSwing s p) ↔ Canon s := by
  simp [listenSwing]

@[simp] theorem canon_bitSlipSearch (s : State) (l : Nat) (found : Option Nat) : Canon (bitSlipSearch s l found) ↔ Canon s := by
  simp only [bitSlipSearch]
  (repeat' split) <;> simp

@[simp] theorem canon_alignExit (s : State) (p : Nat) : Canon (alignExit s p) ↔ Canon s := by
  simp [alignExit]

@[simp] theorem canon_certUnable (s : State) (p : Nat) : Canon (certUnable s p) ↔ Canon s := by
  simp [certUnable]

@[simp] theorem canon_certAnswer (s : State) (p : Nat) (i : Ident) : Canon (certAnswer s p i) ↔ Canon s := by
  simp [certAnswer]

@[simp] theorem canon_enterVerify (s : State) (p : Nat) (i : Ident) : Canon (enterVerify s p i) ↔ Canon s := by
  simp [enterVerify]

@[simp] theorem canon_sendIdentity (s : State) (p : Nat) : Canon (sendIdentity s p) ↔ Canon s := by
  simp [sendIdentity]

@[simp] theorem canon_identityMessage (s : State) (p : Nat) (m : List Byte) : Canon (identityMessage s p m) ↔ Canon s := by
  simp only [identityMessage]
  (repeat' split) <;> simp

@[simp] theorem canon_medianIn (s : State) (u : Nat) (l : List Int) : Canon (medianIn s u l).2 ↔ Canon s := by
  simp only [medianIn]
  split <;> simp

@[simp] theorem canon_timingMessage (s : State) (p : Nat) (m : List Byte) (rx : Nat) : Canon (timingMessage s p m rx) ↔ Canon s := by
  simp [timingMessage]

@[simp] theorem canon_prbsBegin (s : State) (l : Nat) (pattern : Nat) (gen : Bool) (chk : Bool) : Canon (prbsBegin s l pattern gen chk) ↔ Canon s := by
  simp [prbsBegin]

@[simp] theorem canon_certPrbs (s : State) (p : Nat) : Canon (certPrbs s p) ↔ Canon s := by
  simp [certPrbs]

@[simp] theorem canon_comeUp (s : State) (p : Nat) : Canon (comeUp s p) ↔ Canon s := by
  simp [comeUp]

@[simp] theorem canon_countCe (s : State) (n : Nat) (ls : List Nat) : Canon (countCe s n ls) ↔ Canon s := by
  induction ls generalizing s n with
  | nil => exact Iff.rfl
  | cons l ls ih =>
    cases ls with
    | nil => simp [countCe]
    | cons m ls => simp only [countCe]; exact (ih _ _).trans (by simp)

@[simp] theorem canon_verifyEnd (s : State) (p : Nat) (ue : Nat) (ce : Nat) (rx : Nat) : Canon (verifyEnd s p ue ce rx) ↔ Canon s := by
  simp [verifyEnd]

@[simp] theorem canon_certSpoil (s : State) (p : Nat) (mode : Nat) : Canon (certSpoil s p mode) ↔ Canon s := by
  simp [certSpoil]

@[simp] theorem canon_lostPacket (port : Nat) (s : State) (p : Packet) (hs : Canon s) : Canon (lostPacket port s p) := by
  simp [lostPacket, *]

@[simp] theorem canon_uncorrectable (s : State) (p : Nat) (lanes : List Nat) (headers : List Packet) (hs : Canon s) : Canon (uncorrectable s p lanes headers) := by
  unfold uncorrectable
  extract_lets own s1 s2 s3 ts s4
  have counted : Canon s1 := (canon_foldl_frame fun t x => by simp).mpr hs
  have spoilt : Canon s2 := by simp [s2, counted]
  have lost : Canon s3 := by
    unfold s3
    split
    · exact canon_foldl spoilt fun t x ht => by simp [ht]
    · exact spoilt
  have noted : Canon s4 := by simp [s4, lost]
  split
  · split <;> simp [noted]
  · exact counted

@[simp] theorem canon_quarRound (s : State) (p : Nat) (ws : List (List Nat)) : Canon (quarRound s p ws) ↔ Canon s := by
  simp [quarRound]

@[simp] theorem canon_roundTaken (s : State) (p : Nat) (ws : List (List Nat)) (headers : List Packet) (hs : Canon s) : Canon (roundTaken s p ws headers) := by
  unfold roundTaken
  extract_lets s1
  have counted : Canon s1 := (canon_foldl_frame fun t e => by split <;> simp).mpr hs
  split
  · exact counted
  · exact canon_uncorrectable _ _ _ _ (by simp [counted])

@[simp] theorem canon_lockGone (s : State) (p : Nat) : Canon (lockGone s p) ↔ Canon s := by
  simp [lockGone]

@[simp] theorem canon_linkDown (s0 : State) (p : Nat) (cause : Nat) (hs0 : Canon s0) : Canon (linkDown s0 p cause) := by
  simp only [linkDown]
  (repeat' split) <;> simp [*]

@[simp] theorem canon_lanesIdle (s : State) (p : Nat) (v : Bool) : Canon (lanesIdle s p v) ↔ Canon s := by
  simp [lanesIdle]

@[simp] theorem canon_enterIdle (s : State) (p : Nat) : Canon (enterIdle s p) ↔ Canon s := by
  simp [enterIdle]

@[simp] theorem canon_idleExitBurst (s : State) (p : Nat) : Canon (idleExitBurst s p) ↔ Canon s := by
  simp [idleExitBurst]

@[simp] theorem canon_idleExit (s : State) (p : Nat) (hs : Canon s) : Canon (idleExit s p) := by
  simp [idleExit, *]

@[simp] theorem canon_syncArrival (s : State) (port : Nat) (p : Packet) (rx : Nat) (hs : Canon s) : Canon (syncArrival s port p rx) := by
  simp [syncArrival, *]

@[simp] theorem canon_syncEnter (s : State) (p : Nat) (hs : Canon s) : Canon (syncEnter s p) := by
  simp [syncEnter, *]

@[simp] theorem canon_syncSend (s : State) (hs : Canon s) : Canon (syncSend s) := by
  simp +contextual [syncSend, *]

@[simp] theorem canon_steer (s : State) (med : Int) (dt : Nat) : Canon (steer s med dt) ↔ Canon s := by
  simp [steer]

@[simp] theorem canon_lockCheck (s : State) (med : Int) : Canon (lockCheck s med) ↔ Canon s := by
  simp [lockCheck]

@[simp] theorem canon_servo (s0 : State) : Canon (servo s0) ↔ Canon s0 := by
  simp only [servo]
  (repeat' split) <;> simp

@[simp] theorem canon_selfLock (s : State) : Canon (selfLock s) ↔ Canon s := by
  simp only [selfLock]
  split <;> simp

@[simp] theorem canon_disablePort (s : State) (p : Nat) (hs : Canon s) : Canon (disablePort s p) := by
  simp [disablePort, *]

@[simp] theorem canon_linkEnable (s : State) (p : Nat) (hs : Canon s) : Canon (linkEnable s p) := by
  simp [linkEnable, *]

@[simp] theorem canon_prbsStart (lane : Nat) (pattern : Nat) (direction : Nat) (s : State) : Canon (prbsStart lane pattern direction s).1 ↔ Canon s := by
  simp only [prbsStart]
  (repeat' split) <;> simp

@[simp] theorem canon_prbsRead (lane : Nat) (s0 : State) : Canon (prbsRead lane s0).1 ↔ Canon s0 := by
  simp [prbsRead]

@[simp] theorem canon_lockLost (s : State) (lane : Nat) (b : Nat) (e : Nat) (y : Nat) : Canon (lockLost s lane b e y) ↔ Canon s := by
  simp [lockLost]

@[simp] theorem canon_eyeScan (tag : Nat) (lane : Nat) (eye : Nat) (s : State) : Canon (eyeScan tag lane eye s).1 ↔ Canon s := by
  simp only [eyeScan]
  (repeat' split) <;> simp

@[simp] theorem canon_eyeDone (s : State) (chiplet : Nat) (counts : List Word) : Canon (eyeDone s chiplet counts) ↔ Canon s := by
  simp only [eyeDone]
  split <;> simp

@[simp] theorem canon_certBegin (s : State) (tag : Option Nat) (mode : Nat) (dwell : Nat) (ports : List Nat) : Canon (certBegin s tag mode dwell ports) ↔ Canon s := Iff.rfl

@[simp] theorem canon_certAsk (dwell : Nat) (s : State) (p : Nat) (hs : Canon s) : Canon (certAsk dwell s p) := by
  simp [certAsk, *]

@[simp] theorem canon_certRun (tag : Nat) (port : Nat) (mode : Nat) (dwell : Nat) (s : State) (hs : Canon s) : Canon (certRun tag port mode dwell s).1 := by
  simp only [certRun]
  (repeat' split) <;> simp +contextual [*]

@[simp] theorem canon_certPort (run : CertRun) (acc : State × Nat) (r : Nat × Nat × Nat × Bool) : Canon (certPort run acc r).1 ↔ Canon acc.1 := by
  simp only [certPort]
  (repeat' split) <;> simp

@[simp] theorem canon_certSilent (s : State) (p : Nat) : Canon (certSilent s p).2 ↔ Canon s := by
  simp [certSilent]

@[simp] theorem canon_certFill (run : CertRun) (rs : List (Nat × Nat × Nat × Bool)) (acc : State × Nat) (p : Nat) : Canon (certFill run rs acc p).1 ↔ Canon acc.1 := by
  simp only [certFill]
  split <;> simp

@[simp] theorem canon_certRelease (s : State) (p : Nat) (hs : Canon s) : Canon (certRelease s p) := by
  simp [certRelease, *]

@[simp] theorem canon_certClose (s0 : State) (p : Nat) (hs0 : Canon s0) : Canon (certClose s0 p) := by
  simp [certClose, *]

@[simp] theorem canon_certExpire (s : State) (t : Nat) (hs : Canon s) : Canon (certExpire s t) := by
  simp +contextual [certExpire, *]

theorem canon_certFills (r : CertRun) (rs : List (Nat × Nat × Nat × Bool)) (ps : List Nat) (acc : State × Nat) :
    Canon (ps.foldl (certFill r rs) acc).1 ↔ Canon acc.1 := by
  induction ps generalizing acc with
  | nil => exact Iff.rfl
  | cons p ps ih => exact (ih _).trans (canon_certFill _ _ _ _)

@[simp] theorem canon_certDone (s : State) (mode : Nat) (rs : List (Nat × Nat × Nat × Bool)) (hs : Canon s) : Canon (certDone s mode rs) := by
  unfold certDone
  split
  · exact hs
  · extract_lets u r
    have waited : Canon u := by simp only [u, canon_waitUntil]; split <;> simp [hs]
    have filled := (canon_certFills r rs r.ports (u, 0)).mpr waited
    generalize r.ports.foldl (certFill r rs) (u, 0) = acc at filled
    obtain ⟨s1, bad⟩ := acc
    have noted : Canon s1 := filled
    dsimp -zeta only
    extract_lets s2 s3
    have freed : Canon s2 := by
      unfold s2
      split
      · exact canon_foldl noted fun t x ht => by simp [ht]
      · exact noted
    have told : Canon s3 := by simp [s3, freed]
    split <;> simp [told]

@[simp] theorem canon_certSchedule (s : State) : Canon (certSchedule s) ↔ Canon s := by
  simp [certSchedule]

@[simp] theorem canon_loadCopy (s : State) : Canon (loadCopy s) ↔ Canon s := by
  simp only [loadCopy]
  split <;> simp

@[simp] theorem canon_writeCopy (s : State) (whole : Bool) : Canon (writeCopy s whole) ↔ Canon s := by
  simp [writeCopy]

@[simp] theorem canon_controlCycle (s : State) (x : Sensed) (copied : Bool) (hs : Canon s) : Canon (controlCycle s x copied) := by
  unfold controlCycle
  extract_lets t s1 s2 s3 s4 src s5
  have read : Canon s1 := by simp [s1, hs]
  have heated : Canon (stackHeat (thermalLoop (suspectCheck s1))) := by simp [read]
  have set : Canon s2 := by simp [s2, heated]
  have loaded : Canon s3 := by simp [s3, set]
  have released : Canon s4 := by simp [s4, loaded]
  split
  · exact hs
  · simp [s5, released]

@[simp] theorem canon_restartAll (s : State) : Canon (restartAll s) ↔ Canon s := by
  simp [restartAll]

@[simp] theorem canon_skipTelem (s : State) : Canon (skipTelem s) ↔ Canon s := by
  simp [skipTelem]

@[simp] theorem canon_stopAlone (s : State) : Canon (stopAlone s) ↔ Canon s := by
  simp [stopAlone]

@[simp] theorem canon_takeover (s : State) (cause : Nat) : Canon (takeover s cause) ↔ Canon s := by
  unfold takeover
  extract_lets e other s1 s2 gap a b third e1 e2 s3 s4 s5
  have waited : Canon s1 ↔ Canon s := by unfold s1; split <;> simp
  have bounded : Canon s2 ↔ Canon s := (canon_elapse _ _).trans waited
  have loaded : Canon s3 ↔ Canon s := by simp [s3, bounded]
  have told : Canon s4 ↔ Canon s := by simp [s4, loaded]
  have single : Canon s5 ↔ Canon s := by unfold s5; split <;> simp [told]
  split
  · rfl
  · split <;> simp [single]

@[simp] theorem canon_coreRestart (s : State) (b : Bool) (imageOk : Bool) (hs : Canon s) : Canon (coreRestart s b imageOk) := by
  simp [coreRestart, *]

@[simp] theorem canon_takeback (s : State) : Canon (takeback s) ↔ Canon s := by
  simp [takeback]

@[simp] theorem canon_watchdog (s : State) (hs : Canon s) : Canon (watchdog s) := by
  simp [watchdog, *]

theorem canon_csrRead (s : State) (t : ThreadRef) (a : Nat) (k : Nat) (u : State) (ht : csrRead s t a = some (k, u)) :
    Canon u ↔ Canon s := by
  have same : u = s ∨ u = (draw s).2 := by
    unfold csrRead at ht
    simp only at ht
    split at ht <;> simp at ht <;> simp [← ht.2]
  rcases same with rfl | rfl
  · rfl
  · exact canon_draw s

theorem canon_csrRun (s : State) (t : ThreadRef) (f3 rd rs1 a : Nat) (u : State) (hu : csrRun s t f3 rd rs1 a = some u) :
    Canon u ↔ Canon s := by
  unfold csrRun at hu
  obtain ⟨⟨old, v⟩, read, rest⟩ := Option.bind_eq_some_iff.mp hu
  have kept := canon_csrRead s t a old v read
  simp only at rest
  split at rest
  · cases rest; exact (canon_setX _ _ _ _).trans kept
  · obtain ⟨w, -, rfl⟩ := Option.map_eq_some_iff.mp rest
    simp [kept]

@[simp] theorem canon_vsetRun (s : State) (t : ThreadRef) (rd : Nat) (avl : Nat ⊕ Nat) (vtype : Nat ⊕ Nat) : Canon (vsetRun s t rd avl vtype) ↔ Canon s := by
  simp only [vsetRun]
  (repeat' split) <;> simp

@[simp] theorem canon_issued (s : State) (t : ThreadRef) : Canon (issued s t) ↔ Canon s := by
  simp [issued]

@[simp] theorem canon_tzSubmit (s : State) (t : ThreadRef) (a : Nat) (e : Nat) (hs : Canon s) : Canon (tzSubmit s t a e) := by
  simp [tzSubmit, *]

@[simp] theorem canon_thrRead (s : State) (t : ThreadRef) (a : Nat) (n : Nat) (ecc : Ecc) (hs : Canon s) : Canon (thrRead s t a n ecc).2 := by
  simp only [thrRead]
  (repeat' split) <;> simp [*]

@[simp] theorem canon_sendOwn (s : State) (t : ThreadRef) (h : Header) (payload : List Byte) (rs2 : Nat) (hs : Canon s) : Canon (sendOwn s t h payload rs2) := by
  unfold sendOwn
  extract_lets b typ fault img entry i
  have faulted : Canon fault := by simp [fault, hs]
  have numbered : Canon (takeSeq s (ownEpa s)).2 := by simp [hs]
  generalize takeSeq s (ownEpa s) = taken at numbered
  obtain ⟨n, s1⟩ := taken
  split
  · split
    · exact faulted
    · split
      · simp [hs]
      · dsimp only
        split
        · next u queued => exact (canon_retire _ _).mpr (canon_queueCall _ _ _ _ numbered _ queued)
        · exact hs
  · dsimp only
    split
    · exact faulted
    · split
      · exact faulted
      · split
        · simp [hs]
        · exact faulted
        · simp only [canon_lardEnter]
          have numbered : Canon s1 := numbered
          split <;> simp [numbered]

theorem canon_ite_of {c : Prop} {_ : Decidable c} {a b : State} (yes : Canon a) (no : Canon b) : Canon (if c then a else b) := by
  split
  · exact yes
  · exact no

/-- The read that a sending thread makes: its template's span for a READ_REQ, else its payload. -/
theorem canon_sendRead {c : Prop} [Decidable c] (s : State) (t : ThreadRef) (a b m n : Nat) (ecc : Ecc) (hs : Canon s) :
    Canon (if c then thrRead s t a m ecc else thrRead s t b n ecc).2 := by
  split <;> simp [hs]

@[simp] theorem canon_tzSend (s : State) (t : ThreadRef) (rs1 rs2 : Nat) (ecc : Ecc) (hs : Canon s) : Canon (tzSend s t rs1 rs2 ecc) := by
  have faulted (cause addr : Nat) : Canon (threadFault s t cause addr) := by simp [hs]
  unfold tzSend
  extract_lets h typ b
  iterate 7 refine canon_ite_of (faulted _ _) ?_
  refine canon_ite_of hs ?_
  have read := canon_sendRead (c := typ = tREADREQ) s t rs1 rs2 0 (32 * h.len.toNat) ecc hs
  split
  · next u got => rw [got] at read; exact read
  · next payload u got =>
    rw [got] at read
    split
    · exact canon_sendOwn _ _ _ _ _ read
    · simp only
      split <;> simp [show Canon u from read]

@[simp] theorem canon_waitEnd (s : State) (t : ThreadRef) (rd : Nat) (slot : Nat) : Canon (waitEnd s t rd slot) ↔ Canon s := by
  simp [waitEnd]

@[simp] theorem canon_tzWait (s : State) (t : ThreadRef) (rd : Nat) (v : Nat) (target : Nat) (hs : Canon s) : Canon (tzWait s t rd v target) := by
  simp [tzWait, *]

@[simp] theorem canon_tzWaitWake (s : State) (t : ThreadRef) : Canon (tzWaitWake s t) ↔ Canon s := by
  simp only [tzWaitWake]
  split <;> simp

@[simp] theorem canon_waitLimit (s : State) (t : ThreadRef) (hs : Canon s) : Canon (waitLimit s t) := by
  simp only [waitLimit]
  split <;> simp [*]

@[simp] theorem canon_takeCopy (s : State) (t : ThreadRef) (rd : Nat) (h : Nat) (step : Nat) (c : Nat) (rank : Nat) (dst : Nat) (x : RHold) (hs : Canon s) : Canon (takeCopy s t rd h step c rank dst x) := by
  simp [takeCopy, *]

@[simp] theorem canon_takeNow (s : State) (t : ThreadRef) (rd : Nat) (h : Nat) (step : Nat) (c : Nat) (rank : Nat) (dst : Nat) (ecc : Ecc) (hs : Canon s) : Canon (takeNow s t rd h step c rank dst ecc) := by
  simp only [takeNow]
  split <;> simp [*]

@[simp] theorem canon_tzTake (s : State) (t : ThreadRef) (rd : Nat) (v : Nat) (w : Nat) (ecc : Ecc) (hs : Canon s) : Canon (tzTake s t rd v w ecc) := by
  simp [tzTake, *]

@[simp] theorem canon_tzTakeWake (s : State) (t : ThreadRef) (ecc : Ecc) (hs : Canon s) : Canon (tzTakeWake s t ecc) := by
  simp only [tzTakeWake]
  split <;> simp [*]

@[simp] theorem canon_tzBrake (s : State) (t : ThreadRef) (v : Nat) (hs : Canon s) : Canon (tzBrake s t v) := by
  simp [tzBrake, *]

@[simp] theorem canon_tzYield (s : State) (t : ThreadRef) : Canon (tzYield s t) ↔ Canon s := by
  simp [tzYield]

@[simp] theorem canon_spanRead (s : State) (t : ThreadRef) (a : Nat) (n : Nat) : Canon (spanRead s t a n).2 ↔ Canon s := by
  simp only [spanRead]
  split <;> simp

@[simp] theorem canon_cslotStore (s : State) (k : Nat) (w : Nat) : Canon (cslotStore s k w) ↔ Canon s := Iff.rfl

@[simp] theorem canon_spanWrite (s : State) (t : ThreadRef) (a : Nat) (bs : List Byte) (hs : Canon s) : Canon (spanWrite s t a bs) := by
  simp only [spanWrite]
  split <;> simp [*]

@[simp] theorem canon_thrRequest (s : State) (t : ThreadRef) (kind : LKind) (spans : List (Nat × Nat)) (data : List Byte) (sleep : Option Dest) (hs : Canon s) : Canon (thrRequest s t kind spans data sleep) := by
  simp only [thrRequest]
  split <;> simp [*]

@[simp] theorem canon_accLoad (s : State) (t : ThreadRef) (d : Dest) (a : Nat) (n : Nat) (hs : Canon s) : Canon (accLoad s t d a n) := by
  simp only [accLoad]
  split <;> simp [*]

@[simp] theorem canon_accStore (s : State) (t : ThreadRef) (a : Nat) (bs : List Byte) (hs : Canon s) : Canon (accStore s t a bs) := by
  simp only [accStore]
  split <;> simp [*]

@[simp] theorem canon_accAmo (s : State) (t : ThreadRef) (op : AmoOp) (rd : Nat) (a : Nat) (n : Nat) (data : List Byte) (hs : Canon s) : Canon (accAmo s t op rd a n data) := by
  simp only [accAmo]
  (repeat' split) <;> simp [*]

@[simp] theorem canon_vecNow (s : State) (t : ThreadRef) (isLoad : Bool) (n : Nat) (es : List VElem) (hs : Canon s) : Canon (vecNow s t isLoad n es) := by
  simp +contextual [vecNow, *]

@[simp] theorem canon_accVec (s : State) (t : ThreadRef) (isLoad : Bool) (n : Nat) (es : List VElem) (hs : Canon s) : Canon (accVec s t isLoad n es) := by
  simp [accVec, *]

@[simp] theorem canon_accRemote (s : State) (t : ThreadRef) (e : Nat) (off : Nat) (len : Nat) (isLoad : Bool) (n : Nat) (es : List VElem) (hs : Canon s) : Canon (accRemote s t e off len isLoad n es) := by
  simp [accRemote, *]

@[simp] theorem canon_accessVec (s : State) (t : ThreadRef) (isLoad : Bool) (n : Nat) (unit : Bool) (ff : Bool) (es : List VElem) (ecc : Ecc) (hs : Canon s) : Canon (accessVec s t isLoad n unit ff es ecc) := by
  simp only [accessVec]
  (repeat' split) <;> simp [*]

@[simp] theorem canon_galleyAccess (s : State) (t : ThreadRef) (a : Access) (ecc : Ecc) (hs : Canon s) : Canon (galleyAccess s t a ecc) := by
  simp only [galleyAccess]
  (repeat' split) <;> simp [*]

@[simp] theorem canon_launchLeft (s : State) (img : Nat) (id : Nat) : Canon (launchLeft s img id) ↔ Canon s := by
  simp [launchLeft]

@[simp] theorem canon_exitThread (s : State) (t : ThreadRef) : Canon (exitThread s t) ↔ Canon s := by
  simp [exitThread]

@[simp] theorem canon_logCall (s : State) (t : ThreadRef) (ecc : Ecc) (hs : Canon s) : Canon (logCall s t ecc) := by
  simp only [logCall]
  split <;> simp [*]

@[simp] theorem canon_ebreakCall (s : State) (t : ThreadRef) (hs : Canon s) : Canon (ebreakCall s t) := by
  simp [ebreakCall, *]

@[simp] theorem canon_startGroup (s : State) (img : Nat) (i : Image) (l : Launch) (cl : Nat) (pc : Nat) (n : Nat) : Canon (startGroup s img i l cl pc n) ↔ Canon s := by
  simp [startGroup]

/-- The read of a queued launch's payload, where it has one. -/
theorem canon_launchRead {c : Prop} [Decidable c] (s : State) (a n b : Nat) (ecc : Ecc) (hs : Canon s) :
    Canon (if c then eccRead s a n b ecc else (some [], s)).2 := by
  split <;> simp [hs]

@[simp] theorem canon_launchStart (s : State) (img : Nat) (ecc : Ecc) (hs : Canon s) : Canon (launchStart s img ecc) := by
  unfold launchStart
  extract_lets i
  split
  · exact hs
  · next l found =>
    split
    · exact hs
    · split
      · exact hs
      · have read := canon_launchRead (c := l.payload.isSome = true) s (entryAddr i l.id) (32 + (l.payload.map List.length).getD 0) i.owner ecc hs
        split
        · next u got => rw [got] at read; exact read
        · next got =>
          rw [got] at read
          simp only [canon_startGroup]
          split
          · exact (canon_updHub _ _ _).mpr read
          · exact read

end Sys2Proof.Machine

/-! PROOFS. Canonical memories (log 4), function by function in the order of the model. Descriptors, captures, recordings and replay, images, job commands, the sideband, base instructions and the idle tick. -/

namespace Sys2Proof.Machine

@[simp] theorem canon_descAccept (s : State) (die e : Nat) (ecc : Ecc) (hs : Canon s) : Canon (descAccept s die e ecc) := by
  unfold descAccept
  split
  · exact hs
  · next d a found =>
    have read := canon_thrRead s d.t a 64 ecc hs
    split
    · next u got => rw [got] at read; exact read
    · next u got =>
      rw [got] at read
      have read : Canon u := read
      split
      · simp [read]
      · dsimp only
        split <;> simp [read]

@[simp] theorem canon_waitRelease (s : State) (die : Nat) : Canon (waitRelease s die) ↔ Canon s := by
  simp only [waitRelease]
  split <;> simp

@[simp] theorem canon_engFault (s : State) (d : Desc) (cause : Nat) (addr : Nat) (hs : Canon s) : Canon (engFault s d cause addr) := by
  simp [engFault, *]

@[simp] theorem canon_engWaitLimit (s : State) (die : Nat) (hs : Canon s) : Canon (engWaitLimit s die) := by
  simp only [engWaitLimit]
  split <;> simp [*]

@[simp] theorem canon_descComplete (s : State) (die : Nat) (e : Nat) (cycles : Nat) (hs : Canon s) : Canon (descComplete s die e cycles) := by
  simp only [descComplete]
  split <;> simp [*]

@[simp] theorem canon_engRun (s : State) (d : Desc) (n : Nat) (hs : Canon s) : Canon (engRun s d n) := by
  simp [engRun, *]

@[simp] theorem canon_engWrite (s : State) (d : Desc) (a : Nat) (bs : List Byte) (hs : Canon s) : Canon (engWrite s d a bs) := by
  simp [engWrite, *]

@[simp] theorem canon_engEcc (s : State) (d : Desc) (a : Nat) (ecc : Ecc) (hs : Canon s) : Canon (engEcc s d a ecc) := by
  unfold engEcc
  generalize placeOf s d.t a = place
  cases place with
  | larder l w => cases ecc <;> simp [hs]
  | _ => exact hs

@[simp] theorem canon_engUe (s : State) (d : Desc) (a : Nat) (hs : Canon s) : Canon (engUe s d a) := by
  simp [engUe, *]

@[simp] theorem canon_engTurn (die : Nat) (e : Nat) (op : Nat) (ecc : Ecc) (body : State → Desc → State) (s : State) (hbody : ∀ u y0, Canon u → Canon (body u y0)) (hs : Canon s) : Canon (engTurn die e op ecc body s) := by
  simp only [engTurn]
  (repeat' split) <;> simp [*]

@[simp] theorem canon_runContrib (s : State) (d : Desc) (checks : List LadleCheck) (hs : Canon s) : Canon (runContrib s d checks) := by
  simp [runContrib, *]

@[simp] theorem canon_accDone (s : State) (d : Desc) (check : LadleCheck) (miss : Option Nat) (new : List Acc) (hs : Canon s) : Canon (accDone s d check miss new) := by
  simp only [accDone]
  (repeat' split) <;> simp [*]

@[simp] theorem canon_runAccAdd (s : State) (d : Desc) (check : LadleCheck) (hs : Canon s) : Canon (runAccAdd s d check) := by
  simp only [runAccAdd]
  split <;> simp [*]

@[simp] theorem canon_runAccRound (s : State) (d : Desc) (hs : Canon s) : Canon (runAccRound s d) := by
  simp only [runAccRound]
  split <;> simp [*]

@[simp] theorem canon_sieveOut (s : State) (d : Desc) (rs : List (Option Int × List Byte)) (hs : Canon s) : Canon (sieveOut s d rs) := by
  simp [sieveOut, *]

@[simp] theorem canon_runThresh (s : State) (d : Desc) (hs : Canon s) : Canon (runThresh s d) := by
  simp [runThresh, *]

/-- What a move makes of the state, where it meets no error. -/
theorem canon_moveEl (s : State) (d : Desc) (a b n : Nat) (hs : Canon s) (u : State) (moved : moveEl s d a b n = .inl u) : Canon u := by
  unfold moveEl at moved
  split at moved
  · cases moved
  · cases moved; simp [hs]

/-- A move in the one direction or the other. -/
theorem canon_moveEither {c : Prop} [Decidable c] (s : State) (d : Desc) (a b n : Nat) (hs : Canon s) (u : State)
    (moved : (if c then moveEl s d a b n else moveEl s d b a n) = .inl u) : Canon u := by
  split at moved <;> exact canon_moveEl _ _ _ _ _ hs _ moved

@[simp] theorem canon_idxMove (d : Desc) (scatter : Bool) (n i : Nat) (s : State) (hs : Canon s) : Canon (idxMove d scatter n i s) := by
  induction n generalizing s i with
  | zero => simp [idxMove, hs]
  | succ n ih =>
    unfold idxMove
    extract_lets p buf
    split
    · simp [hs]
    · split
      · next u moved => exact ih _ _ (canon_moveEither _ _ _ _ _ hs _ moved)
      · simp [hs]

@[simp] theorem canon_pageMove (d : Desc) (scatter : Bool) (n i : Nat) (cur : Option (Nat × Nat)) (s : State) (hs : Canon s) : Canon (pageMove d scatter n i cur s) := by
  induction n generalizing s i cur with
  | zero => simp [pageMove, hs]
  | succ n ih =>
    unfold pageMove
    extract_lets t j e p buf
    split
    · simp [hs]
    · split
      · next u moved => exact ih _ _ _ (canon_moveEither _ _ _ _ _ hs _ moved)
      · simp [hs]

@[simp] theorem canon_runConvert (s : State) (d : Desc) (hs : Canon s) : Canon (runConvert s d) := by
  simp [runConvert, *]

@[simp] theorem canon_checkOut (s : State) (d : Desc) (out : List Byte) (hs : Canon s) : Canon (checkOut s d out) := by
  simp [checkOut, *]

@[simp] theorem canon_runPut (s : State) (d : Desc) (hs : Canon s) : Canon (runPut s d) := by
  simp [runPut, *]

@[simp] theorem canon_telemFrame (s : State) (n : Nat) (part : Nat) (period : Nat) (due : Nat) (snap : Bool) (hs : Canon s) : Canon (telemFrame s n part period due snap) := by
  simp [telemFrame, *]

@[simp] theorem canon_telemFrames (s : State) (sets period due : Nat) (snap : Bool) (hs : Canon s) : Canon (telemFrames s sets period due snap) := by
  refine canon_foldl hs fun t n ht => ?_
  have first := canon_telemFrame t n 0 period due snap ht
  dsimp only
  split
  · exact canon_telemFrame _ _ _ _ _ _ first
  · exact first

@[simp] theorem canon_telemStart (sets : Nat) (period : Nat) (s : State) : Canon (telemStart sets period s).1 ↔ Canon s := by
  simp only [telemStart]
  split <;> simp

@[simp] theorem canon_dropUnsent (s : State) : Canon (dropUnsent s) ↔ Canon s := by
  simp [dropUnsent]

@[simp] theorem canon_telemBoundary (s : State) (hs : Canon s) : Canon (telemBoundary s) := by
  simp [telemBoundary, *]

@[simp] theorem canon_sampleStart (port : Nat) (n : Nat) (trunc : Nat) (s : State) : Canon (sampleStart port n trunc s).1 ↔ Canon s := by
  simp only [sampleStart]
  split <;> simp

theorem canon_takeRing (s : State) (m : Nat) (place : Bool) (r : Ring) (hs : Canon s) (k : Nat) (t : State)
    (ht : takeRing s m place r = some (k, t)) : Canon t := by
  unfold takeRing at ht
  split at ht
  · dsimp only at ht
    split at ht
    · cases ht; simp [hs]
    · cases ht
  · cases ht

@[simp] theorem canon_captureStart (m port : Nat) (s : State) (hs : Canon s) : Canon (captureStart m port s).1 := by
  unfold captureStart
  extract_lets r
  split
  · simp [hs]
  · split
    · next k u taken => exact canon_takeRing _ _ _ _ hs _ _ taken
    · simp [hs]

@[simp] theorem canon_ringStop (capture : Bool) (k : Nat) (s : State) (hs : Canon s) : Canon (ringStop capture k s).1 := by
  simp only [ringStop]
  split <;> simp [*]

/-- A dump answers from the state that its read leaves. -/
theorem canon_answerRead (s : State) (a n b : Nat) (ecc : Ecc) (hs : Canon s) :
    Canon (match eccRead s a n b ecc with
      | (some b, s) => answer s (okBulk b)
      | (none, s) => fail s .faulted).1 := by
  have read := canon_eccRead s a n b ecc hs
  split <;> next got => rw [got] at read; exact read

@[simp] theorem canon_ringDump (capture : Bool) (k off len : Nat) (ecc : Ecc) (s : State) (hs : Canon s) : Canon (ringDump capture k off len ecc s).1 := by
  unfold ringDump
  extract_lets r
  iterate 4 (split; · simp [hs])
  exact canon_answerRead _ _ _ _ _ hs

@[simp] theorem canon_larderRead (a n : Nat) (ecc : Ecc) (s : State) (hs : Canon s) : Canon (larderRead a n ecc s).1 := by
  unfold larderRead
  split
  · simp [hs]
  · exact canon_answerRead _ _ _ _ _ hs

@[simp] theorem canon_larderWrite (tag : Nat) (a : Nat) (own : List Byte) (s : State) (hs : Canon s) : Canon (larderWrite tag a own s).1 := by
  simp only [larderWrite]
  (repeat' split) <;> simp [*]

/-- The clusters' memories and scratch replaced by canonical ones. -/
theorem canon_clusterMemories {s : State} (hs : Canon s) {cm sc : Mem} (hcm : Mem.wf cm = true) (hsc : Mem.wf sc = true) (k : Nat) (cl : Tab (Option Nat)) :
    Canon (clusterSync { s with clusters := cl, cmem := cm, scratch := sc } k) := by
  rw [canon_clusterSync]
  exact ⟨hs.lard, hsc, hcm⟩

@[simp] theorem canon_wipeCluster (s : State) (k : Nat) (hs : Canon s) : Canon (wipeCluster s k) :=
  canon_clusterMemories hs (Mem.wf_clear hs.cmem _ _) (Mem.wf_clear hs.scratch _ _) k s.clusters

theorem wf_foldl {ι : Type} {f : Mem → ι → Mem} {l : List ι} {m : Mem} (hm : Mem.wf m = true) (hf : ∀ n x, Mem.wf n = true → Mem.wf (f n x) = true) :
    Mem.wf (l.foldl f m) = true := by
  induction l generalizing m with
  | nil => exact hm
  | cons x l ih => exact ih (hf m x hm)

@[simp] theorem canon_fillCluster (f : List Byte) (i : Nat) (s : State) (k : Nat) (hs : Canon s) : Canon (fillCluster f i s k) := by
  have wiped := canon_wipeCluster s k hs
  exact canon_clusterMemories wiped (wf_foldl wiped.cmem fun m g hm => Mem.wf_write hm _ _)
    (wf_foldl wiped.scratch fun m c hm => wf_foldl hm fun n g hn => Mem.wf_write hn _ _) k _

theorem canon_heapGrant (s : State) (i n : Nat) (a : Nat) (t : State) (ht : heapGrant s i n = some (a, t)) : Canon t ↔ Canon s := by
  unfold heapGrant at ht
  split at ht
  · cases ht; rfl
  · obtain ⟨b, -, h⟩ := Option.map_eq_some_iff.mp ht
    cases h
    simp

theorem canon_loadImage (s : State) (i b item n : Nat) (f : List Byte) (x : TzNote) (hs : Canon s) (t : State)
    (ht : loadImage s i b item n f x = some t) : Canon t := by
  unfold loadImage at ht
  obtain ⟨ks, -, ht⟩ := Option.bind_eq_some_iff.mp ht
  obtain ⟨⟨heap, u⟩, heaped, ht⟩ := Option.bind_eq_some_iff.mp ht
  obtain ⟨⟨queue, v⟩, queued, ht⟩ := Option.bind_eq_some_iff.mp ht
  cases ht
  have granted : Canon v := (canon_heapGrant _ _ _ _ _ queued).mpr ((canon_heapGrant _ _ _ _ _ heaped).mpr hs)
  exact (canon_updImg _ _ _).mpr (canon_foldl granted fun t k ht => canon_fillCluster _ _ _ _ ht)

@[simp] theorem canon_galleyLoad (tag i b source item n : Nat) (own : List Byte) (s : State) (hs : Canon s) : Canon (galleyLoad tag i b source item n own s).1 := by
  simp only [galleyLoad]
  iterate 3 (split; · simp [hs])
  split
  · simp [hs]
  · split
    · simp [hs]
    · split
      · next u loaded => exact canon_loadImage _ _ _ _ _ _ _ hs _ loaded
      · simp [hs]

@[simp] theorem canon_lardZero (s : State) (a n : Nat) (hs : Canon s) : Canon (lardZero s a n) :=
  have healed : Canon (unitsHeal (cellsDrop s a n) a n) := by simp [hs]
  ⟨Mem.wf_clear healed.lard _ _, healed.scratch, healed.cmem⟩

theorem canon_clusters (s : State) (cl : Tab (Option Nat)) : Canon { s with clusters := cl } ↔ Canon s := by simp

@[simp] theorem canon_freeImage (s : State) (i : Nat) (hs : Canon s) : Canon (freeImage s i) := by
  unfold freeImage
  extract_lets x s1 s2 src s3
  have wiped : Canon s1 := canon_foldl hs fun t k ht => (canon_clusters _ _).mpr (canon_wipeCluster t k ht)
  have zeroed : Canon s2 := canon_foldl wiped fun t g ht => by simp [ht]
  simp [s3, src, zeroed]

@[simp] theorem canon_galleyUnload (i : Nat) (s : State) (hs : Canon s) : Canon (galleyUnload i s).1 := by
  simp only [galleyUnload]
  (repeat' split) <;> simp [*]

@[simp] theorem canon_galleyLaunch (i entry a0 a1 : Nat) (s : State) (hs : Canon s) : Canon (galleyLaunch i entry a0 a1 s).1 := by
  unfold galleyLaunch
  extract_lets x
  iterate 3 (split; · simp [hs])
  split
  · next u queued => exact (canon_queueLaunch _ _ _ _ queued).mpr hs
  · simp [hs]

@[simp] theorem canon_harnessLoad (h : Nat) (s : State) : Canon (harnessLoad h s).1 ↔ Canon s := by
  simp only [harnessLoad]
  (repeat' split) <;> simp

@[simp] theorem canon_freeHarness (s : State) (h : Nat) : Canon (freeHarness s h) ↔ Canon s := by
  simp [freeHarness]

@[simp] theorem canon_harnessUnload (h : Nat) (s : State) : Canon (harnessUnload h s).1 ↔ Canon s := by
  simp only [harnessUnload]
  (repeat' split) <;> simp

@[simp] theorem canon_ownerSet (tag : Nat) (own : List Byte) (s : State) : Canon (ownerSet tag own s).1 ↔ Canon s := by
  simp only [ownerSet]
  split <;> simp

@[simp] theorem canon_beginStage (s : State) : Canon (beginStage s) ↔ Canon s := by
  simp [beginStage]

@[simp] theorem canon_fwStage (tag : Nat) (own : List Byte) (s : State) : Canon (fwStage tag own s).1 ↔ Canon s := by
  simp only [fwStage]
  (repeat' split) <;> simp

@[simp] theorem canon_clearPairs (s : State) (b : Nat) (mem : List Nat) : Canon (clearPairs s b mem) ↔ Canon s := Iff.rfl

@[simp] theorem canon_loadBlock (s : State) (b : Nat) (x : Block) (hs : Canon s) : Canon (loadBlock s b x) := by
  simp [loadBlock, *]

@[simp] theorem canon_jobLoad (p : JobParams) (s : State) (hs : Canon s) : Canon (jobLoad p s).1 := by
  simp only [jobLoad]
  (repeat' split) <;> simp [*]

@[simp] theorem canon_activate (s : State) (b : Nat) : Canon (activate s b) ↔ Canon s := by
  simp only [activate]
  split <;> simp

@[simp] theorem canon_toActive (st : BlockState) (b : Nat) (s : State) : Canon (toActive st b s).1 ↔ Canon s := by
  simp only [toActive]
  (repeat' split) <;> simp

@[simp] theorem canon_jobPause (b : Nat) (s : State) : Canon (jobPause b s).1 ↔ Canon s := by
  simp only [jobPause]
  (repeat' split) <;> simp

@[simp] theorem canon_endRecords (s : State) (b : Nat) (hs : Canon s) : Canon (endRecords s b) := by
  simp +contextual [endRecords, *]

@[simp] theorem canon_unloadBlock (s : State) (b : Nat) (hs : Canon s) : Canon (unloadBlock s b) := by
  unfold unloadBlock
  extract_lets mem s1 s2 s3 s4
  have ended : Canon (endRecords s b) := canon_endRecords _ _ hs
  have cleared : Canon s1 := by simp [s1, ended]
  have freed : Canon s2 := canon_foldl cleared fun t i ht => by simp [ht]
  have unharnessed : Canon s3 := (canon_foldl_frame fun t h => by simp).mpr freed
  simp [s4, unharnessed]

@[simp] theorem canon_jobUnload (b : Nat) (s : State) (hs : Canon s) : Canon (jobUnload b s).1 := by
  simp only [jobUnload]
  (repeat' split) <;> simp [*]

@[simp] theorem canon_jobStepClose (b : Nat) (v : Nat) (s : State) (hs : Canon s) : Canon (jobStepClose b v s).1 := by
  simp only [jobStepClose]
  (repeat' split) <;> simp [*]

@[simp] theorem canon_resumeThreads (s : State) (p : Thread → Bool) : Canon (resumeThreads s p) ↔ Canon s := by
  simp [resumeThreads]

@[simp] theorem canon_debugLock (s : State) : Canon (debugLock s) ↔ Canon s := by
  simp [debugLock]

@[simp] theorem canon_debugUnlock (s : State) : Canon (debugUnlock s) ↔ Canon s := by
  simp [debugUnlock]

@[simp] theorem canon_presenceOpen (s : State) (jumper : Bool) : Canon (presenceOpen s jumper) ↔ Canon s := by
  simp [presenceOpen]

@[simp] theorem canon_presenceClose (s : State) : Canon (presenceClose s) ↔ Canon s := by
  simp [presenceClose]

@[simp] theorem canon_sealChange (s : State) (b : Bool) (opens : Bool) : Canon (sealChange s b opens) ↔ Canon s := by
  simp [sealChange]

@[simp] theorem canon_i3cDropped (s : State) : Canon (i3cDropped s) ↔ Canon s := by
  simp [i3cDropped]

@[simp] theorem canon_i3cByte (acc : State × List Byte × Bool) (b : Byte) : Canon (i3cByte acc b).1 ↔ Canon acc.1 := by
  simp only [i3cByte]
  split <;> simp

theorem canon_i3cBytes (data : List Byte) (acc : State × List Byte × Bool) : Canon (data.foldl i3cByte acc).1 ↔ Canon acc.1 := by
  induction data generalizing acc with
  | nil => exact Iff.rfl
  | cons b data ih => exact (ih _).trans (canon_i3cByte _ _)

@[simp] theorem canon_i3cWrite (s : State) (bs : List Byte) (hs : Canon s) : Canon (i3cWrite s bs) := by
  unfold i3cWrite
  split
  · exact hs
  · next o data =>
    extract_lets src s1
    have offset : Canon s1 := by simp [s1, hs]
    have taken := (canon_i3cBytes data (s1, leBytes 2 s1.pwr.trayCap, false)).mpr offset
    split
    next t cap hit folded =>
    rw [folded] at taken
    have taken : Canon t := taken
    dsimp only
    split
    · exact taken
    · split <;> simp [taken]

@[simp] theorem canon_i3cRead (s : State) (n : Nat) : Canon (i3cRead s n) ↔ Canon s := by
  simp [i3cRead]

@[simp] theorem canon_endSession (s : State) : Canon (endSession s) ↔ Canon s := by
  simp [endSession]

@[simp] theorem canon_sessionOpen (tag : Nat) (rx : Nat) (s : State) : Canon (sessionOpen tag rx s).1 ↔ Canon s := by
  simp only [sessionOpen]
  split <;> simp

@[simp] theorem canon_frameBad (s : State) : Canon (frameBad s) ↔ Canon s := by
  simp [frameBad]

@[simp] theorem canon_refuseNow (s : State) (tag : Nat) (op : Nat) (st : Status) : Canon (refuseNow s tag op st) ↔ Canon s := by
  simp [refuseNow]

@[simp] theorem canon_newCommand (s : State) (f : Frame) : Canon (newCommand s f) ↔ Canon s := by
  simp only [newCommand]
  (repeat' split) <;> simp

@[simp] theorem canon_commandIn (s : State) (f : Frame) (hs : Canon s) : Canon (commandIn s f) := by
  simp only [commandIn]
  (repeat' split) <;> simp [*]

@[simp] theorem canon_setCmd (s : State) (c : Cmd) (d : Cmd) : Canon (setCmd s c d) ↔ Canon s := by
  simp [setCmd]

@[simp] theorem canon_bulkIn (s : State) (f : Frame) : Canon (bulkIn s f) ↔ Canon s := by
  simp only [bulkIn]
  (repeat' split) <;> simp

@[simp] theorem canon_frameIn (s : State) (f : Frame) (hs : Canon s) : Canon (frameIn s f) := by
  simp [frameIn, *]

@[simp] theorem canon_bulkTimeout (s : State) (tag : Nat) : Canon (bulkTimeout s tag) ↔ Canon s := by
  simp only [bulkTimeout]
  split <;> simp

@[simp] theorem canon_sendResponse (s : State) (r : Response) (hs : Canon s) : Canon (sendResponse s r) := by
  simp [sendResponse, *]

@[simp] theorem canon_sendBulk (s : State) (tag : Nat) (op : Nat) (off : Nat) (b : List Byte) (rest : List (Nat × Nat × Nat × List Byte)) (hs : Canon s) : Canon (sendBulk s tag op off b rest) := by
  simp [sendBulk, *]

@[simp] theorem canon_sendNextFrame (s : State) (hs : Canon s) : Canon (sendNextFrame s) := by
  simp only [sendNextFrame]
  (repeat' split) <;> simp [*]

@[simp] theorem canon_sendOut (s : State) (hs : Canon s) : Canon (sendOut s) := by
  simp [sendOut, *]

@[simp] theorem canon_recordStart (p : RecordParams) (s : State) (hs : Canon s) : Canon (recordStart p s).1 := by
  unfold recordStart
  extract_lets b r r'
  iterate 3 (split; · simp [hs])
  split
  · next k u taken => exact canon_takeRing _ _ _ _ hs _ _ taken
  · simp [hs]

@[simp] theorem canon_recordStatus (k : Nat) (s : State) : Canon (recordStatus k s).1 ↔ Canon s := by
  simp only [recordStatus]
  (repeat' split) <;> simp

@[simp] theorem canon_ringFree (k : Nat) (s : State) : Canon (ringFree k s).1 ↔ Canon s := by
  simp only [ringFree]
  (repeat' split) <;> simp

@[simp] theorem canon_replayLoad (tag m : Nat) (own : List Byte) (s : State) (hs : Canon s) : Canon (replayLoad tag m own s).1 := by
  unfold replayLoad
  extract_lets d
  split
  · simp [hs]
  · split
    · next k u taken => exact (canon_answer _ _).mpr (canon_lardStore _ _ _ (canon_takeRing _ _ _ _ hs _ _ taken))
    · simp [hs]

@[simp] theorem canon_replaySeek (s : State) (hs : Canon s) : Canon (replaySeek s) := by
  simp only [replaySeek]
  split <;> simp [*]

@[simp] theorem canon_replaySettle (s : State) (hs : Canon s) : Canon (replaySettle s) := by
  simp only [replaySettle]
  (repeat' split) <;> simp [*]

@[simp] theorem canon_replayStart (k outMib start : Nat) (s : State) (hs : Canon s) : Canon (replayStart k outMib start s).1 := by
  unfold replayStart
  extract_lets r
  iterate 4 (split; · simp [hs])
  split
  · next o u taken =>
    have taken : Canon u := canon_takeRing _ _ _ _ hs _ _ taken
    exact (canon_answer _ _).mpr (canon_replaySeek _ (by simp [taken]))
  · simp [hs]

@[simp] theorem canon_axleUntil (s : State) (v : Nat) : Canon (axleUntil s v) ↔ Canon s := by
  simp [axleUntil]

@[simp] theorem canon_replayDue (s : State) (x : RingRec) : Canon (replayDue s x) ↔ Canon s := by
  simp only [replayDue]
  split <;> simp

@[simp] theorem canon_replayInject (s : State) (checks : List LadleCheck) (hs : Canon s) : Canon (replayInject s checks) := by
  unfold replayInject
  split
  · next x found =>
    split
    · simp [hs]
    · extract_lets s1 src s2
      have passed : Canon s2 := by simp [s2, s1, hs]
      refine canon_replaySettle _ ?_
      split
      · exact canon_process _ _ _ _ (by simp [passed])
      · exact passed
  · simp [hs]

@[simp] theorem canon_setVer (s : State) (v : Nat) (x : VerState) : Canon (setVer s v x) ↔ Canon s := by
  simp [setVer]

@[simp] theorem canon_flipTo (s : State) (v : Nat) : Canon (flipTo s v) ↔ Canon s := by
  simp [flipTo]

@[simp] theorem canon_tableFlip (v : Nat) (agree : Bool) (s : State) (hs : Canon s) : Canon (tableFlip v agree s).1 := by
  simp only [tableFlip]
  (repeat' split) <;> simp [*]

@[simp] theorem canon_tableSeal (s : State) : Canon (tableSeal s).1 ↔ Canon s := by
  simp only [tableSeal]
  split <;> simp

@[simp] theorem canon_copyTable (s : State) (v : Nat) : Canon (copyTable s v) ↔ Canon s := by
  simp [copyTable]

@[simp] theorem canon_tableCopy (s : State) : Canon (tableCopy s).1 ↔ Canon s := by
  simp only [tableCopy]
  split <;> simp

@[simp] theorem canon_tableClear (v : Nat) (s : State) : Canon (tableClear v s).1 ↔ Canon s := by
  simp only [tableClear]
  (repeat' split) <;> simp

theorem canon_csrRun_getD (s : State) (t : ThreadRef) (f3 rd rs1 a : Nat) : Canon ((csrRun s t f3 rd rs1 a).getD s) ↔ Canon s := by
  rcases ran : csrRun s t f3 rd rs1 a with _ | u
  · exact Iff.rfl
  · exact canon_csrRun _ _ _ _ _ _ _ ran

/-- A base instruction writes none of the memories, whatever it runs on. -/
theorem canon_base (s : State) (t : ThreadRef) (i : GInstr) (run : State → State) (is : meaningOf s t i = .base run) (u : State) :
    Canon (run u) ↔ Canon u := by
  cases i <;> simp only [meaningOf, baseThr, baseJump] at is
  case csr f3 rd rs1 a =>
    split at is
    · cases is
      exact (canon_retire _ _).trans (canon_csrRun_getD u t f3 rd rs1 a)
    · cases is
  all_goals (repeat' split at is) <;> cases is <;> simp

theorem canon_standing_base (s : State) (t : ThreadRef) (run : State → State) (is : standing s t = .base run) (u : State) :
    Canon (run u) ↔ Canon u := by
  unfold standing at is
  split at is
  · cases is
  · split at is
    · cases is
    · split at is
      · exact canon_base _ _ _ _ is u
      · cases is

/-- An access sets at most the thread's registers before it reaches the memories. -/
theorem canon_mem (s : State) (t : ThreadRef) (i : GInstr) (a : Access) (run : State → State) (is : meaningOf s t i = .mem a run) (u : State) :
    Canon (run u) ↔ Canon u := by
  cases i <;> simp only [meaningOf, baseThr, baseJump] at is
  all_goals (repeat' split at is) <;> cases is <;> simp

theorem canon_standing_mem (s : State) (t : ThreadRef) (a : Access) (run : State → State) (is : standing s t = .mem a run) (u : State) :
    Canon (run u) ↔ Canon u := by
  unfold standing at is
  split at is
  · cases is
  · split at is
    · cases is
    · split at is
      · exact canon_mem _ _ _ _ _ is u
      · cases is

/-- What a core issues on an empty queue writes none of the memories. -/
theorem canon_coreIssue (s : State) (c : ThreadRef) (run : State → State) (is : coreIssue s c = some run) (u : State) : Canon (run u) ↔ Canon u := by
  obtain ⟨k, -, issues⟩ := Option.bind_eq_some_iff.mp is
  dsimp only at issues
  split at issues
  · next base stands =>
    cases issues
    exact (canon_standing_base _ _ _ stands _).trans (canon_issued _ _)
  · cases issues

@[simp] theorem canon_galleyCycle (s : State) : Canon (galleyCycle s) ↔ Canon s := by
  have issued : ∀ run ∈ (liveCores s).filterMap (coreIssue s), ∀ u, Canon (run u) ↔ Canon u := fun run mem u => by
    obtain ⟨c, -, is⟩ := List.mem_filterMap.mp mem
    exact canon_coreIssue _ _ _ is u
  unfold galleyCycle
  generalize (liveCores s).filterMap (coreIssue s) = runs at issued
  match runs, issued with
  | [], _ => exact Iff.rfl
  | [run], issued => exact issued run (by simp) s
  | run :: second :: rest, issued =>
    dsimp only
    rcases chosen : (run :: second :: rest)[Config.freeWord (draw s).1 % (run :: second :: rest).length]? with _ | r
    · exact canon_draw s
    · exact (issued r (List.mem_of_getElem? chosen) _).trans (canon_draw s)

@[simp] theorem canon_idleTick (s : State) (hs : Canon s) : Canon (idleTick s) := by
  simp [idleTick, *]

end Sys2Proof.Machine

/-! PROOFS. Every command keeps the byte memories canonical (log 4): one lemma for each of the shapes that a row has, then one per row. -/

namespace Sys2Proof.Machine

/-- Where the outcome is a next state, its memories are canonical. -/
def KeepsCanon (o : Host.Outcome State Fault Refusal) : Prop := ∀ t, o = .next t → Canon t

theorem canon_after (s t : State) : Canon (after s t) ↔ Canon t := by simp [after]

theorem keeps_done {s t : State} (ht : Canon t) : KeepsCanon (done s t) := fun u is => by
  cases is
  exact (canon_after s t).mpr ht

theorem keeps_onUnit {ok : Bool} {s : State} {f : State → State} (h : Canon (f s)) : KeepsCanon (onUnit ok s f) := by
  cases ok
  · exact fun u is => by cases is
  · exact keeps_done h

theorem keeps_lonusCmd {tag op : Nat} {args : List Item} {s : State} {body : State → State × Option Reply} (hs : Canon s)
    (hb : ∀ u, Canon u → Canon (body u).1) : KeepsCanon (lonusCmd tag op args s body) :=
  keeps_done (canon_runCmd tag op args s body hs hb)

theorem keeps_onPortCmd {tag op port : Nat} {s : State} {f : State → State × Option Reply} (hs : Canon s) (hf : ∀ u, Canon u → Canon (f u).1) :
    KeepsCanon (onPortCmd tag op port s f) :=
  keeps_lonusCmd hs fun u hu => by split <;> simp [hf, hu]

theorem keeps_onLaneCmd {tag op lane : Nat} {more : List Item} {s : State} {f : State → State × Option Reply} (hs : Canon s)
    (hf : ∀ u, Canon u → Canon (f u).1) : KeepsCanon (onLaneCmd tag op lane more s f) :=
  keeps_lonusCmd hs fun u hu => by split <;> simp [hf, hu]

theorem keeps_regRow {tag a : Nat} {w : Word} {s : State} (hs : Canon s) : KeepsCanon (regRow tag a w s) :=
  keeps_lonusCmd hs fun _ hu => canon_regWriteBody _ _ _ _ hu

theorem keeps_arrivalRow {s : State} {ok : Bool} {port : Nat} {p : Packet} {checks : List LadleCheck} (hs : Canon s) :
    KeepsCanon (arrivalRow s ok port p checks) :=
  keeps_onUnit (by split <;> simp [hs])

theorem keeps_i3cUpd {s : State} {f : I3c → I3c} (hs : Canon s) : KeepsCanon (i3cUpd s f) := keeps_done (by simp [hs])

theorem keeps_i3cFree {s : State} {f : Nat → List Byte} (hs : Canon s) : KeepsCanon (i3cFree s f) := keeps_done (by simp [hs])

theorem keeps_issueRow {t : ThreadRef} {s : State} {f : Meaning → Option (State → State)} (hs : Canon s)
    (hf : ∀ g, f (standing s t) = some g → ∀ u, Canon u → Canon (g u)) : KeepsCanon (issueRow t s f) := by
  refine keeps_onUnit ?_
  split
  · split
    · next g issues => exact hf g issues _ (by simp [hs])
    · exact hs
  · exact hs

theorem keeps_tzRow {t : ThreadRef} {s : State} {op : TzOp} {rd rs1 rs2 : Nat} {f : State → State} (hs : Canon s)
    (hf : ∀ u, Canon u → Canon (f u)) : KeepsCanon (tzRow t s op rd rs1 rs2 f) := by
  refine keeps_issueRow hs fun g issues => ?_
  split at issues
  · unfold need at issues
    split at issues
    · cases issues; exact hf
    · cases issues
  · cases issues

theorem keeps_engRow {die e op : Nat} {ecc : Ecc} {s : State} {body : State → Desc → State} (hs : Canon s)
    (hb : ∀ u d, Canon u → Canon (body u d)) : KeepsCanon (engRow die e op ecc s body) :=
  keeps_onUnit (canon_engTurn _ _ _ _ _ _ hb hs)

theorem keeps_execLarderRequestPart (ld : Nat) (ecc : Ecc) (s : State) (check : LadleCheck) (hs : Canon s) : KeepsCanon (execLarderRequestPart ld ecc s check) :=
  keeps_onUnit (by simp [hs])

theorem keeps_execRefreshSlot (stack : Nat) (pc : Nat) (waiting : Nat) (scrubAddr : Nat) (ecc : Ecc) (s : State) (hs : Canon s) : KeepsCanon (execRefreshSlot stack pc waiting scrubAddr ecc s) :=
  keeps_onUnit (by simp [hs])

theorem keeps_execLeafStateSend (die : Nat) (harness : Nat) (step : Nat) (chunk : Nat) (s : State) (ecc : Ecc) (checks : List LadleCheck) (hs : Canon s) : KeepsCanon (execLeafStateSend die harness step chunk s ecc checks) :=
  keeps_onUnit (by simp [hs])

theorem keeps_execLeafStateArrival (die : Nat) (harness : Nat) (step : Nat) (chunk : Nat) (checks : List LadleCheck) (s : State) (hs : Canon s) : KeepsCanon (execLeafStateArrival die harness step chunk checks s) :=
  keeps_onUnit (by simp [hs])

theorem keeps_execCollTimeout (die : Nat) (harness : Nat) (step : Nat) (chunk : Nat) (s : State) (hs : Canon s) : KeepsCanon (execCollTimeout die harness step chunk s) :=
  keeps_onUnit (by simp [hs])

theorem keeps_execSpillExhausted (port : Nat) (s : State) (hs : Canon s) : KeepsCanon (execSpillExhausted port s) :=
  keeps_onUnit (by simp [hs])

theorem keeps_execCrossbarCellTime (die : Nat) (s : State) (hs : Canon s) : KeepsCanon (execCrossbarCellTime die s) :=
  keeps_onUnit (by simp [hs])

theorem keeps_execPacketTransmit (port : Nat) (s : State) (hs : Canon s) : KeepsCanon (execPacketTransmit port s) :=
  keeps_onUnit (by simp [hs])

theorem keeps_execBrakeIncrease (die : Nat) (epa : Nat) (s : State) (hs : Canon s) : KeepsCanon (execBrakeIncrease die epa s) :=
  keeps_onUnit (by simp [hs])

theorem keeps_execBrakeRelease (die : Nat) (s : State) (ecc : Ecc) (hs : Canon s) : KeepsCanon (execBrakeRelease die s ecc) :=
  keeps_onUnit (by (repeat' split) <;> simp [hs])

theorem keeps_execResendTimeout (dst : Nat) (group : Bool) (seq : Nat) (s : State) (hs : Canon s) : KeepsCanon (execResendTimeout dst group seq s) :=
  keeps_done (by (repeat' split) <;> simp [hs])

theorem keeps_execAckDelayExpiry (src : Nat) (s : State) (hs : Canon s) : KeepsCanon (execAckDelayExpiry src s) :=
  keeps_done (by simp [hs])

theorem keeps_execOverflowDrain (port : Nat) (s : State) (eccs : List Ecc) (hs : Canon s) : KeepsCanon (execOverflowDrain port s eccs) :=
  keeps_onUnit (by simp [hs])

theorem keeps_execOvfExhausted (s : State) (hs : Canon s) : KeepsCanon (execOvfExhausted s) :=
  keeps_done (by simp [hs])

theorem keeps_execMarkDepthWindow (s : State) (hs : Canon s) : KeepsCanon (execMarkDepthWindow s) :=
  keeps_done (by simp [hs])

theorem keeps_execQueueHistogramSample (s : State) (hs : Canon s) : KeepsCanon (execQueueHistogramSample s) :=
  keeps_done (by simp [hs])

theorem keeps_execPortFlushed (port : Nat) (s : State) (hs : Canon s) : KeepsCanon (execPortFlushed port s) :=
  keeps_onUnit (by simp [hs])

theorem keeps_execTableDrainSlow (s : State) (hs : Canon s) : KeepsCanon (execTableDrainSlow s) :=
  keeps_done (by simp [hs])

theorem keeps_execWrite (port : Nat) (p : Packet) (s : State) (hs : Canon s) : KeepsCanon (execWrite port p s) :=
  keeps_arrivalRow hs

theorem keeps_execReadReq (port : Nat) (p : Packet) (s : State) (hs : Canon s) : KeepsCanon (execReadReq port p s) :=
  keeps_arrivalRow hs

theorem keeps_execReadRsp (port : Nat) (p : Packet) (s : State) (hs : Canon s) : KeepsCanon (execReadRsp port p s) :=
  keeps_arrivalRow hs

theorem keeps_execAtomic (port : Nat) (p : Packet) (s : State) (hs : Canon s) : KeepsCanon (execAtomic port p s) :=
  keeps_arrivalRow hs

theorem keeps_execAtomicRsp (port : Nat) (p : Packet) (s : State) (hs : Canon s) : KeepsCanon (execAtomicRsp port p s) :=
  keeps_arrivalRow hs

theorem keeps_execCollContrib (port : Nat) (p : Packet) (checks : List LadleCheck) (s : State) (hs : Canon s) : KeepsCanon (execCollContrib port p checks s) :=
  keeps_arrivalRow hs

theorem keeps_execGalleyCall (port : Nat) (p : Packet) (s : State) (hs : Canon s) : KeepsCanon (execGalleyCall port p s) :=
  keeps_arrivalRow hs

theorem keeps_execAck (port : Nat) (p : Packet) (s : State) (hs : Canon s) : KeepsCanon (execAck port p s) :=
  keeps_arrivalRow hs

theorem keeps_execNack (port : Nat) (p : Packet) (s : State) (hs : Canon s) : KeepsCanon (execNack port p s) :=
  keeps_arrivalRow hs

theorem keeps_execInvalidTypePacket (port : Nat) (p : Packet) (s : State) (hs : Canon s) : KeepsCanon (execInvalidTypePacket port p s) :=
  keeps_arrivalRow hs

theorem keeps_execQueueStateExchange (s : State) (hs : Canon s) : KeepsCanon (execQueueStateExchange s) := by
  refine keeps_done ?_
  split
  · exact canon_exchange _ (canon_foldl hs fun t p ht => canon_runLocal _ _ _ ht)
  · exact hs

theorem keeps_execRegRead (tag : Nat) (addr : Nat) (count : Nat) (view : Nat) (s : State) (hs : Canon s) : KeepsCanon (execRegRead tag addr count view s) :=
  keeps_lonusCmd hs fun u hu => by (repeat' split) <;> simp [hu]

theorem keeps_execRegWrite (tag : Nat) (addr : Nat) (count : Nat) (ws : List Word) (s : State) (hs : Canon s) : KeepsCanon (execRegWrite tag addr count ws s) :=
  keeps_lonusCmd hs fun u hu => by simp [hu]

theorem keeps_execCommit (tag : Nat) (s : State) (hs : Canon s) : KeepsCanon (execCommit tag s) :=
  keeps_lonusCmd hs fun u hu => by simp [hu]

theorem keeps_execTableEntryWrite (tag : Nat) (addr : Nat) (word : Word) (s : State) (hs : Canon s) : KeepsCanon (execTableEntryWrite tag addr word s) :=
  keeps_regRow hs

theorem keeps_execStgE2eCtlWrite (tag : Nat) (word : Word) (s : State) (hs : Canon s) : KeepsCanon (execStgE2eCtlWrite tag word s) :=
  keeps_regRow hs

theorem keeps_execStgGalBindWrite (tag : Nat) (harness : Nat) (word : Word) (s : State) (hs : Canon s) : KeepsCanon (execStgGalBindWrite tag harness word s) :=
  keeps_regRow hs

theorem keeps_execStgJblkStepsrcWrite (tag : Nat) (block : Nat) (word : Word) (s : State) (hs : Canon s) : KeepsCanon (execStgJblkStepsrcWrite tag block word s) :=
  keeps_regRow hs

theorem keeps_execHubPortWidthWrite (tag : Nat) (die : Nat) (word : Word) (s : State) (hs : Canon s) : KeepsCanon (execHubPortWidthWrite tag die word s) :=
  keeps_regRow hs

theorem keeps_execModDrainCtlWrite (tag : Nat) (word : Word) (s : State) (hs : Canon s) : KeepsCanon (execModDrainCtlWrite tag word s) :=
  keeps_regRow hs

theorem keeps_execModLardLayoutWrite (tag : Nat) (second : Bool) (word : Word) (s : State) (hs : Canon s) : KeepsCanon (execModLardLayoutWrite tag second word s) :=
  keeps_regRow hs

theorem keeps_execPowerUp (i : PowerUpInput) (s : State) (hs : Canon s) : KeepsCanon (execPowerUp i s) :=
  keeps_done (by simp [hs])

theorem keeps_execLossOfInput (s : State) (hs : Canon s) : KeepsCanon (execLossOfInput s) :=
  keeps_done (by simp [hs])

theorem keeps_execProtectiveStop (overvoltage : Bool) (s : State) (hs : Canon s) : KeepsCanon (execProtectiveStop overvoltage s) :=
  keeps_done (by simp [hs])

theorem keeps_execPinReset (s : State) (hs : Canon s) : KeepsCanon (execPinReset s) :=
  keeps_done (by simp [hs])

theorem keeps_execResetNRelease (inputInRange : Bool) (i : PowerUpInput) (s : State) (hs : Canon s) : KeepsCanon (execResetNRelease inputInRange i s) :=
  keeps_done (by simp [hs])

theorem keeps_execRefclkAbsent (s : State) (hs : Canon s) : KeepsCanon (execRefclkAbsent s) :=
  keeps_done (by simp [hs])

theorem keeps_execRefclkRestored (s : State) (hs : Canon s) : KeepsCanon (execRefclkRestored s) :=
  keeps_done (by simp [hs])

theorem keeps_execSetupEntry (imagesOk : Bool) (s : State) (hs : Canon s) : KeepsCanon (execSetupEntry imagesOk s) :=
  keeps_done (by simp [hs])

theorem keeps_execSelfTestComplete (r : SelfTest) (s : State) (hs : Canon s) : KeepsCanon (execSelfTestComplete r s) :=
  keeps_done (by simp [hs])

theorem keeps_execRepairMark (tag : Nat) (unit : RepairUnit) (s : State) (hs : Canon s) : KeepsCanon (execRepairMark tag unit s) :=
  keeps_lonusCmd hs fun u hu => by (repeat' split) <;> simp [hu]

theorem keeps_execRepairRead (tag : Nat) (s : State) (hs : Canon s) : KeepsCanon (execRepairRead tag s) :=
  keeps_lonusCmd hs fun u hu => by simp [hu]

theorem keeps_execRestEntry (s : State) (hs : Canon s) : KeepsCanon (execRestEntry s) :=
  keeps_done (by simp [hs])

theorem keeps_execDrainLimit (s : State) (hs : Canon s) : KeepsCanon (execDrainLimit s) :=
  keeps_done (by simp [hs])

theorem keeps_execHoldEnter (cause : Nat) (unit : Option RepairUnit) (s : State) (hs : Canon s) : KeepsCanon (execHoldEnter cause unit s) :=
  keeps_done (by simp [hs])

theorem keeps_execStateSet (tag : Nat) (target : Nat) (s : State) (hs : Canon s) : KeepsCanon (execStateSet tag target s) :=
  keeps_lonusCmd hs fun u hu => by simp [hu]

theorem keeps_execStateGet (tag : Nat) (s : State) (hs : Canon s) : KeepsCanon (execStateGet tag s) :=
  keeps_lonusCmd hs fun u hu => by simp [hu]

theorem keeps_execSteadySet (tag : Nat) (value : Nat) (s : State) (hs : Canon s) : KeepsCanon (execSteadySet tag value s) :=
  keeps_lonusCmd hs fun u hu => by (repeat' split) <;> simp [hu]

theorem keeps_execCapSet (tag : Nat) (capW : Nat) (s : State) (hs : Canon s) : KeepsCanon (execCapSet tag capW s) :=
  keeps_lonusCmd hs fun u hu => by split <;> simp [hu]

theorem keeps_execShedSet (tag : Nat) (pct : Nat) (s : State) (hs : Canon s) : KeepsCanon (execShedSet tag pct s) :=
  keeps_lonusCmd hs fun u hu => by split <;> simp [hu]

theorem keeps_execOrphanSet (tag : Nat) (pct : Nat) (s : State) (hs : Canon s) : KeepsCanon (execOrphanSet tag pct s) :=
  keeps_lonusCmd hs fun u hu => by split <;> simp [hu]

theorem keeps_execHeartbeat (tag : Nat) (sequence : Nat) (s : State) (hs : Canon s) : KeepsCanon (execHeartbeat tag sequence s) :=
  keeps_lonusCmd hs fun u hu => by split <;> simp [hu]

theorem keeps_execOrphanEnter (s : State) (hs : Canon s) : KeepsCanon (execOrphanEnter s) :=
  keeps_done (by simp [hs])

theorem keeps_execPowerStatus (tag : Nat) (s : State) (hs : Canon s) : KeepsCanon (execPowerStatus tag s) :=
  keeps_lonusCmd hs fun u hu => by simp [hu]

theorem keeps_execCoolantStatus (tag : Nat) (s : State) (hs : Canon s) : KeepsCanon (execCoolantStatus tag s) :=
  keeps_lonusCmd hs fun u hu => by simp [hu]

theorem keeps_execThermalStatus (tag : Nat) (s : State) (hs : Canon s) : KeepsCanon (execThermalStatus tag s) :=
  keeps_lonusCmd hs fun u hu => by simp [hu]

theorem keeps_execShedNAssert (s : State) (hs : Canon s) : KeepsCanon (execShedNAssert s) :=
  keeps_done (by simp [hs])

theorem keeps_execShedNRelease (s : State) (hs : Canon s) : KeepsCanon (execShedNRelease s) :=
  keeps_done (by simp [hs])

theorem keeps_execCapOverrun (s : State) (draw : Option Nat) (hs : Canon s) : KeepsCanon (execCapOverrun s draw) :=
  keeps_done (by simp [hs])

theorem keeps_execInputRange (volts : Nat) (s : State) (hs : Canon s) : KeepsCanon (execInputRange volts s) :=
  keeps_done (by simp [hs])

theorem keeps_execUndervoltageShed (volts : Nat) (s : State) (hs : Canon s) : KeepsCanon (execUndervoltageShed volts s) :=
  keeps_done (by simp [hs])

theorem keeps_execInputUndervolt (volts : Nat) (s : State) (hs : Canon s) : KeepsCanon (execInputUndervolt volts s) :=
  keeps_done (by simp [hs])

theorem keeps_execInputRecovered (volts : Nat) (s : State) (hs : Canon s) : KeepsCanon (execInputRecovered volts s) :=
  keeps_done (by simp [hs])

theorem keeps_execDroopStretch (die : Nat) (s : State) (hs : Canon s) : KeepsCanon (execDroopStretch die s) :=
  keeps_onUnit (by simp [hs])

theorem keeps_execDroopRelease (die : Nat) (s : State) (hs : Canon s) : KeepsCanon (execDroopRelease die s) :=
  keeps_onUnit (by simp [hs])

theorem keeps_execMarginLow (position : Nat) (atLimit : Bool) (s : State) (hs : Canon s) : KeepsCanon (execMarginLow position atLimit s) :=
  keeps_onUnit (by simp [hs])

theorem keeps_execCoolLowFlow (flow : Nat) (sensorFault : Bool) (s : State) (hs : Canon s) : KeepsCanon (execCoolLowFlow flow sensorFault s) :=
  keeps_done (by simp [hs])

theorem keeps_execFlowRecovered (flow : Nat) (s : State) (hs : Canon s) : KeepsCanon (execFlowRecovered flow s) :=
  keeps_done (by simp [hs])

theorem keeps_execCoolInletHigh (inlet : Int) (outlet : Int) (s : State) (hs : Canon s) : KeepsCanon (execCoolInletHigh inlet outlet s) :=
  keeps_done (by simp [hs])

theorem keeps_execCoolInletLow (inlet : Int) (s : State) (hs : Canon s) : KeepsCanon (execCoolInletLow inlet s) :=
  keeps_done (by simp [hs])

theorem keeps_execLeak (loop : Nat) (s : State) (hs : Canon s) : KeepsCanon (execLeak loop s) :=
  keeps_onUnit (by simp [hs])

theorem keeps_execLeakLoopFault (loop : Nat) (resistance : Nat) (s : State) (hs : Canon s) : KeepsCanon (execLeakLoopFault loop resistance s) :=
  keeps_onUnit (by simp [hs])

theorem keeps_execThermalHold (position : Nat) (s : State) (hs : Canon s) : KeepsCanon (execThermalHold position s) :=
  keeps_onUnit (by simp [hs])

theorem keeps_execThermalTrip (position : Nat) (sensor : Nat) (reading : Int) (s : State) (hs : Canon s) : KeepsCanon (execThermalTrip position sensor reading s) :=
  keeps_onUnit (by simp [hs])

theorem keeps_execPlanInstall (tag : Nat) (plan : List Byte) (s : State) (hs : Canon s) : KeepsCanon (execPlanInstall tag plan s) :=
  keeps_lonusCmd hs fun u hu => by simp [hu]

theorem keeps_execPlanEdit (tag : Nat) (port : Nat) (state : Nat) (s : State) (hs : Canon s) : KeepsCanon (execPlanEdit tag port state s) :=
  keeps_lonusCmd hs fun u hu => by simp [hu]

theorem keeps_execPlanRead (tag : Nat) (s : State) (hs : Canon s) : KeepsCanon (execPlanRead tag s) :=
  keeps_lonusCmd hs fun u hu => by split <;> simp [hu]

theorem keeps_execPortMisplaced (port : Nat) (s : State) (hs : Canon s) : KeepsCanon (execPortMisplaced port s) :=
  keeps_onUnit (by simp [hs])

theorem keeps_execTrainingFrame (port : Nat) (lane : Nat) (bits : BitVec 128) (inverted : Bool) (errorsLow : Bool) (s : State) (hs : Canon s) : KeepsCanon (execTrainingFrame port lane bits inverted errorsLow s) :=
  keeps_onUnit (by simp [hs])

theorem keeps_execHitchStageTimeout (port : Nat) (swingLost : Bool) (s : State) (hs : Canon s) : KeepsCanon (execHitchStageTimeout port swingLost s) :=
  keeps_onUnit (by simp [hs])

theorem keeps_execBackOffEnd (port : Nat) (s : State) (hs : Canon s) : KeepsCanon (execBackOffEnd port s) :=
  keeps_onUnit (by simp [hs])

theorem keeps_execListenBeacon (port : Nat) (s : State) (hs : Canon s) : KeepsCanon (execListenBeacon port s) :=
  keeps_onUnit (by simp [hs])

theorem keeps_execListenSwingSeen (port : Nat) (s : State) (hs : Canon s) : KeepsCanon (execListenSwingSeen port s) :=
  keeps_onUnit (by simp [hs])

theorem keeps_execBitSlipSearch (lane : Nat) (found : Option Nat) (s : State) (hs : Canon s) : KeepsCanon (execBitSlipSearch lane found s) :=
  keeps_onUnit (by simp [hs])

theorem keeps_execAlignExit (port : Nat) (s : State) (hs : Canon s) : KeepsCanon (execAlignExit port s) :=
  keeps_onUnit (by simp [hs])

theorem keeps_execIdentityMessage (port : Nat) (msg : List Byte) (s : State) (hs : Canon s) : KeepsCanon (execIdentityMessage port msg s) :=
  keeps_onUnit (by simp [hs])

theorem keeps_execTimingMessage (port : Nat) (msg : List Byte) (rxAxle : U64) (s : State) (hs : Canon s) : KeepsCanon (execTimingMessage port msg rxAxle s) :=
  keeps_onUnit (by simp [hs])

theorem keeps_execVerifyEnd (port : Nat) (uncorrectable : Nat) (corrected : Nat) (received : Nat) (s : State) (hs : Canon s) : KeepsCanon (execVerifyEnd port uncorrectable corrected received s) :=
  keeps_onUnit (by simp [hs])

theorem keeps_execUncorrectableRound (port : Nat) (words : List (List Nat)) (headers : List Packet) (s : State) (hs : Canon s) : KeepsCanon (execUncorrectableRound port words headers s) :=
  keeps_onUnit (by simp [hs])

theorem keeps_execStreamResume (port : Nat) (s : State) (hs : Canon s) : KeepsCanon (execStreamResume port s) :=
  keeps_onUnit (by simp [hs])

theorem keeps_execLinkDown (port : Nat) (cause : Nat) (s : State) (hs : Canon s) : KeepsCanon (execLinkDown port cause s) :=
  keeps_onUnit (by simp [hs])

theorem keeps_execEnterIdle (port : Nat) (s : State) (hs : Canon s) : KeepsCanon (execEnterIdle port s) :=
  keeps_onUnit (by simp [hs])

theorem keeps_execIdleExitBurst (port : Nat) (s : State) (hs : Canon s) : KeepsCanon (execIdleExitBurst port s) :=
  keeps_onUnit (by simp [hs])

theorem keeps_execIdleExit (port : Nat) (s : State) (hs : Canon s) : KeepsCanon (execIdleExit port s) :=
  keeps_onUnit (by simp [hs])

theorem keeps_execSync (port : Nat) (p : Packet) (rxAxle : U64) (s : State) (hs : Canon s) : KeepsCanon (execSync port p rxAxle s) :=
  keeps_onUnit (by simp [hs])

theorem keeps_execSyncSend (s : State) (hs : Canon s) : KeepsCanon (execSyncSend s) :=
  keeps_done (by simp [hs])

theorem keeps_execAxleServo (s : State) (hs : Canon s) : KeepsCanon (execAxleServo s) :=
  keeps_done (by simp [hs])

theorem keeps_execMasterSelfLock (s : State) (hs : Canon s) : KeepsCanon (execMasterSelfLock s) :=
  keeps_done (by simp [hs])

theorem keeps_execLinkStatus (tag : Nat) (port : Nat) (s : State) (hs : Canon s) : KeepsCanon (execLinkStatus tag port s) :=
  keeps_onPortCmd hs fun u hu => by simp [hu]

theorem keeps_execLinkReset (tag : Nat) (port : Nat) (s : State) (hs : Canon s) : KeepsCanon (execLinkReset tag port s) :=
  keeps_onPortCmd hs fun u hu => by simp [hu]

theorem keeps_execLinkDisable (tag : Nat) (port : Nat) (s : State) (hs : Canon s) : KeepsCanon (execLinkDisable tag port s) :=
  keeps_onPortCmd hs fun u hu => by (repeat' split) <;> simp [hu]

theorem keeps_execLinkEnable (tag : Nat) (port : Nat) (s : State) (hs : Canon s) : KeepsCanon (execLinkEnable tag port s) :=
  keeps_onPortCmd hs fun u hu => by simp [hu]

theorem keeps_execLinkIdle (tag : Nat) (port : Nat) (s : State) (hs : Canon s) : KeepsCanon (execLinkIdle tag port s) :=
  keeps_onPortCmd hs fun u hu => by split <;> simp [hu]

theorem keeps_execLinkWake (tag : Nat) (port : Nat) (s : State) (hs : Canon s) : KeepsCanon (execLinkWake tag port s) :=
  keeps_onPortCmd hs fun u hu => by split <;> simp [hu]

theorem keeps_execLanePrbsStart (tag : Nat) (lane : Nat) (pattern : Nat) (direction : Nat) (s : State) (hs : Canon s) : KeepsCanon (execLanePrbsStart tag lane pattern direction s) :=
  keeps_onLaneCmd hs fun u hu => by simp [hu]

theorem keeps_execLanePrbsStop (tag : Nat) (lane : Nat) (s : State) (hs : Canon s) : KeepsCanon (execLanePrbsStop tag lane s) :=
  keeps_onLaneCmd hs fun u hu => by simp [hu]

theorem keeps_execLanePrbsRead (tag : Nat) (lane : Nat) (s : State) (hs : Canon s) : KeepsCanon (execLanePrbsRead tag lane s) :=
  keeps_onLaneCmd hs fun u hu => by simp [hu]

theorem keeps_execLaneInject (tag : Nat) (lane : Nat) (kind : Nat) (n : Nat) (count : Nat) (intervalUs : Nat) (s : State) (hs : Canon s) : KeepsCanon (execLaneInject tag lane kind n count intervalUs s) :=
  keeps_onLaneCmd hs fun u hu => by (repeat' split) <;> simp [hu]

theorem keeps_execLaneBitslip (tag : Nat) (lane : Nat) (s : State) (hs : Canon s) : KeepsCanon (execLaneBitslip tag lane s) :=
  keeps_onLaneCmd hs fun u hu => by split <;> simp [hu]

theorem keeps_execPrbsLock (lane : Nat) (s : State) (hs : Canon s) : KeepsCanon (execPrbsLock lane s) :=
  keeps_onUnit (by simp [hs])

theorem keeps_execPrbsLockLost (lane : Nat) (bits : Nat) (bitErrors : Nat) (symbolErrors : Nat) (s : State) (hs : Canon s) : KeepsCanon (execPrbsLockLost lane bits bitErrors symbolErrors s) :=
  keeps_onUnit (by simp [hs])

theorem keeps_execLaneEyeScan (tag : Nat) (lane : Nat) (eye : Nat) (s : State) (hs : Canon s) : KeepsCanon (execLaneEyeScan tag lane eye s) :=
  keeps_onLaneCmd hs fun u hu => by simp [hu]

theorem keeps_execEyeScanDone (chiplet : Nat) (counts : List Word) (s : State) (hs : Canon s) : KeepsCanon (execEyeScanDone chiplet counts s) :=
  keeps_onUnit (by simp [hs])

theorem keeps_execCertRun (tag : Nat) (port : Nat) (mode : Nat) (dwellS : Nat) (s : State) (hs : Canon s) : KeepsCanon (execCertRun tag port mode dwellS s) :=
  keeps_lonusCmd hs fun u hu => by simp [hu]

theorem keeps_execCertDone (mode : Nat) (results : List (Nat × Nat × Nat × Bool)) (s : State) (hs : Canon s) : KeepsCanon (execCertDone mode results s) :=
  keeps_done (by simp [hs])

theorem keeps_execCertSchedule (s : State) (hs : Canon s) : KeepsCanon (execCertSchedule s) :=
  keeps_done (by simp [hs])

theorem keeps_execControlCycle (sensed : Sensed) (s : State) (copied : Bool) (hs : Canon s) : KeepsCanon (execControlCycle sensed s copied) :=
  keeps_done (by simp [hs])

theorem keeps_execEhrokTakeover (cause : Nat) (s : State) (hs : Canon s) : KeepsCanon (execEhrokTakeover cause s) :=
  keeps_done (by simp [hs])

theorem keeps_execCoreRestart (coreB : Bool) (imageOk : Bool) (s : State) (hs : Canon s) : KeepsCanon (execCoreRestart coreB imageOk s) :=
  keeps_done (by simp [hs])

theorem keeps_execEhrokTakeback (s : State) (hs : Canon s) : KeepsCanon (execEhrokTakeback s) :=
  keeps_done (by simp [hs])

theorem keeps_execHardwareWatchdog (s : State) (hs : Canon s) : KeepsCanon (execHardwareWatchdog s) :=
  keeps_done (by simp [hs])

theorem keeps_execTzSubmit (t : ThreadRef) (rs1 : Nat) (rs2 : Nat) (s : State) (hs : Canon s) : KeepsCanon (execTzSubmit t rs1 rs2 s) :=
  keeps_tzRow hs fun u hu => by simp [hu]

theorem keeps_execTzSend (t : ThreadRef) (rs1 : Nat) (rs2 : Nat) (s : State) (ecc : Ecc) (hs : Canon s) : KeepsCanon (execTzSend t rs1 rs2 s ecc) :=
  keeps_tzRow hs fun u hu => by simp [hu]

theorem keeps_execTzWait (t : ThreadRef) (rd : Nat) (rs1 : Nat) (rs2 : Nat) (s : State) (hs : Canon s) : KeepsCanon (execTzWait t rd rs1 rs2 s) :=
  keeps_tzRow hs fun u hu => by simp [hu]

theorem keeps_execTzWaitWake (t : ThreadRef) (s : State) (hs : Canon s) : KeepsCanon (execTzWaitWake t s) :=
  keeps_onUnit (by simp [hs])

theorem keeps_execWaitLimit (t : ThreadRef) (s : State) (hs : Canon s) : KeepsCanon (execWaitLimit t s) :=
  keeps_onUnit (by simp [hs])

theorem keeps_execTzTake (t : ThreadRef) (rd : Nat) (rs1 : Nat) (rs2 : Nat) (s : State) (ecc : Ecc) (hs : Canon s) : KeepsCanon (execTzTake t rd rs1 rs2 s ecc) :=
  keeps_tzRow hs fun u hu => by simp [hu]

theorem keeps_execTzTakeWake (t : ThreadRef) (s : State) (ecc : Ecc) (hs : Canon s) : KeepsCanon (execTzTakeWake t s ecc) :=
  keeps_onUnit (by simp [hs])

theorem keeps_execTzBrake (t : ThreadRef) (rs1 : Nat) (s : State) (hs : Canon s) : KeepsCanon (execTzBrake t rs1 s) :=
  keeps_tzRow hs fun u hu => by simp [hu]

theorem keeps_execTzAxle (t : ThreadRef) (rd : Nat) (s : State) (hs : Canon s) : KeepsCanon (execTzAxle t rd s) :=
  keeps_tzRow hs fun u hu => by simp [hu]

theorem keeps_execTzStep (t : ThreadRef) (rd : Nat) (s : State) (hs : Canon s) : KeepsCanon (execTzStep t rd s) :=
  keeps_tzRow hs fun u hu => by simp [hu]

theorem keeps_execTzYield (t : ThreadRef) (s : State) (hs : Canon s) : KeepsCanon (execTzYield t s) :=
  keeps_tzRow hs fun u hu => by simp [hu]

theorem keeps_execGalleyAccess (t : ThreadRef) (addr : Nat) (size : Nat) (ecc : Ecc) (s : State) (hs : Canon s) : KeepsCanon (execGalleyAccess t addr size ecc s) := by
  refine keeps_issueRow hs fun g issues => ?_
  split at issues
  · next a run stands =>
    unfold need at issues
    split at issues
    · cases issues
      exact fun u hu => canon_galleyAccess _ _ _ _ ((canon_standing_mem _ _ _ _ stands u).mpr hu)
    · cases issues
  · cases issues

theorem keeps_execFence (t : ThreadRef) (predW : Bool) (s : State) (hs : Canon s) : KeepsCanon (execFence t predW s) := by
  refine keeps_issueRow hs fun g issues => ?_
  split at issues
  · unfold need at issues
    split at issues
    · cases issues
      exact fun u hu => by dsimp only; split <;> simp [hu]
    · cases issues
  · cases issues

theorem keeps_execExit (t : ThreadRef) (s : State) (hs : Canon s) : KeepsCanon (execExit t s) := by
  refine keeps_issueRow hs fun g issues => ?_
  split at issues <;> cases issues
  exact fun u hu => by simp [hu]

theorem keeps_execLog (t : ThreadRef) (s : State) (ecc : Ecc) (hs : Canon s) : KeepsCanon (execLog t s ecc) := by
  refine keeps_issueRow hs fun g issues => ?_
  split at issues <;> cases issues
  exact fun u hu => by simp [hu]

theorem keeps_execEbreak (t : ThreadRef) (s : State) (hs : Canon s) : KeepsCanon (execEbreak t s) := by
  refine keeps_issueRow hs fun g issues => ?_
  split at issues <;> cases issues
  exact fun u hu => by simp [hu]

theorem keeps_execIllegalInstruction (t : ThreadRef) (word : Nat) (ecc : Ecc) (s : State) (hs : Canon s) : KeepsCanon (execIllegalInstruction t word ecc s) := by
  refine keeps_issueRow hs fun g issues => ?_
  split at issues
  · cases issues
  · obtain ⟨c, -, rfl⟩ := Option.map_eq_some_iff.mp issues
    exact fun u hu => canon_threadFault _ _ _ _ hu

theorem keeps_execLaunchGroupStart (image : Nat) (s : State) (ecc : Ecc) (hs : Canon s) : KeepsCanon (execLaunchGroupStart image s ecc) :=
  keeps_onUnit (by simp [hs])

theorem keeps_execDescriptorAccept (die : Nat) (engine : Nat) (s : State) (ecc : Ecc) (hs : Canon s) : KeepsCanon (execDescriptorAccept die engine s ecc) :=
  keeps_onUnit (by simp [hs])

theorem keeps_execDescriptorWaitRelease (die : Nat) (s : State) (hs : Canon s) : KeepsCanon (execDescriptorWaitRelease die s) :=
  keeps_onUnit (by simp [hs])

theorem keeps_execEngineWaitLimit (die : Nat) (s : State) (hs : Canon s) : KeepsCanon (execEngineWaitLimit die s) :=
  keeps_onUnit (by simp [hs])

theorem keeps_execDescriptorComplete (die : Nat) (engine : Nat) (cycles : Nat) (s : State) (hs : Canon s) : KeepsCanon (execDescriptorComplete die engine cycles s) :=
  keeps_onUnit (by simp [hs])

theorem keeps_execContrib (die : Nat) (ecc : Ecc) (checks : List LadleCheck) (s : State) (hs : Canon s) : KeepsCanon (execContrib die ecc checks s) :=
  keeps_engRow hs fun u d hu => by simp [hu]

theorem keeps_execAccInit (die : Nat) (check : LadleCheck) (s : State) (hs : Canon s) : KeepsCanon (execAccInit die check s) :=
  keeps_engRow hs fun u d hu => by simp [hu]

theorem keeps_execAccAdd (die : Nat) (ecc : Ecc) (check : LadleCheck) (s : State) (hs : Canon s) : KeepsCanon (execAccAdd die ecc check s) :=
  keeps_engRow hs fun u d hu => by simp [hu]

theorem keeps_execAccRound (die : Nat) (ecc : Ecc) (s : State) (hs : Canon s) : KeepsCanon (execAccRound die ecc s) :=
  keeps_engRow hs fun u d hu => by simp [hu]

theorem keeps_execTopk (die : Nat) (ecc : Ecc) (s : State) (hs : Canon s) : KeepsCanon (execTopk die ecc s) :=
  keeps_engRow hs fun u d hu => by simp [hu]

theorem keeps_execSort (die : Nat) (ecc : Ecc) (s : State) (hs : Canon s) : KeepsCanon (execSort die ecc s) :=
  keeps_engRow hs fun u d hu => by simp [hu]

theorem keeps_execThresh (die : Nat) (ecc : Ecc) (s : State) (hs : Canon s) : KeepsCanon (execThresh die ecc s) :=
  keeps_engRow hs fun u d hu => by simp [hu]

theorem keeps_execSelectRank (die : Nat) (ecc : Ecc) (s : State) (hs : Canon s) : KeepsCanon (execSelectRank die ecc s) :=
  keeps_engRow hs fun u d hu => by simp [hu]

theorem keeps_execGather (die : Nat) (ecc : Ecc) (s : State) (hs : Canon s) : KeepsCanon (execGather die ecc s) :=
  keeps_engRow hs fun u d hu => by simp [hu]

theorem keeps_execScatter (die : Nat) (ecc : Ecc) (s : State) (hs : Canon s) : KeepsCanon (execScatter die ecc s) :=
  keeps_engRow hs fun u d hu => by simp [hu]

theorem keeps_execPageGather (die : Nat) (ecc : Ecc) (s : State) (hs : Canon s) : KeepsCanon (execPageGather die ecc s) :=
  keeps_engRow hs fun u d hu => by simp [hu]

theorem keeps_execPageScatter (die : Nat) (ecc : Ecc) (s : State) (hs : Canon s) : KeepsCanon (execPageScatter die ecc s) :=
  keeps_engRow hs fun u d hu => by simp [hu]

theorem keeps_execConvert (die : Nat) (ecc : Ecc) (s : State) (hs : Canon s) : KeepsCanon (execConvert die ecc s) :=
  keeps_engRow hs fun u d hu => by simp [hu]

theorem keeps_execCrc64 (die : Nat) (ecc : Ecc) (s : State) (hs : Canon s) : KeepsCanon (execCrc64 die ecc s) :=
  keeps_engRow hs fun u d hu => by simp [hu]

theorem keeps_execShake256 (die : Nat) (ecc : Ecc) (s : State) (hs : Canon s) : KeepsCanon (execShake256 die ecc s) :=
  keeps_engRow hs fun u d hu => by simp [hu]

theorem keeps_execSumcheck (die : Nat) (ecc : Ecc) (s : State) (hs : Canon s) : KeepsCanon (execSumcheck die ecc s) :=
  keeps_engRow hs fun u d hu => by simp [hu]

theorem keeps_execPut (die : Nat) (ecc : Ecc) (s : State) (hs : Canon s) : KeepsCanon (execPut die ecc s) :=
  keeps_engRow hs fun u d hu => by simp [hu]

theorem keeps_execTelemStart (tag : Nat) (sets : Nat) (periodMs : Nat) (s : State) (hs : Canon s) : KeepsCanon (execTelemStart tag sets periodMs s) :=
  keeps_lonusCmd hs fun u hu => by simp [hu]

theorem keeps_execTelemStop (tag : Nat) (s : State) (hs : Canon s) : KeepsCanon (execTelemStop tag s) :=
  keeps_lonusCmd hs fun u hu => by simp [hu]

theorem keeps_execTelemSnapshot (tag : Nat) (sets : Nat) (s : State) (hs : Canon s) : KeepsCanon (execTelemSnapshot tag sets s) :=
  keeps_lonusCmd hs fun u hu => by split <;> simp [hu]

theorem keeps_execTelemetryBoundary (s : State) (hs : Canon s) : KeepsCanon (execTelemetryBoundary s) :=
  keeps_done (by simp [hs])

theorem keeps_execSampleStart (tag : Nat) (port : Nat) (oneInN : Nat) (trunc : Nat) (s : State) (hs : Canon s) : KeepsCanon (execSampleStart tag port oneInN trunc s) :=
  keeps_lonusCmd hs fun u hu => by simp [hu]

theorem keeps_execSampleStop (tag : Nat) (s : State) (hs : Canon s) : KeepsCanon (execSampleStop tag s) :=
  keeps_lonusCmd hs fun u hu => by simp [hu]

theorem keeps_execCaptureStart (tag : Nat) (ringMib : Nat) (port : Nat) (s : State) (hs : Canon s) : KeepsCanon (execCaptureStart tag ringMib port s) :=
  keeps_lonusCmd hs fun u hu => by simp [hu]

theorem keeps_execCaptureStop (tag : Nat) (ring : Nat) (s : State) (hs : Canon s) : KeepsCanon (execCaptureStop tag ring s) :=
  keeps_lonusCmd hs fun u hu => by simp [hu]

theorem keeps_execCaptureDump (tag : Nat) (ring : Nat) (offset : Nat) (length : Nat) (ecc : Ecc) (s : State) (hs : Canon s) : KeepsCanon (execCaptureDump tag ring offset length ecc s) :=
  keeps_lonusCmd hs fun u hu => by simp [hu]

theorem keeps_execLarderRead (tag : Nat) (addr : Nat) (length : Nat) (ecc : Ecc) (s : State) (hs : Canon s) : KeepsCanon (execLarderRead tag addr length ecc s) :=
  keeps_lonusCmd hs fun u hu => by simp [hu]

theorem keeps_execLarderWrite (tag : Nat) (addr : Nat) (data : List Byte) (s : State) (hs : Canon s) : KeepsCanon (execLarderWrite tag addr data s) :=
  keeps_lonusCmd hs fun u hu => by simp [hu]

theorem keeps_execLarderStatus (tag : Nat) (s : State) (hs : Canon s) : KeepsCanon (execLarderStatus tag s) :=
  keeps_lonusCmd hs fun u hu => by simp [hu]

theorem keeps_execGalleyLoad (tag : Nat) (image : Nat) (block : Nat) (source : Nat) (item : Nat) (clusters : Nat) (elf : List Byte) (s : State) (hs : Canon s) : KeepsCanon (execGalleyLoad tag image block source item clusters elf s) :=
  keeps_lonusCmd hs fun u hu => by simp [hu]

theorem keeps_execGalleyUnload (tag : Nat) (image : Nat) (s : State) (hs : Canon s) : KeepsCanon (execGalleyUnload tag image s) :=
  keeps_lonusCmd hs fun u hu => by simp [hu]

theorem keeps_execGalleyLaunch (tag : Nat) (image : Nat) (entry : Nat) (arg0 : Nat) (arg1 : Nat) (s : State) (hs : Canon s) : KeepsCanon (execGalleyLaunch tag image entry arg0 arg1 s) :=
  keeps_lonusCmd hs fun u hu => by simp [hu]

theorem keeps_execGalleyStatus (tag : Nat) (image : Nat) (s : State) (hs : Canon s) : KeepsCanon (execGalleyStatus tag image s) :=
  keeps_lonusCmd hs fun u hu => by split <;> simp [hu]

theorem keeps_execHarnessLoad (tag : Nat) (harness : Nat) (s : State) (hs : Canon s) : KeepsCanon (execHarnessLoad tag harness s) :=
  keeps_lonusCmd hs fun u hu => by simp [hu]

theorem keeps_execHarnessUnload (tag : Nat) (harness : Nat) (s : State) (hs : Canon s) : KeepsCanon (execHarnessUnload tag harness s) :=
  keeps_lonusCmd hs fun u hu => by simp [hu]

theorem keeps_execHarnessStatus (tag : Nat) (harness : Nat) (s : State) (hs : Canon s) : KeepsCanon (execHarnessStatus tag harness s) :=
  keeps_lonusCmd hs fun u hu => by split <;> simp [hu]

theorem keeps_execIdRead (tag : Nat) (s : State) (hs : Canon s) : KeepsCanon (execIdRead tag s) :=
  keeps_lonusCmd hs fun u hu => by simp [hu]

theorem keeps_execIdCert (tag : Nat) (s : State) (hs : Canon s) : KeepsCanon (execIdCert tag s) :=
  keeps_lonusCmd hs fun u hu => by simp [hu]

theorem keeps_execIdMeasure (tag : Nat) (s : State) (hs : Canon s) : KeepsCanon (execIdMeasure tag s) :=
  keeps_lonusCmd hs fun u hu => by dsimp only; split <;> simp [hu]

theorem keeps_execIdQuote (tag : Nat) (nonce : List Byte) (s : State) (hs : Canon s) : KeepsCanon (execIdQuote tag nonce s) :=
  keeps_lonusCmd hs fun u hu => by simp [hu]

theorem keeps_execIdOwnerSet (tag : Nat) (record : List Byte) (s : State) (hs : Canon s) : KeepsCanon (execIdOwnerSet tag record s) :=
  keeps_lonusCmd hs fun u hu => by simp [hu]

theorem keeps_execIdOwnerClear (tag : Nat) (s : State) (hs : Canon s) : KeepsCanon (execIdOwnerClear tag s) :=
  keeps_lonusCmd hs fun u hu => by split <;> simp [hu]

theorem keeps_execFwStage (tag : Nat) (data : List Byte) (s : State) (hs : Canon s) : KeepsCanon (execFwStage tag data s) :=
  keeps_lonusCmd hs fun u hu => by simp [hu]

theorem keeps_execFwArm (tag : Nat) (s : State) (hs : Canon s) : KeepsCanon (execFwArm tag s) :=
  keeps_lonusCmd hs fun u hu => by split <;> simp [hu]

theorem keeps_execFwDisarm (tag : Nat) (s : State) (hs : Canon s) : KeepsCanon (execFwDisarm tag s) :=
  keeps_lonusCmd hs fun u hu => by simp [hu]

theorem keeps_execFwStatus (tag : Nat) (s : State) (hs : Canon s) : KeepsCanon (execFwStatus tag s) :=
  keeps_lonusCmd hs fun u hu => by simp [hu]

theorem keeps_execJobLoad (tag : Nat) (p : JobParams) (s : State) (hs : Canon s) : KeepsCanon (execJobLoad tag p s) :=
  keeps_lonusCmd hs fun u hu => by simp [hu]

theorem keeps_execJobActivate (tag : Nat) (block : Nat) (s : State) (hs : Canon s) : KeepsCanon (execJobActivate tag block s) :=
  keeps_lonusCmd hs fun u hu => by simp [hu]

theorem keeps_execJobResume (tag : Nat) (block : Nat) (s : State) (hs : Canon s) : KeepsCanon (execJobResume tag block s) :=
  keeps_lonusCmd hs fun u hu => by simp [hu]

theorem keeps_execJobPause (tag : Nat) (block : Nat) (s : State) (hs : Canon s) : KeepsCanon (execJobPause tag block s) :=
  keeps_lonusCmd hs fun u hu => by simp [hu]

theorem keeps_execJobUnload (tag : Nat) (block : Nat) (s : State) (hs : Canon s) : KeepsCanon (execJobUnload tag block s) :=
  keeps_lonusCmd hs fun u hu => by simp [hu]

theorem keeps_execJobStatus (tag : Nat) (block : Nat) (s : State) (hs : Canon s) : KeepsCanon (execJobStatus tag block s) :=
  keeps_lonusCmd hs fun u hu => by split <;> simp [hu]

theorem keeps_execJobStepClose (tag : Nat) (block : Nat) (v : Nat) (s : State) (hs : Canon s) : KeepsCanon (execJobStepClose tag block v s) :=
  keeps_lonusCmd hs fun u hu => by simp [hu]

theorem keeps_execDebugUnlock (tag : Nat) (s : State) (hs : Canon s) : KeepsCanon (execDebugUnlock tag s) :=
  keeps_lonusCmd hs fun u hu => by simp [hu]

theorem keeps_execDebugLock (tag : Nat) (s : State) (hs : Canon s) : KeepsCanon (execDebugLock tag s) :=
  keeps_lonusCmd hs fun u hu => by simp [hu]

theorem keeps_execDebugAttach (tag : Nat) (image : Nat) (s : State) (hs : Canon s) : KeepsCanon (execDebugAttach tag image s) :=
  keeps_lonusCmd hs fun u hu => by (repeat' split) <;> simp [hu]

theorem keeps_execDebugDetach (tag : Nat) (image : Nat) (s : State) (hs : Canon s) : KeepsCanon (execDebugDetach tag image s) :=
  keeps_lonusCmd hs fun u hu => by split <;> simp [hu]

theorem keeps_execDebugThread (tag : Nat) (image : Nat) (t : ThreadRef) (s : State) (hs : Canon s) : KeepsCanon (execDebugThread tag image t s) :=
  keeps_lonusCmd hs fun u hu => by (repeat' split) <;> simp [hu]

theorem keeps_execDebugResume (tag : Nat) (image : Nat) (t : ThreadRef) (s : State) (hs : Canon s) : KeepsCanon (execDebugResume tag image t s) :=
  keeps_lonusCmd hs fun u hu => by (repeat' split) <;> simp [hu]

theorem keeps_execPresenceOpen (jumper : Bool) (s : State) (hs : Canon s) : KeepsCanon (execPresenceOpen jumper s) :=
  keeps_done (by simp [hs])

theorem keeps_execPresenceClose (s : State) (hs : Canon s) : KeepsCanon (execPresenceClose s) :=
  keeps_done (by simp [hs])

theorem keeps_execPresenceStatus (tag : Nat) (s : State) (hs : Canon s) : KeepsCanon (execPresenceStatus tag s) :=
  keeps_lonusCmd hs fun u hu => by simp [hu]

theorem keeps_execSealOpen (loopB : Bool) (s : State) (hs : Canon s) : KeepsCanon (execSealOpen loopB s) :=
  keeps_done (by simp [hs])

theorem keeps_execSealClose (loopB : Bool) (s : State) (hs : Canon s) : KeepsCanon (execSealClose loopB s) :=
  keeps_done (by simp [hs])

theorem keeps_execSealLogRead (tag : Nat) (s : State) (hs : Canon s) : KeepsCanon (execSealLogRead tag s) :=
  keeps_lonusCmd hs fun u hu => by simp [hu]

theorem keeps_execSealLogClear (tag : Nat) (s : State) (hs : Canon s) : KeepsCanon (execSealLogClear tag s) :=
  keeps_lonusCmd hs fun u hu => by simp [hu]

theorem keeps_execEntdaa (addr : Nat) (s : State) (hs : Canon s) : KeepsCanon (execEntdaa addr s) :=
  keeps_i3cUpd hs

theorem keeps_execSetdasa (staticAddr : Nat) (addr : Nat) (s : State) (hs : Canon s) : KeepsCanon (execSetdasa staticAddr addr s) :=
  keeps_i3cUpd hs

theorem keeps_execSetnewda (addr : Nat) (s : State) (hs : Canon s) : KeepsCanon (execSetnewda addr s) :=
  keeps_i3cUpd hs

theorem keeps_execRstdaa (s : State) (hs : Canon s) : KeepsCanon (execRstdaa s) :=
  keeps_i3cUpd hs

theorem keeps_execEnec (events : Byte) (s : State) (hs : Canon s) : KeepsCanon (execEnec events s) :=
  keeps_i3cUpd hs

theorem keeps_execDisec (events : Byte) (s : State) (hs : Canon s) : KeepsCanon (execDisec events s) :=
  keeps_i3cUpd hs

theorem keeps_execGetpid (s : State) (hs : Canon s) : KeepsCanon (execGetpid s) :=
  keeps_i3cUpd (f := fun t => { t with out := t.out ++ _ }) hs

theorem keeps_execGetbcr (s : State) (hs : Canon s) : KeepsCanon (execGetbcr s) :=
  keeps_i3cUpd (f := fun t => { t with out := t.out ++ _ }) hs

theorem keeps_execGetdcr (s : State) (hs : Canon s) : KeepsCanon (execGetdcr s) :=
  keeps_i3cUpd (f := fun t => { t with out := t.out ++ _ }) hs

theorem keeps_execGetstatus (s : State) (hs : Canon s) : KeepsCanon (execGetstatus s) :=
  keeps_i3cFree hs

theorem keeps_execGetmwl (s : State) (hs : Canon s) : KeepsCanon (execGetmwl s) :=
  keeps_i3cFree hs

theorem keeps_execGetmrl (s : State) (hs : Canon s) : KeepsCanon (execGetmrl s) :=
  keeps_i3cFree hs

theorem keeps_execRstact (action : Byte) (s : State) (hs : Canon s) : KeepsCanon (execRstact action s) :=
  keeps_i3cUpd hs

theorem keeps_execI3cPrivateWrite (bytes : List Byte) (s : State) (reads : Nat) (hs : Canon s) : KeepsCanon (execI3cPrivateWrite bytes s reads) :=
  keeps_done (by simp [hs])

theorem keeps_execSessionOpen (tag : Nat) (rxRate : Nat) (s : State) (hs : Canon s) : KeepsCanon (execSessionOpen tag rxRate s) :=
  keeps_lonusCmd hs fun u hu => by simp [hu]

theorem keeps_execSessionClose (tag : Nat) (s : State) (hs : Canon s) : KeepsCanon (execSessionClose tag s) :=
  keeps_lonusCmd hs fun u hu => by split <;> simp [hu]

theorem keeps_execCommandFrame (f : Frame) (s : State) (words : List (List Nat)) (start : Nat) (hs : Canon s) : KeepsCanon (execCommandFrame f s words start) :=
  keeps_done (by simp [hs])

theorem keeps_execBulkFrame (f : Frame) (s : State) (words : List (List Nat)) (start : Nat) (hs : Canon s) : KeepsCanon (execBulkFrame f s words start) :=
  keeps_done (by simp [hs])

theorem keeps_execBulkTimeout (tag : Nat) (s : State) (hs : Canon s) : KeepsCanon (execBulkTimeout tag s) :=
  keeps_done (by simp [hs])

theorem keeps_execOutputFrameSend (s : State) (hs : Canon s) : KeepsCanon (execOutputFrameSend s) :=
  keeps_done (by simp [hs])

theorem keeps_execLonusLineUp (s : State) (hs : Canon s) : KeepsCanon (execLonusLineUp s) :=
  keeps_done (by simp [hs])

theorem keeps_execLonusLineDown (s : State) (hs : Canon s) : KeepsCanon (execLonusLineDown s) :=
  keeps_done (by simp [hs])

theorem keeps_execRecordStart (tag : Nat) (p : RecordParams) (s : State) (hs : Canon s) : KeepsCanon (execRecordStart tag p s) :=
  keeps_lonusCmd hs fun u hu => by simp [hu]

theorem keeps_execRecordStop (tag : Nat) (ring : Nat) (s : State) (hs : Canon s) : KeepsCanon (execRecordStop tag ring s) :=
  keeps_lonusCmd hs fun u hu => by simp [hu]

theorem keeps_execRecordStatus (tag : Nat) (ring : Nat) (s : State) (hs : Canon s) : KeepsCanon (execRecordStatus tag ring s) :=
  keeps_lonusCmd hs fun u hu => by simp [hu]

theorem keeps_execRecordDump (tag : Nat) (ring : Nat) (offset : Nat) (length : Nat) (ecc : Ecc) (s : State) (hs : Canon s) : KeepsCanon (execRecordDump tag ring offset length ecc s) :=
  keeps_lonusCmd hs fun u hu => by simp [hu]

theorem keeps_execRingFree (tag : Nat) (ring : Nat) (s : State) (hs : Canon s) : KeepsCanon (execRingFree tag ring s) :=
  keeps_lonusCmd hs fun u hu => by simp [hu]

theorem keeps_execReplayLoad (tag : Nat) (ringMib : Nat) (data : List Byte) (s : State) (hs : Canon s) : KeepsCanon (execReplayLoad tag ringMib data s) :=
  keeps_lonusCmd hs fun u hu => by simp [hu]

theorem keeps_execReplayStart (tag : Nat) (ring : Nat) (outMib : Nat) (startAxle : Nat) (s : State) (hs : Canon s) : KeepsCanon (execReplayStart tag ring outMib startAxle s) :=
  keeps_lonusCmd hs fun u hu => by simp [hu]

theorem keeps_execReplayStop (tag : Nat) (s : State) (hs : Canon s) : KeepsCanon (execReplayStop tag s) :=
  keeps_lonusCmd hs fun u hu => by split <;> simp [hu]

theorem keeps_execReplayStatus (tag : Nat) (s : State) (hs : Canon s) : KeepsCanon (execReplayStatus tag s) :=
  keeps_lonusCmd hs fun u hu => by simp [hu]

theorem keeps_execReplayInject (s : State) (checks : List LadleCheck) (hs : Canon s) : KeepsCanon (execReplayInject s checks) :=
  keeps_done (by simp [hs])

theorem keeps_execTableFlip (tag : Nat) (version : Nat) (copiesAgree : Bool) (s : State) (hs : Canon s) : KeepsCanon (execTableFlip tag version copiesAgree s) :=
  keeps_lonusCmd hs fun u hu => by simp [hu]

theorem keeps_execTableSeal (tag : Nat) (s : State) (hs : Canon s) : KeepsCanon (execTableSeal tag s) :=
  keeps_lonusCmd hs fun u hu => by simp [hu]

theorem keeps_execTableCopy (tag : Nat) (s : State) (hs : Canon s) : KeepsCanon (execTableCopy tag s) :=
  keeps_lonusCmd hs fun u hu => by simp [hu]

theorem keeps_execTableClear (tag : Nat) (version : Nat) (s : State) (hs : Canon s) : KeepsCanon (execTableClear tag version s) :=
  keeps_lonusCmd hs fun u hu => by simp [hu]

theorem keeps_execTableStatus (tag : Nat) (s : State) (hs : Canon s) : KeepsCanon (execTableStatus tag s) :=
  keeps_lonusCmd hs fun u hu => by simp [hu]

/-- Every command keeps the memories canonical. -/
theorem keeps_exec (c : Instr) (s : State) (hs : Canon s) : KeepsCanon (exec c s) :=
  match c with
  | .idRead tag => keeps_execIdRead tag s hs
  | .idCert tag => keeps_execIdCert tag s hs
  | .idQuote tag nonce => keeps_execIdQuote tag nonce s hs
  | .idMeasure tag => keeps_execIdMeasure tag s hs
  | .idOwnerSet tag record => keeps_execIdOwnerSet tag record s hs
  | .idOwnerClear tag => keeps_execIdOwnerClear tag s hs
  | .stateSet tag target => keeps_execStateSet tag target s hs
  | .stateGet tag => keeps_execStateGet tag s hs
  | .regRead tag addr count view => keeps_execRegRead tag addr count view s hs
  | .regWrite tag addr count words => keeps_execRegWrite tag addr count words s hs
  | .commit tag => keeps_execCommit tag s hs
  | .repairMark tag unit => keeps_execRepairMark tag unit s hs
  | .repairRead tag => keeps_execRepairRead tag s hs
  | .sessionOpen tag rxRate => keeps_execSessionOpen tag rxRate s hs
  | .sessionClose tag => keeps_execSessionClose tag s hs
  | .jobLoad tag p => keeps_execJobLoad tag p s hs
  | .jobActivate tag block => keeps_execJobActivate tag block s hs
  | .jobPause tag block => keeps_execJobPause tag block s hs
  | .jobResume tag block => keeps_execJobResume tag block s hs
  | .jobUnload tag block => keeps_execJobUnload tag block s hs
  | .jobStatus tag block => keeps_execJobStatus tag block s hs
  | .larderRead tag addr length ecc => keeps_execLarderRead tag addr length ecc s hs
  | .larderWrite tag addr data => keeps_execLarderWrite tag addr data s hs
  | .larderStatus tag => keeps_execLarderStatus tag s hs
  | .telemStart tag sets periodMs => keeps_execTelemStart tag sets periodMs s hs
  | .telemStop tag => keeps_execTelemStop tag s hs
  | .telemSnapshot tag sets => keeps_execTelemSnapshot tag sets s hs
  | .sampleStart tag port oneInN trunc => keeps_execSampleStart tag port oneInN trunc s hs
  | .sampleStop tag => keeps_execSampleStop tag s hs
  | .captureStart tag ringMib port => keeps_execCaptureStart tag ringMib port s hs
  | .captureStop tag ring => keeps_execCaptureStop tag ring s hs
  | .captureDump tag ring offset length ecc => keeps_execCaptureDump tag ring offset length ecc s hs
  | .capSet tag capW => keeps_execCapSet tag capW s hs
  | .powerStatus tag => keeps_execPowerStatus tag s hs
  | .shedSet tag pct => keeps_execShedSet tag pct s hs
  | .orphanSet tag pct => keeps_execOrphanSet tag pct s hs
  | .heartbeat tag sequence => keeps_execHeartbeat tag sequence s hs
  | .thermalStatus tag => keeps_execThermalStatus tag s hs
  | .coolantStatus tag => keeps_execCoolantStatus tag s hs
  | .fwStage tag data => keeps_execFwStage tag data s hs
  | .fwArm tag => keeps_execFwArm tag s hs
  | .fwDisarm tag => keeps_execFwDisarm tag s hs
  | .fwStatus tag => keeps_execFwStatus tag s hs
  | .presenceStatus tag => keeps_execPresenceStatus tag s hs
  | .sealLogRead tag => keeps_execSealLogRead tag s hs
  | .sealLogClear tag => keeps_execSealLogClear tag s hs
  | .debugUnlock tag => keeps_execDebugUnlock tag s hs
  | .debugLock tag => keeps_execDebugLock tag s hs
  | .debugAttach tag image => keeps_execDebugAttach tag image s hs
  | .debugDetach tag image => keeps_execDebugDetach tag image s hs
  | .debugThread tag image t => keeps_execDebugThread tag image t s hs
  | .debugResume tag image t => keeps_execDebugResume tag image t s hs
  | .steadySet tag value => keeps_execSteadySet tag value s hs
  | .tableFlip tag version copiesAgree => keeps_execTableFlip tag version copiesAgree s hs
  | .tableSeal tag => keeps_execTableSeal tag s hs
  | .tableCopy tag => keeps_execTableCopy tag s hs
  | .tableClear tag version => keeps_execTableClear tag version s hs
  | .tableStatus tag => keeps_execTableStatus tag s hs
  | .harnessLoad tag harness => keeps_execHarnessLoad tag harness s hs
  | .harnessUnload tag harness => keeps_execHarnessUnload tag harness s hs
  | .harnessStatus tag harness => keeps_execHarnessStatus tag harness s hs
  | .jobStepClose tag block v => keeps_execJobStepClose tag block v s hs
  | .galleyLoad tag image block source item clusters elf => keeps_execGalleyLoad tag image block source item clusters elf s hs
  | .galleyUnload tag image => keeps_execGalleyUnload tag image s hs
  | .galleyLaunch tag image entry arg0 arg1 => keeps_execGalleyLaunch tag image entry arg0 arg1 s hs
  | .galleyStatus tag image => keeps_execGalleyStatus tag image s hs
  | .linkStatus tag port => keeps_execLinkStatus tag port s hs
  | .linkReset tag port => keeps_execLinkReset tag port s hs
  | .linkDisable tag port => keeps_execLinkDisable tag port s hs
  | .linkEnable tag port => keeps_execLinkEnable tag port s hs
  | .linkIdle tag port => keeps_execLinkIdle tag port s hs
  | .linkWake tag port => keeps_execLinkWake tag port s hs
  | .lanePrbsStart tag lane pattern direction => keeps_execLanePrbsStart tag lane pattern direction s hs
  | .lanePrbsStop tag lane => keeps_execLanePrbsStop tag lane s hs
  | .lanePrbsRead tag lane => keeps_execLanePrbsRead tag lane s hs
  | .laneInject tag lane kind n count intervalUs => keeps_execLaneInject tag lane kind n count intervalUs s hs
  | .laneBitslip tag lane => keeps_execLaneBitslip tag lane s hs
  | .laneEyeScan tag lane eye => keeps_execLaneEyeScan tag lane eye s hs
  | .eyeScanDone chiplet counts => keeps_execEyeScanDone chiplet counts s hs
  | .planInstall tag plan => keeps_execPlanInstall tag plan s hs
  | .planEdit tag port state => keeps_execPlanEdit tag port state s hs
  | .planRead tag => keeps_execPlanRead tag s hs
  | .certRun tag port mode dwellS => keeps_execCertRun tag port mode dwellS s hs
  | .recordStart tag p => keeps_execRecordStart tag p s hs
  | .recordStop tag ring => keeps_execRecordStop tag ring s hs
  | .recordStatus tag ring => keeps_execRecordStatus tag ring s hs
  | .recordDump tag ring offset length ecc => keeps_execRecordDump tag ring offset length ecc s hs
  | .ringFree tag ring => keeps_execRingFree tag ring s hs
  | .replayLoad tag ringMib data => keeps_execReplayLoad tag ringMib data s hs
  | .replayStart tag ring outMib startAxle => keeps_execReplayStart tag ring outMib startAxle s hs
  | .replayStop tag => keeps_execReplayStop tag s hs
  | .replayStatus tag => keeps_execReplayStatus tag s hs
  | .entdaa addr => keeps_execEntdaa addr s hs
  | .setdasa staticAddr addr => keeps_execSetdasa staticAddr addr s hs
  | .setnewda addr => keeps_execSetnewda addr s hs
  | .rstdaa => keeps_execRstdaa s hs
  | .enec events => keeps_execEnec events s hs
  | .disec events => keeps_execDisec events s hs
  | .getpid => keeps_execGetpid s hs
  | .getbcr => keeps_execGetbcr s hs
  | .getdcr => keeps_execGetdcr s hs
  | .getstatus => keeps_execGetstatus s hs
  | .getmwl => keeps_execGetmwl s hs
  | .getmrl => keeps_execGetmrl s hs
  | .rstact action => keeps_execRstact action s hs
  | .i3cPrivateWrite bytes reads => keeps_execI3cPrivateWrite bytes s reads hs
  | .commandFrame f words start => keeps_execCommandFrame f s words start hs
  | .bulkFrame f words start => keeps_execBulkFrame f s words start hs
  | .bulkTimeout tag => keeps_execBulkTimeout tag s hs
  | .outputFrameSend => keeps_execOutputFrameSend s hs
  | .lonusLineUp => keeps_execLonusLineUp s hs
  | .lonusLineDown => keeps_execLonusLineDown s hs
  | .tableEntryWrite tag addr word => keeps_execTableEntryWrite tag addr word s hs
  | .stgE2eCtlWrite tag word => keeps_execStgE2eCtlWrite tag word s hs
  | .stgGalBindWrite tag harness word => keeps_execStgGalBindWrite tag harness word s hs
  | .stgJblkStepsrcWrite tag block word => keeps_execStgJblkStepsrcWrite tag block word s hs
  | .hubPortWidthWrite tag die word => keeps_execHubPortWidthWrite tag die word s hs
  | .modDrainCtlWrite tag word => keeps_execModDrainCtlWrite tag word s hs
  | .modLardLayoutWrite tag second word => keeps_execModLardLayoutWrite tag second word s hs
  | .write port p => keeps_execWrite port p s hs
  | .readReq port p => keeps_execReadReq port p s hs
  | .readRsp port p => keeps_execReadRsp port p s hs
  | .atomic port p => keeps_execAtomic port p s hs
  | .atomicRsp port p => keeps_execAtomicRsp port p s hs
  | .collContrib port p checks => keeps_execCollContrib port p checks s hs
  | .galleyCall port p => keeps_execGalleyCall port p s hs
  | .ack port p => keeps_execAck port p s hs
  | .nack port p => keeps_execNack port p s hs
  | .sync port p rxAxle => keeps_execSync port p rxAxle s hs
  | .crossbarCellTime die => keeps_execCrossbarCellTime die s hs
  | .packetTransmit port => keeps_execPacketTransmit port s hs
  | .brakeRelease die ecc => keeps_execBrakeRelease die s ecc hs
  | .queueStateExchange => keeps_execQueueStateExchange s hs
  | .tableDrainSlow => keeps_execTableDrainSlow s hs
  | .overflowDrain port eccs => keeps_execOverflowDrain port s eccs hs
  | .ovfExhausted => keeps_execOvfExhausted s hs
  | .markDepthWindow => keeps_execMarkDepthWindow s hs
  | .brakeIncrease die epa => keeps_execBrakeIncrease die epa s hs
  | .queueHistogramSample => keeps_execQueueHistogramSample s hs
  | .ackDelayExpiry src => keeps_execAckDelayExpiry src s hs
  | .resendTimeout dst group seq => keeps_execResendTimeout dst group seq s hs
  | .portFlushed port => keeps_execPortFlushed port s hs
  | .leafStateSend die harness step chunk ecc checks => keeps_execLeafStateSend die harness step chunk s ecc checks hs
  | .leafStateArrival die harness step chunk checks => keeps_execLeafStateArrival die harness step chunk checks s hs
  | .collTimeout die harness step chunk => keeps_execCollTimeout die harness step chunk s hs
  | .spillExhausted port => keeps_execSpillExhausted port s hs
  | .larderRequestPart ld ecc check => keeps_execLarderRequestPart ld ecc s check hs
  | .refreshSlot stack pc waiting scrubAddr ecc => keeps_execRefreshSlot stack pc waiting scrubAddr ecc s hs
  | .tzSubmit t rs1 rs2 => keeps_execTzSubmit t rs1 rs2 s hs
  | .descriptorAccept die engine ecc => keeps_execDescriptorAccept die engine s ecc hs
  | .tzSend t rs1 rs2 ecc => keeps_execTzSend t rs1 rs2 s ecc hs
  | .tzWait t rd rs1 rs2 => keeps_execTzWait t rd rs1 rs2 s hs
  | .tzWaitWake t => keeps_execTzWaitWake t s hs
  | .waitLimit t => keeps_execWaitLimit t s hs
  | .tzTake t rd rs1 rs2 ecc => keeps_execTzTake t rd rs1 rs2 s ecc hs
  | .tzTakeWake t ecc => keeps_execTzTakeWake t s ecc hs
  | .tzBrake t rs1 => keeps_execTzBrake t rs1 s hs
  | .tzAxle t rd => keeps_execTzAxle t rd s hs
  | .tzStep t rd => keeps_execTzStep t rd s hs
  | .tzYield t => keeps_execTzYield t s hs
  | .galleyAccess t addr size ecc => keeps_execGalleyAccess t addr size ecc s hs
  | .fence t predW => keeps_execFence t predW s hs
  | .exit t => keeps_execExit t s hs
  | .log t ecc => keeps_execLog t s ecc hs
  | .ebreak t => keeps_execEbreak t s hs
  | .launchGroupStart image ecc => keeps_execLaunchGroupStart image s ecc hs
  | .descriptorWaitRelease die => keeps_execDescriptorWaitRelease die s hs
  | .engineWaitLimit die => keeps_execEngineWaitLimit die s hs
  | .descriptorComplete die engine cycles => keeps_execDescriptorComplete die engine cycles s hs
  | .contrib die ecc checks => keeps_execContrib die ecc checks s hs
  | .accInit die check => keeps_execAccInit die check s hs
  | .accAdd die ecc check => keeps_execAccAdd die ecc check s hs
  | .accRound die ecc => keeps_execAccRound die ecc s hs
  | .topk die ecc => keeps_execTopk die ecc s hs
  | .sort die ecc => keeps_execSort die ecc s hs
  | .thresh die ecc => keeps_execThresh die ecc s hs
  | .selectRank die ecc => keeps_execSelectRank die ecc s hs
  | .gather die ecc => keeps_execGather die ecc s hs
  | .scatter die ecc => keeps_execScatter die ecc s hs
  | .pageGather die ecc => keeps_execPageGather die ecc s hs
  | .pageScatter die ecc => keeps_execPageScatter die ecc s hs
  | .convert die ecc => keeps_execConvert die ecc s hs
  | .crc64 die ecc => keeps_execCrc64 die ecc s hs
  | .shake256 die ecc => keeps_execShake256 die ecc s hs
  | .sumcheck die ecc => keeps_execSumcheck die ecc s hs
  | .put die ecc => keeps_execPut die ecc s hs
  | .trainingFrame port lane bits inverted errorsLow => keeps_execTrainingFrame port lane bits inverted errorsLow s hs
  | .hitchStageTimeout port swingLost => keeps_execHitchStageTimeout port swingLost s hs
  | .backOffEnd port => keeps_execBackOffEnd port s hs
  | .listenBeacon port => keeps_execListenBeacon port s hs
  | .listenSwingSeen port => keeps_execListenSwingSeen port s hs
  | .bitSlipSearch lane found => keeps_execBitSlipSearch lane found s hs
  | .identityMessage port msg => keeps_execIdentityMessage port msg s hs
  | .timingMessage port msg rxAxle => keeps_execTimingMessage port msg rxAxle s hs
  | .portMisplaced port => keeps_execPortMisplaced port s hs
  | .verifyEnd port uncorrectable corrected received => keeps_execVerifyEnd port uncorrectable corrected received s hs
  | .uncorrectableRound port words headers => keeps_execUncorrectableRound port words headers s hs
  | .linkDown port cause => keeps_execLinkDown port cause s hs
  | .enterIdle port => keeps_execEnterIdle port s hs
  | .idleExitBurst port => keeps_execIdleExitBurst port s hs
  | .idleExit port => keeps_execIdleExit port s hs
  | .syncSend => keeps_execSyncSend s hs
  | .axleServo => keeps_execAxleServo s hs
  | .masterSelfLock => keeps_execMasterSelfLock s hs
  | .certDone mode results => keeps_execCertDone mode results s hs
  | .certSchedule => keeps_execCertSchedule s hs
  | .telemetryBoundary => keeps_execTelemetryBoundary s hs
  | .replayInject checks => keeps_execReplayInject s checks hs
  | .controlCycle sensed copied => keeps_execControlCycle sensed s copied hs
  | .thermalHold position => keeps_execThermalHold position s hs
  | .thermalTrip position sensor reading => keeps_execThermalTrip position sensor reading s hs
  | .ehrokTakeover cause => keeps_execEhrokTakeover cause s hs
  | .coreRestart coreB imageOk => keeps_execCoreRestart coreB imageOk s hs
  | .ehrokTakeback => keeps_execEhrokTakeback s hs
  | .hardwareWatchdog => keeps_execHardwareWatchdog s hs
  | .powerUp input => keeps_execPowerUp input s hs
  | .setupEntry imagesOk => keeps_execSetupEntry imagesOk s hs
  | .selfTestComplete r => keeps_execSelfTestComplete r s hs
  | .restEntry => keeps_execRestEntry s hs
  | .holdEnter cause unit => keeps_execHoldEnter cause unit s hs
  | .drainLimit => keeps_execDrainLimit s hs
  | .orphanEnter => keeps_execOrphanEnter s hs
  | .presenceOpen jumper => keeps_execPresenceOpen jumper s hs
  | .presenceClose => keeps_execPresenceClose s hs
  | .sealOpen loopB => keeps_execSealOpen loopB s hs
  | .sealClose loopB => keeps_execSealClose loopB s hs
  | .pinReset => keeps_execPinReset s hs
  | .resetNRelease inputInRange input => keeps_execResetNRelease inputInRange input s hs
  | .shedNAssert => keeps_execShedNAssert s hs
  | .shedNRelease => keeps_execShedNRelease s hs
  | .capOverrun draw => keeps_execCapOverrun s draw hs
  | .inputRange volts => keeps_execInputRange volts s hs
  | .undervoltageShed volts => keeps_execUndervoltageShed volts s hs
  | .inputUndervolt volts => keeps_execInputUndervolt volts s hs
  | .protectiveStop overvoltage => keeps_execProtectiveStop overvoltage s hs
  | .lossOfInput => keeps_execLossOfInput s hs
  | .droopStretch die => keeps_execDroopStretch die s hs
  | .droopRelease die => keeps_execDroopRelease die s hs
  | .marginLow position atLimit => keeps_execMarginLow position atLimit s hs
  | .coolLowFlow flow sensorFault => keeps_execCoolLowFlow flow sensorFault s hs
  | .flowRecovered flow => keeps_execFlowRecovered flow s hs
  | .coolInletHigh inlet outlet => keeps_execCoolInletHigh inlet outlet s hs
  | .coolInletLow inlet => keeps_execCoolInletLow inlet s hs
  | .leak loop => keeps_execLeak loop s hs
  | .leakLoopFault loop resistance => keeps_execLeakLoopFault loop resistance s hs
  | .refclkAbsent => keeps_execRefclkAbsent s hs
  | .inputRecovered volts => keeps_execInputRecovered volts s hs
  | .refclkRestored => keeps_execRefclkRestored s hs
  | .alignExit port => keeps_execAlignExit port s hs
  | .streamResume port => keeps_execStreamResume port s hs
  | .prbsLock lane => keeps_execPrbsLock lane s hs
  | .prbsLockLost lane bits bitErrors symbolErrors => keeps_execPrbsLockLost lane bits bitErrors symbolErrors s hs
  | .invalidTypePacket port p => keeps_execInvalidTypePacket port p s hs
  | .illegalInstruction t word ecc => keeps_execIllegalInstruction t word ecc s hs

/-- Every step keeps the memories canonical: the front command does, and on an empty queue time and the galley cores do. -/
theorem step_keeps_canon (s t : State) (hs : Canon s) (h : step s = .next t) : Canon t := by
  unfold step at h
  split at h
  · exact keeps_done (canon_idleTick s hs) t h
  · next c rest _ =>
    have unqueued : Canon { s with pending := rest } := (canon_same_memories s rfl ..).mpr hs
    exact keeps_exec c _ unqueued t h

/-- Settles O52: the reset state's memories are empty, every step keeps the canonical form, and so does every run. -/
theorem stepsKeepMemoryCanonical : Obligations.StepsKeepMemoryCanonical := by
  unfold Obligations.StepsKeepMemoryCanonical
  exact ⟨⟨rfl, rfl, rfl⟩, step_keeps_canon, run_invariant step_keeps_canon⟩


end Sys2Proof.Machine

/-! PROOFS. A step boundary of a block (11 R274). -/

namespace Sys2Proof.Machine

/-- The block itself after its boundary: the step and the close request are set, and a block whose pause is pending, or whose module drains, is then
paused. -/
theorem blockOf_boundary (s : State) (b v : Nat) : blockOf (boundary s b v) b =
    let x := { blockOf s b with step := (v + 1) % 2 ^ 48, close := none }
    if x.st = .active ∧ (x.pause ∨ s.mod.st = .drain) then { x with st := .paused, pause := false } else x := by
  obtain ⟨u, ends, blocks, mod⟩ := boundary_split s b v
  have noted : blockOf u b = { blockOf s b with step := (v + 1) % 2 ^ 48, close := none } := by simp [blockOf, blocks]
  rw [ends, noted, mod]
  dsimp only
  split
  · simp [blockOf, pauseBlock_blocks, blocks]
  · exact noted

/-- Settles O43: the boundary sets the step and ends the close request, and pauses the block where a pause is pending. -/
theorem stepBoundariesAdvanceBlocks : Obligations.StepBoundariesAdvanceBlocks := by
  unfold Obligations.StepBoundariesAdvanceBlocks
  refine ⟨fun s b v => ?_, fun s b v active pause => ?_, fun s b v active pause drain => ?_, fun s b none => ?_, fun s b v some busy => ?_,
    fun s b v some quiet => ?_⟩
  · rw [blockOf_boundary]
    dsimp only
    split <;> exact ⟨rfl, rfl⟩
  · simp [blockOf_boundary, active, pause]
  · simp [blockOf_boundary, active, pause, drain]
  · simp [boundaryCheck, none]
  · simp [boundaryCheck, some, busy]
  · simp [boundaryCheck, some, quiet]

end Sys2Proof.Machine

/-! PROOFS. The sum of a slot's element does not depend on the order of its inputs (07 R170): where no partial sum leaves the finite range, adding
exactly is adding without a range, which is commutative. -/

namespace Sys2Proof.Machine

/-- The addition of accumulator states without the finite range of 07 R169's last row. -/
def wideAdd (s t : Acc) : Acc :=
  match s, t with
  | .fin a, .fin b => .fin (a + b)
  | s, t => accAdd s t

/-- Only the sum of two finite states can leave the range. -/
theorem accAdd_eq_wideAdd {s t : Acc} (h : ∀ a b, s = .fin a → t = .fin b → (a + b).natAbs < 2 ^ 310) : accAdd s t = wideAdd s t := by
  cases s <;> cases t
  case fin.fin a b =>
    have inside := h a b rfl rfl
    have lim : accLim = 2 ^ 310 := rfl
    exact accFin_of_mem_range (by omega) (by omega)
  all_goals rfl

theorem wideAdd_right_comm (s t u : Acc) : wideAdd (wideAdd s t) u = wideAdd (wideAdd s u) t := by
  cases s <;> cases t <;> cases u
  case fin.fin.fin a b c => exact congrArg Acc.fin (by omega)
  case negZero.fin.fin b c => exact congrArg Acc.fin (Int.add_comm b c)
  all_goals rfl

/-- What a sum is where it is finite: each operand's part is finite or the neutral zero. -/
theorem natAbs_of_wideAdd_fin {s t : Acc} {c m n : Nat} {x : Int} (is : wideAdd s t = .fin x) (hs : ∀ a, s = .fin a → a.natAbs + c < m)
    (ht : ∀ b, t = .fin b → b.natAbs ≤ n) (hn : n + c < m) (hcn : n ≤ c) : x.natAbs + (c - n) < m := by
  cases s <;> cases t <;> cases is
  case fin.fin.refl a b =>
    have := hs a rfl
    have := ht b rfl
    omega
  case fin.negZero.refl =>
    have := hs x rfl
    omega
  case negZero.fin.refl =>
    have := ht x rfl
    omega

/-- With room left for every input still to come, no partial sum leaves the finite range. -/
theorem foldl_accAdd_eq_wideAdd (l : List Acc) (s : Acc) (small : ∀ a, Acc.fin a ∈ l → a.natAbs < 2 ^ 292) (few : l.length ≤ 256)
    (room : ∀ a, s = .fin a → a.natAbs + l.length * 2 ^ 292 < 2 ^ 310) : l.foldl accAdd s = l.foldl wideAdd s := by
  induction l generalizing s with
  | nil => rfl
  | cons t l ih =>
    have one : ∀ b, t = .fin b → b.natAbs ≤ 2 ^ 292 := fun b is => (small b (is ▸ List.mem_cons_self)).le
    rw [List.length_cons] at few room
    have sum : accAdd s t = wideAdd s t := accAdd_eq_wideAdd fun a b hs ht => by
      have := room a hs
      have := one b ht
      omega
    rw [List.foldl_cons, List.foldl_cons, sum]
    refine ih _ (fun a mem => small a (List.mem_cons_of_mem _ mem)) (by omega) fun x is => ?_
    have := natAbs_of_wideAdd_fin is room one (by omega) (by omega)
    omega

/-- Settles O57: at most 256 inputs below 2^292 units leave room, so the order of the unbounded sum decides nothing. -/
theorem slotSumsAreOrderFree : Obligations.SlotSumsAreOrderFree := by
  unfold Obligations.SlotSumsAreOrderFree
  intro l m perm few small
  rw [foldl_accAdd_eq_wideAdd l .negZero small few (by simp),
    foldl_accAdd_eq_wideAdd m .negZero (fun a mem => small a (perm.mem_iff.mpr mem)) (perm.length_eq ▸ few) (by simp)]
  exact perm.foldl_eq' (fun x _ y _ z => wideAdd_right_comm z x y) _

end Sys2Proof.Machine

/-! PROOFS. The byte layouts lose nothing: packet headers (03 R54), trailers (03 R59, R60) and the stored plan (13 R324). A field of a layout is read by
passing the fields before it. -/

namespace Sys2Proof.Machine

@[simp] theorem getLe_leBytes_append (n v : Nat) (bs : List Byte) : getLe (leBytes n v ++ bs) 0 n = v % 256 ^ n := by
  rw [getLe_append_left _ _ _ _ (by simp), getLe_leBytes]

theorem getLe_leBytes_append_of_le (n v : Nat) (bs : List Byte) {off : Nat} (m : Nat) (h : n ≤ off) :
    getLe (leBytes n v ++ bs) off m = getLe bs (off - n) m := by
  rw [getLe_append_right _ _ _ _ (by simpa using h), leBytes_length]

/-- A bit vector of whole bytes is read back from them. -/
theorem ofNat_toNat_mod {w n : Nat} (v : BitVec w) (h : 256 ^ n = 2 ^ w) : BitVec.ofNat w (v.toNat % 256 ^ n) = v := by
  apply BitVec.eq_of_toNat_eq
  rw [h]
  simp

theorem headerBytes_length (h : Header) : (headerBytes h).length = 32 := by simp [headerBytes]

theorem bit_of_b2n {w i : Nat} {b : Bool} (h : w / 2 ^ i % 2 = b2n b) : bit w i = b := by
  rw [bit, h]
  cases b <;> rfl

/-- The control field is its members side by side: none reaches the next one's place. -/
theorem ctlOf_members (h : Header) : ctlOf h < 65536 ∧ ctlOf h % 16 = h.typ.toNat ∧ ctlOf h / 16 % 4 = h.tclass.toNat ∧
    ctlOf h / 2048 = h.rsvd.toNat ∧ ctlOf h / 64 % 2 = b2n h.epoch ∧ ctlOf h / 128 % 2 = b2n h.mcast ∧ ctlOf h / 256 % 2 = b2n h.last ∧
    ctlOf h / 512 % 2 = b2n h.mark ∧ ctlOf h / 1024 % 2 = b2n h.resend := by
  have := h.typ.isLt
  have := h.tclass.isLt
  have := h.rsvd.isLt
  have := b2n_le_one h.epoch
  have := b2n_le_one h.mcast
  have := b2n_le_one h.last
  have := b2n_le_one h.mark
  have := b2n_le_one h.resend
  unfold ctlOf
  omega

theorem ofNat_ctlOf (h : Header) : BitVec.ofNat 4 (ctlOf h) = h.typ ∧ BitVec.ofNat 2 (ctlOf h / 16) = h.tclass ∧
    BitVec.ofNat 5 (ctlOf h / 2048) = h.rsvd := by
  obtain ⟨-, typ, tclass, rsvd, -⟩ := ctlOf_members h
  have := h.rsvd.isLt
  refine ⟨BitVec.eq_of_toNat_eq typ, BitVec.eq_of_toNat_eq tclass, BitVec.eq_of_toNat_eq ?_⟩
  rw [BitVec.toNat_ofNat]
  omega

theorem bit_ctlOf (h : Header) : bit (ctlOf h) 6 = h.epoch ∧ bit (ctlOf h) 7 = h.mcast ∧ bit (ctlOf h) 8 = h.last ∧ bit (ctlOf h) 9 = h.mark ∧
    bit (ctlOf h) 10 = h.resend := by
  obtain ⟨-, -, -, -, epoch, mcast, last, mark, resend⟩ := ctlOf_members h
  exact ⟨bit_of_b2n epoch, bit_of_b2n mcast, bit_of_b2n last, bit_of_b2n mark, bit_of_b2n resend⟩

theorem headerOf_headerBytes (h : Header) : headerOf (headerBytes h) = h := by
  obtain ⟨typ, tclass, rsvd⟩ := ofNat_ctlOf h
  obtain ⟨epoch, mcast, last, mark, resend⟩ := bit_ctlOf h
  have ctl : getLe (headerBytes h) 0 2 = ctlOf h := by
    simp only [headerBytes, List.append_assoc, getLe_leBytes_append]
    exact Nat.mod_eq_of_lt (ctlOf_members h).1
  unfold headerOf
  simp only [ctl, typ, tclass, rsvd, epoch, mcast, last, mark, resend]
  simp (disch := decide) only [headerBytes, List.append_assoc, getLe_leBytes_append, getLe_leBytes_append_of_le, getLe_leBytes,
    Nat.reduceSub, ofNat_toNat_mod]

theorem trailerOf_lt (h : Header) (p : List Byte) : trailerOf h p < 2 ^ 64 := crc64_lt _

theorem trailerOk_mkPacket (h : Header) (p : List Byte) (whole : p.length % 32 = 0) (short : p.length ≤ 2048) : trailerOk (mkPacket h p) = true := by
  have carried := Nat.mod_eq_of_lt (trailerOf_lt { h with len := BitVec.ofNat 16 (p.length / 32) } p)
  simp only [trailerOk, mkPacket, BitVec.toNat_ofNat, carried, decide_true, Bool.and_true, decide_eq_true_eq]
  omega

/-- Settles O55: each header field is read from its place, and neither the trailer nor its check sees the mark bit. -/
theorem headersAndTrailersRoundTrip : Obligations.HeadersAndTrailersRoundTrip := by
  unfold Obligations.HeadersAndTrailersRoundTrip
  exact ⟨fun h => ⟨headerOf_headerBytes h, headerBytes_length h⟩, fun h p m => rfl, fun p m => rfl, trailerOk_mkPacket⟩

/-- One field of equal records laid side by side. -/
theorem getLe_flatMap {α : Type} (f : α → List Byte) (k : Nat) (whole : ∀ x, (f x).length = k) (l : List α) (i off n : Nat) (inside : off + n ≤ k)
    (hi : i < l.length) : getLe (l.flatMap f) (k * i + off) n = getLe (f l[i]) off n := by
  induction l generalizing i with
  | nil => exact absurd hi (by simp)
  | cons x l ih =>
    rw [List.flatMap_cons]
    cases i with
    | zero => exact (getLe_append_left _ _ _ _ (by rw [whole]; omega)).trans (by simp)
    | succ i =>
      rw [getLe_append_right _ _ _ _ (by rw [whole, Nat.mul_succ]; omega), whole, Nat.mul_succ, show k * i + k + off - k = k * i + off by omega]
      exact ih i (by simpa using hi)

theorem length_flatMap_const {α : Type} (f : α → List Byte) (k : Nat) (whole : ∀ x, (f x).length = k) (l : List α) :
    (l.flatMap f).length = k * l.length := by
  simp [List.length_flatMap, whole, Nat.mul_comm]

/-- The stored form of a plan's entry. -/
def entryBytes (e : PlanEntry) : List Byte := leBytes 2 e.epa ++ leBytes 1 e.state ++ leBytes 1 e.partnerPort ++ leBytes 4 0

/-- The word of the widths. -/
def widthWord (ws : List Nat) : Nat := fields ((enum ws).map fun w => (2 * w.1, 2, w.2))

/-- The plan before its entries. -/
def planHead (p : Plan) : List Byte :=
  leBytes 2 1 ++ leBytes 1 p.plane ++ leBytes 1 p.rackPos ++ leBytes 4 (widthWord p.widths) ++ leBytes 2 (p.widths.map portsPer).sum ++
    leBytes 2 p.edits ++ leBytes 4 0 ++ leBytes 8 p.planId ++ List.replicate 40 0

theorem planBody_eq (p : Plan) : planBody p = planHead p ++ p.entries.flatMap entryBytes := rfl

theorem planHead_length (p : Plan) : (planHead p).length = 64 := by simp [planHead]

theorem entryBytes_length (e : PlanEntry) : (entryBytes e).length = 8 := by simp [entryBytes]

/-- Numbers below 4 side by side, the first lowest. -/
def packPairs (ws : List Nat) : Nat := ws.foldr (fun w n => w + 4 * n) 0

theorem packPairs_getElem (ws : List Nat) (small : ∀ w ∈ ws, w < 4) (k : Nat) (hk : k < ws.length) : packPairs ws / 4 ^ k % 4 = ws[k] := by
  induction ws generalizing k with
  | nil => exact absurd hk (by simp)
  | cons w ws ih =>
    have first : w < 4 := small w List.mem_cons_self
    have packed : packPairs (w :: ws) = w + 4 * packPairs ws := rfl
    cases k with
    | zero => simp only [packed, List.getElem_cons_zero]; omega
    | succ k =>
      rw [packed, Nat.pow_succ', ← Nat.div_div_eq_div_mul, show (w + 4 * packPairs ws) / 4 = packPairs ws by omega]
      exact ih (fun v mem => small v (List.mem_cons_of_mem _ mem)) k (by simpa using hk)

theorem packPairs_lt (ws : List Nat) (small : ∀ w ∈ ws, w < 4) : packPairs ws < 4 ^ ws.length := by
  induction ws with
  | nil => decide
  | cons w ws ih =>
    have first : w < 4 := small w List.mem_cons_self
    have rest := ih fun v mem => small v (List.mem_cons_of_mem _ mem)
    have packed : packPairs (w :: ws) = w + 4 * packPairs ws := rfl
    rw [packed, List.length_cons, Nat.pow_succ]
    omega

/-- Fields of two bits each from the `i`-th on are packed pairs. -/
theorem fields_pairs (ws : List Nat) (small : ∀ w ∈ ws, w < 4) (i : Nat) :
    fields (((List.range' i ws.length).zip ws).map fun w => (2 * w.1, 2, w.2)) = 4 ^ i * packPairs ws := by
  induction ws generalizing i with
  | nil => simp [fields, packPairs]
  | cons w ws ih =>
    have first : w % 2 ^ 2 = w := Nat.mod_eq_of_lt (small w List.mem_cons_self)
    have rest := ih (fun v mem => small v (List.mem_cons_of_mem _ mem)) (i + 1)
    have packed : packPairs (w :: ws) = w + 4 * packPairs ws := rfl
    simp only [List.length_cons, List.range'_succ, List.zip_cons_cons, List.map_cons, fields, first, rest, packed]
    rw [Nat.pow_mul, Nat.pow_succ]
    ring

theorem widthWord_eq (ws : List Nat) (small : ∀ w ∈ ws, w < 4) : widthWord ws = packPairs ws := by
  rw [widthWord, enum, List.range_eq_range', fields_pairs ws small, Nat.pow_zero, Nat.one_mul]

theorem bits_widthWord (ws : List Nat) (small : ∀ w ∈ ws, w < 4) (k : Nat) (hk : k < ws.length) : bits (widthWord ws) (2 * k) 2 = ws[k] := by
  rw [widthWord_eq ws small, bits, Nat.pow_mul]
  exact packPairs_getElem ws small k hk

/-- The fields of the plan before its entries. -/
theorem getLe_planHead (p : Plan) : getLe (planHead p) 2 1 = p.plane % 256 ^ 1 ∧ getLe (planHead p) 3 1 = p.rackPos % 256 ^ 1 ∧
    getLe (planHead p) 4 4 = widthWord p.widths % 256 ^ 4 ∧ getLe (planHead p) 10 2 = p.edits % 256 ^ 2 ∧
    getLe (planHead p) 16 8 = p.planId % 256 ^ 8 := by
  simp (disch := decide) only [planHead, List.append_assoc, getLe_leBytes_append, getLe_leBytes_append_of_le, Nat.reduceSub, and_self]

theorem getLe_entryBytes (e : PlanEntry) : getLe (entryBytes e) 0 2 = e.epa % 256 ^ 2 ∧ getLe (entryBytes e) 2 1 = e.state % 256 ^ 1 ∧
    getLe (entryBytes e) 3 1 = e.partnerPort % 256 ^ 1 := by
  simp (disch := decide) only [entryBytes, List.append_assoc, getLe_leBytes_append, getLe_leBytes_append_of_le, Nat.reduceSub, and_self]

theorem getLe_planBytes_head (p : Plan) (off n : Nat) (h : off + n ≤ 64) : getLe (planBytes p) off n = getLe (planHead p) off n := by
  rw [planBytes, planBody_eq, List.append_assoc]
  exact getLe_append_left _ _ _ _ (by rw [planHead_length]; exact h)

theorem planBody_length (p : Plan) (full : p.entries.length = 256) : (planBody p).length = 2112 := by
  rw [planBody_eq, List.length_append, planHead_length, length_flatMap_const entryBytes 8 entryBytes_length, full]

theorem getLe_planBytes_entry (p : Plan) (full : p.entries.length = 256) (i off n : Nat) (hi : i < p.entries.length) (h : off + n ≤ 8) :
    getLe (planBytes p) (64 + off + 8 * i) n = getLe (entryBytes p.entries[i]) off n := by
  rw [planBytes, getLe_append_left _ _ _ _ (by rw [planBody_length p full]; omega), planBody_eq,
    getLe_append_right _ _ _ _ (by rw [planHead_length]; omega), planHead_length, show 64 + off + 8 * i - 64 = 8 * i + off by omega]
  exact getLe_flatMap entryBytes 8 entryBytes_length _ _ _ _ h hi

theorem planOf_planBytes_widths (p : Plan) (count : p.widths.length = 16) (small : ∀ w ∈ p.widths, w < 4) : (planOf (planBytes p)).widths = p.widths := by
  obtain ⟨-, -, word, -⟩ := getLe_planHead p
  have fits : widthWord p.widths < 256 ^ 4 := by
    have := packPairs_lt p.widths small
    rw [widthWord_eq _ small]
    rw [count] at this
    exact this
  have read : getLe (planBytes p) 4 4 = widthWord p.widths := by
    rw [getLe_planBytes_head p _ _ (by decide), word, Nat.mod_eq_of_lt fits]
  refine List.ext_getElem (by simp [planOf, count]) fun k _ hk => ?_
  simp only [planOf, List.getElem_map, List.getElem_range, read]
  exact bits_widthWord p.widths small k hk

theorem planOf_planBytes_entries (p : Plan) (full : p.entries.length = 256)
    (small : ∀ e ∈ p.entries, e.epa < 65536 ∧ e.state < 256 ∧ e.partnerPort < 256) : (planOf (planBytes p)).entries = p.entries := by
  refine List.ext_getElem (by simp [planOf, full]) fun i _ hi => ?_
  obtain ⟨epa, state, port⟩ := getLe_entryBytes p.entries[i]
  obtain ⟨epaFits, stateFits, portFits⟩ := small _ (List.getElem_mem hi)
  have entry := getLe_planBytes_entry p full i
  simp only [planOf, List.getElem_map, List.getElem_range]
  rw [entry 0 2 hi (by decide), entry 2 1 hi (by decide), entry 3 1 hi (by decide), epa, state, port,
    Nat.mod_eq_of_lt (show _ < 256 ^ 2 from epaFits), Nat.mod_eq_of_lt (show _ < 256 ^ 1 from stateFits),
    Nat.mod_eq_of_lt (show _ < 256 ^ 1 from portFits)]

/-- Settles O60: the head's fields, the widths and each entry are read back from their places, and the CRC-64 stands behind the body. -/
theorem plansRoundTrip : Obligations.PlansRoundTrip := by
  unfold Obligations.PlansRoundTrip
  intro p plane rack edits planId count small full entries
  obtain ⟨readPlane, readRack, -, readEdits, readId⟩ := getLe_planHead p
  have len := planBody_length p full
  refine ⟨?_, by simp [planBytes, len], ?_⟩
  · have widths := planOf_planBytes_widths p count small
    have rows := planOf_planBytes_entries p full entries
    have head := getLe_planBytes_head p
    calc planOf (planBytes p)
        = { plane := getLe (planBytes p) 2 1, rackPos := getLe (planBytes p) 3 1, widths := (planOf (planBytes p)).widths,
            edits := getLe (planBytes p) 10 2, planId := getLe (planBytes p) 16 8, entries := (planOf (planBytes p)).entries } := rfl
      _ = p := by
        rw [widths, rows, head _ _ (by decide), head _ _ (by decide), head _ _ (by decide), head _ _ (by decide), readPlane, readRack, readEdits,
          readId, Nat.mod_eq_of_lt (show _ < 256 ^ 1 from plane), Nat.mod_eq_of_lt (show _ < 256 ^ 1 from rack),
          Nat.mod_eq_of_lt (show _ < 256 ^ 2 from edits), Nat.mod_eq_of_lt (show _ < 256 ^ 8 from planId)]
  · rw [planBytes, getLe_append_right _ _ _ _ len.le, len, getLe_leBytes, List.take_append_of_le_length len.ge, List.take_of_length_le len.le]
    exact Nat.mod_eq_of_lt (crc64_lt _)

end Sys2Proof.Machine

/-! PROOFS. Register writes (14 R362): the outcome of a row that writes one word, the register STG_E2E_CTL (03 R74), and COMMIT (02 R36). -/

namespace Sys2Proof.Machine

theorem regSpanOk_one {a : Nat} (h : a < 2 ^ 32) (aligned : a % 4 = 0) : regSpanOk a 1 = true := by
  simpa [regSpanOk, aligned] using h

theorem layout_word (n : Nat) : layout [(2, n)] = leBytes 2 n := by simp [layout, putItem, alignUp]


/-- A row of one word whose write succeeds. -/
theorem regRow_ok {s t : State} {tag a : Nat} {w : Word} (runs : Runs s tag 0x0221 [(4, a), (2, 1), (4, w.toNat)]) (h : a < 2 ^ 32)
    (aligned : a % 4 = 0) (written : regWrite s a w.toNat = .ok t) : regRow tag a w s = .next (answered s t tag 0x0221 (.ok, [1, 0], [])) := by
  rw [regRow, lonusCmd_ends runs]
  simp [regWriteBody, regSpanOk_one h aligned, regWrites, written, layout_word, leBytes]

/-- A row of one word whose write fails changes nothing. -/
theorem regRow_error {s : State} {tag a : Nat} {w : Word} {e : Status} (runs : Runs s tag 0x0221 [(4, a), (2, 1), (4, w.toNat)]) (h : a < 2 ^ 32)
    (aligned : a % 4 = 0) (failed : regWrite s a w.toNat = .error e) : regRow tag a w s = .next (answered s s tag 0x0221 (e, [0, 0], [])) := by
  rw [regRow, lonusCmd_ends runs]
  simp [regWriteBody, regSpanOk_one h aligned, regWrites, failed, layout_word, leBytes]

theorem regFind_e2eCtl (s : State) : regFind s 0x50000010 = .ok .e2eCtl := rfl

/-- A write of STG_E2E_CTL whose word has writable bits alone is decided by its fields' ranges. -/
theorem regWrite_e2eCtl (s : State) (w : Nat) (writable : w &&& 0xFF1F0FFF = w) : regWrite s 0x50000010 w =
    if regRangeOk s .e2eCtl w then .ok { s with regs := Tab.set none s.regs 0x50000010 (some (BitVec.ofNat 32 w)) } else .error .badParam := by
  have state : regStateOk s .e2eCtl w = true := rfl
  have mask : regMask .e2eCtl = 0xFF1F0FFF := rfl
  have static : regStatic .e2eCtl = 0 := rfl
  unfold regWrite
  rw [regFind_e2eCtl]
  simp only [mask, static, writable, state, Nat.and_zero, ne_eq, not_true_eq_false, and_false, if_false, show ¬ 0xFF1F0FFF = 0 by decide]
  by_cases ok : regRangeOk s .e2eCtl w = true
  · simp only [ok, not_true_eq_false, if_false, if_true]
    rfl
  · simp only [ok]
    rfl

theorem regRangeOk_e2eCtl (s : State) (w : Nat) : regRangeOk s .e2eCtl w =
    (within 4 (bits w 0 8) 64 && within 1 (bits w 8 4) 15 && within 1 (bits w 16 5) 31 && within 1 (bits w 24 8) 40) := rfl

/-- Settles O16: the mask, the ranges and the address decide a write in that order. -/
theorem endToEndControlWrite : Obligations.EndToEndControlWrite := by
  unfold Obligations.EndToEndControlWrite
  refine ⟨fun s w w0 w0' w1 w1' w2 w2' w3 w3' small writable => ?stores, fun s tag w runs writable outside => ?refuses, fun s a w e none => ?absent,
    fun s a w r found readOnly level => ?denied⟩
  case stores => simp [regWrite_e2eCtl s w writable, regRangeOk_e2eCtl, within, *]
  case refuses =>
    have range : regRangeOk s .e2eCtl w.toNat = false := by
      simp only [regRangeOk_e2eCtl, within, Bool.and_eq_false_iff, decide_eq_false_iff_not]
      omega
    refine regRow_error runs (by decide) (by decide) ?_
    simp [regWrite_e2eCtl s _ writable, range]
  case absent => simp [regWrite, regFind, none]
  case denied => simp [regWrite, regFind, found, level, readOnly]

/-- The status, the count and the state that a REG_WRITE of one word at `a` answers with. -/
def rowOutcome (s : State) (tag a : Nat) (w : Word) : State :=
  match regWrite s a w.toNat with
  | .ok t => answered s t tag 0x0221 (.ok, [1, 0], [])
  | .error e => answered s s tag 0x0221 (e, [0, 0], [])

theorem regRow_eq {s : State} {tag a : Nat} {w : Word} (runs : Runs s tag 0x0221 [(4, a), (2, 1), (4, w.toNat)]) (h : a < 2 ^ 32)
    (aligned : a % 4 = 0) : regRow tag a w s = .next (rowOutcome s tag a w) := by
  unfold rowOutcome
  rcases outcome : regWrite s a w.toNat with e | t
  · exact regRow_error runs h aligned outcome
  · exact regRow_ok runs h aligned outcome

theorem regRow_badSpan {s : State} {tag a : Nat} {w : Word} (runs : Runs s tag 0x0221 [(4, a), (2, 1), (4, w.toNat)])
    (h : ¬ (a < 2 ^ 32 ∧ a % 4 = 0)) : regRow tag a w s = .next (answered s s tag 0x0221 (rep .badParam)) := by
  have span : regSpanOk a 1 = false := by
    simp only [regSpanOk, decide_eq_false_iff_not]
    exact fun all => h ⟨all.1, all.2.1⟩
  rw [regRow, lonusCmd_ends runs]
  simp [regWriteBody, span]

theorem regWriteBody_eq (s : State) (a n : Nat) (ws : List Word) : regWriteBody a n ws s =
    if a < 2 ^ 32 ∧ a % 4 = 0 ∧ 1 ≤ n ∧ n ≤ 256 ∧ ws.length = n then
      answer (regWrites s a ws 0).2.2 ((regWrites s a ws 0).1, leBytes 2 (regWrites s a ws 0).2.1, [])
    else fail s .badParam := by
  unfold regWriteBody
  simp only [regSpanOk, Bool.or_eq_true, Bool.not_eq_true', decide_eq_false_iff_not, decide_eq_true_eq]
  have same : (¬ (a < 2 ^ 32 ∧ a % 4 = 0 ∧ 1 ≤ n ∧ n ≤ 256) ∨ ws.length ≠ n) ↔
      ¬ (a < 2 ^ 32 ∧ a % 4 = 0 ∧ 1 ≤ n ∧ n ≤ 256 ∧ ws.length = n) := by tauto
  simp only [same, ite_not, layout_word]

theorem commitHeld_eq (s : State) : commitHeld s = if winAllOk s = true then (.ok, winSettle { s with
      held := [],
      winPend := (s.winPend.filter fun p => !((List.range 64).filter (winHeld s)).contains p.w) ++
        ((List.range 64).filter (winHeld s)).map fun k => { w := k, win := winProposed s k, waitFor := winWaits s k } }) else (.badParam, s) := by
  unfold commitHeld
  cases winAllOk s <;> rfl

/-- Settles O15: the words are written one after another, a row writes the one word of its register, and COMMIT applies all held words or none. -/
theorem registerWritesAreAppliedInOrder : Obligations.RegisterWritesAreAppliedInOrder := by
  unfold Obligations.RegisterWritesAreAppliedInOrder
  refine ⟨fun s tag a n ws runs => ?writes, fun s a w ws n => rfl, fun s a n => rfl, fun s tag w a k => ?rows, fun s tag runs => ?commits⟩
  case writes =>
    rw [exec, execRegWrite, lonusCmd_ends runs, regWriteBody_eq]
    split <;> rfl
  case rows =>
    refine ⟨fun runs => regRow_eq runs (by decide) (by decide), fun hk runs => regRow_eq runs (by omega) (by omega),
      fun hk runs => regRow_eq runs (by omega) (by omega), fun hk runs => ?_, fun runs => regRow_eq runs (by decide) (by decide),
      fun runs => regRow_eq runs (by decide) (by decide), fun runs => regRow_eq runs (by decide) (by decide), fun runs => ?_⟩
    · have address : hubReg k 0x7000 = 0x30007000 + 0x100000 * k := by unfold hubReg; omega
      rw [exec, execHubPortWidthWrite, address]
      exact regRow_eq runs (by omega) (by omega)
    · split
      · next span => exact regRow_eq runs span.1 span.2
      · next span => exact regRow_badSpan runs span
  case commits =>
    rw [exec, execCommit, lonusCmd_ends runs, commitHeld_eq]
    split <;> rfl

end Sys2Proof.Machine

/-! PROOFS. The receive window of a pair (03 R63): a number set in it is passed or stands in it, and nothing else is passed. -/

namespace Sys2Proof.Machine

/-- How far the base moves when number `d` is set. -/
def moves (r : Recv) (d : Nat) : Nat := runLen 4096 (r.map ||| (1#4096 <<< d)) 0

theorem moves_le (r : Recv) (d : Nat) : moves r d ≤ 4096 := by
  have := (runLen_spec 4096 (r.map ||| (1#4096 <<< d)) 0).2.1
  unfold moves
  omega

theorem recvSet_moved (r : Recv) (d : Nat) (h : r.base < 2 ^ 32) : ((recvSet r d).base + 2 ^ 32 - r.base) % 2 ^ 32 = moves r d := by
  have moved : (recvSet r d).base = (r.base + moves r d) % 2 ^ 32 := rfl
  have := moves_le r d
  omega

theorem moves_passed (r : Recv) (d k : Nat) (h : k < moves r d) : k = d ∨ r.map.getLsbD k = true := by
  have := moves_le r d
  have set := (runLen_spec 4096 (r.map ||| (1#4096 <<< d)) 0).2.2 k (Nat.zero_le k) h
  rw [setBit_getLsbD _ _ _ (by omega), Bool.or_eq_true, decide_eq_true_eq] at set
  exact set.symm

/-- A number at or behind the new base stands where the old map or the new number put it. -/
theorem recvSet_getLsbD (r : Recv) (d k : Nat) (hk : k < 4096) (h : moves r d ≤ k) :
    (recvSet r d).map.getLsbD (k - moves r d) = (r.map.getLsbD k || decide (k = d)) := by
  have shifted : (recvSet r d).map = (r.map ||| (1#4096 <<< d)) >>> moves r d := rfl
  rw [shifted, BitVec.getLsbD_ushiftRight, Nat.add_sub_cancel' h, setBit_getLsbD _ _ _ hk]

theorem dupTaken_lard (s : State) (port : Nat) (p : Packet) (h : p.hdr.typ.toNat = tWRITE) : (dupTaken s port p).lard = s.lard := by
  obtain ⟨f, q, acked⟩ := ackNow_frame (recvNote s port p.hdr) p.hdr.src.toNat
  unfold dupTaken
  rw [h, if_neg (by decide), acked]
  rfl

/-- Settles O40: the window's base passes exactly the run of received numbers, and takeLocal reads the window before anything is placed. -/
theorem receiveWindowAcceptsOnce : Obligations.ReceiveWindowAcceptsOnce := by
  unfold Obligations.ReceiveWindowAcceptsOnce
  refine ⟨fun r d hd hr => ?_, fun r d hd hr => ?_, fun r d k hd hk hr set => ?_, fun s w write inside dup => ⟨?_, ?_⟩, fun s w write inside fresh => ?_⟩
  · simp only [recvSet_moved r d hr]
    refine ⟨moves_le r d, ?_⟩
    rcases Nat.lt_or_ge d (moves r d) with passed | behind
    · exact Or.inl passed
    · exact Or.inr ⟨behind, by simp [recvSet_getLsbD r d d hd behind]⟩
  · simp only [recvSet_moved r d hr]
    exact moves_passed r d
  · simp only [recvSet_moved r d hr]
    rcases Nat.lt_or_ge k (moves r d) with passed | behind
    · exact Or.inl passed
    · exact Or.inr (by simp [recvSet_getLsbD r d k hk behind, set])
  · simp [takeLocal, write, inside, dup, tWRITE, tACK, tNACK]
  · exact dupTaken_lard s w.port w.pkt write
  · simp only [takeLocal, write, inside, fresh, tWRITE, tACK, tNACK, tCONTRIB, tCALL, tREADRSP, tATOMICRSP]
    rfl

end Sys2Proof.Machine

/-! PROOFS. Commands that a common check refuses (14 R358), and what completing a command does to the Lonus port (14 R353 to R355). -/

namespace Sys2Proof.Machine

/-- Every Lonus command is a `lonusCmd` of its tag and opcode. -/
theorem exec_eq_lonusCmd {c : Instr} {tag op : Nat} (h : lonusOf c = some (tag, op)) (s : State) :
    ∃ args body, exec c s = lonusCmd tag op args s body := by
  cases c <;> cases h <;> exact ⟨_, _, rfl⟩

/-- The session that a completed command belongs to: the open one where no frame brought the command (log 12). -/
def cmdSession (s : State) (tag : Nat) : Nat :=
  match cmdOf s tag with
  | some c => c.session
  | none => s.lonus.session

/-- The Lonus port without the command of a tag. -/
def cmdDropped (s : State) (tag : Nat) : Lonus :=
  match cmdOf s tag with
  | some c => { s.lonus with outstanding := s.lonus.outstanding.erase c }
  | none => s.lonus

/-- The response that completing a command forms (14 R353). -/
def responseOf (s : State) (tag op : Nat) (r : Reply) : Response :=
  { tag := tag, op := op, status := statusCode r.1, payload := r.2.1, bulk := r.2.2, axle := s.axle.value }

/-- The Lonus port with a response queued and kept. -/
def responseQueued (l : Lonus) (x : Response) : Lonus :=
  { l with kept := keepResponse l x, respQ := l.respQ ++ [x], bulkQ := if x.bulk.isEmpty then l.bulkQ else l.bulkQ ++ [(x.tag, x.op, 0, x.bulk)] }

theorem complete_lonus (s : State) (tag op : Nat) (r : Reply) : (complete s tag op r).lonus =
    if s.lonus.opened = true ∧ cmdSession s tag = s.lonus.session ∨ op = 0x0240 then responseQueued (cmdDropped s tag) (responseOf s tag op r)
    else cmdDropped s tag := by
  unfold complete completeAs cmdSession cmdDropped
  have staged : ∀ c : Prop, [Decidable c] → (if c then stageAbort s else s).lonus = s.lonus ∧ (if c then stageAbort s else s).axle = s.axle :=
    fun c _ => by split <;> exact ⟨rfl, rfl⟩
  obtain ⟨lonus, axle⟩ := staged (op = 0x0A01 ∧ r.1 ≠ .ok)
  generalize (if op = 0x0A01 ∧ r.1 ≠ .ok then stageAbort s else s) = u at lonus axle
  rcases cmdOf s tag with _ | c <;>
  · simp only [updLonus, lonus]
    split
    · simp [queueResponse, responseQueued, responseOf, updLonus, axle]
    · simp

theorem mem_keepResponse (l : Lonus) (x : Response) : x ∈ keepResponse l x := by
  unfold keepResponse
  dsimp only
  rw [List.drop_append_of_le_length (by simp)]
  exact List.mem_append_right _ List.mem_cons_self

@[simp] theorem responseQueued_respQ (l : Lonus) (x : Response) : (responseQueued l x).respQ = l.respQ ++ [x] := by simp only [responseQueued]
@[simp] theorem responseQueued_kept (l : Lonus) (x : Response) : (responseQueued l x).kept = keepResponse l x := by simp only [responseQueued]
@[simp] theorem responseQueued_outstanding (l : Lonus) (x : Response) : (responseQueued l x).outstanding = l.outstanding := by simp only [responseQueued]

@[simp] theorem cmdDropped_respQ (s : State) (tag : Nat) : (cmdDropped s tag).respQ = s.lonus.respQ := by
  unfold cmdDropped
  split <;> rfl

@[simp] theorem cmdDropped_kept (s : State) (tag : Nat) : (cmdDropped s tag).kept = s.lonus.kept := by
  unfold cmdDropped
  split <;> rfl

theorem precheck_of_row {s : State} {op m : Nat} {p o : Bool} (row : cmdRow op = some (m, p, o)) : precheck s op =
    if s.mod.bootRom = true ∧ op ∉ bootCmds then some .denied
    else if s.lonus.orphan = true ∧ ¬ o = true then some .denied
    else if ¬ bit m (stateCode s.mod.st) = true then some (if op = 0x0210 then .busyState else .badState)
    else if p = true ∧ ¬ s.mgmt.opened = true then some .noPresence
    else if p = true ∧ (s.mgmt.sealA = true ∨ s.mgmt.sealB = true) then some .sealOpen
    else none := by
  rw [precheck, row]

/-- Settles O54: a row is `lonusCmd` of its opcode, which the common checks decide before the body, and completing queues one response at most. -/
theorem refusedCommandsAnswerAStatusAlone : Obligations.RefusedCommandsAnswerAStatusAlone := by
  unfold Obligations.RefusedCommandsAnswerAStatusAlone
  refine ⟨fun c s tag op st is on turn failed => ?refused, fun c s tag op is waits => ?waits, fun s op boot other known => ?boot,
    fun s op m p row orphan => ?orphan, fun s op m o row boot orphan state closed => ?presence, fun s tag op r opened own => ?queued,
    fun s tag op r c found other op240 => ?otherSession, fun s tag r => ?sessionOpen, fun s tag op r c found => ?leaves,
    fun s tag op r closed op240 => ?noSession⟩
  case refused =>
    obtain ⟨args, body, row⟩ := exec_eq_lonusCmd is s
    rw [row, lonusCmd_refused on turn failed]
    rfl
  case waits =>
    obtain ⟨args, body, row⟩ := exec_eq_lonusCmd is s
    rw [row, lonusCmd_waits waits]
  case boot =>
    obtain ⟨⟨m, p, o⟩, row⟩ := Option.ne_none_iff_exists'.mp known
    rw [precheck_of_row row, if_pos ⟨boot, other⟩]
  case orphan =>
    rw [precheck_of_row row]
    simp [orphan]
  case presence => simp [precheck_of_row row, boot, orphan, state, closed]
  case queued =>
    have session : cmdSession s tag = s.lonus.session := by
      unfold cmdSession
      rcases own with none | ⟨c, found, session⟩
      · rw [none]
      · rw [found]; exact session
    rw [complete_lonus, if_pos (Or.inl ⟨opened, session⟩)]
    simp only [responseQueued_respQ, responseQueued_kept, cmdDropped_respQ]
    exact ⟨rfl, mem_keepResponse _ (responseOf s tag op r)⟩
  case otherSession =>
    have session : cmdSession s tag ≠ s.lonus.session := by rw [cmdSession, found]; exact other
    simp [complete_lonus, session, op240]
  case sessionOpen =>
    rw [complete_lonus, if_pos (Or.inr (Eq.refl 0x0240))]
    exact ⟨responseOf s tag 0x0240 r, by simp, rfl, rfl⟩
  case leaves =>
    have dropped : (cmdDropped s tag).outstanding = s.lonus.outstanding.erase c := by rw [cmdDropped, found]
    rw [complete_lonus]
    split
    · exact (responseQueued_outstanding _ _).trans dropped
    · exact dropped
  case noSession => simp [complete_lonus, closed, op240]

end Sys2Proof.Machine

/-! PROOFS. Harness commands (06 R143, R144): the checks of the model's body are those of the statement, one by one. -/

namespace Sys2Proof.Machine

theorem harnOf_freeHarness (s : State) (h k : Nat) : harnOf (freeHarness s h) k =
    if k = h then { harnOf s h with loaded := false, formed := [] } else harnOf s k := by
  have frame : (clearColl s fun k => decide (k = h)).harn = s.harn := rfl
  unfold freeHarness updHarn harnOf
  rw [Tab.get_upd, frame]

/-- Settles O26: the checks decide in 06 R143's order. -/
theorem harnessCommandsTakeEffect : Obligations.HarnessCommandsTakeEffect := by
  unfold Obligations.HarnessCommandsTakeEffect
  refine ⟨fun s tag h runs => ?loads, fun s tag h runs => ?unloads, fun s h => ?freed⟩
  case loads =>
    rw [exec, execHarnessLoad, lonusCmd_ends runs, harnessLoad]
    simp only [ends_ite, ends_fail, ends_answer]
    have ranges : (¬ (harnRanges s h && membersOk s h && harnShape s h) = true) ↔
        harnRanges s h = false ∨ membersOk s h = false ∨ harnShape s h = false := by
      simp only [Bool.and_eq_true, not_and_or, Bool.not_eq_true, or_assoc]
    have up : (¬ (accelMembers s h).all (fun e => memberUp s e.2) = true) ↔ ∃ e ∈ accelMembers s h, memberUp s e.2 = false := by
      simp
    exact congrArg _ (if_congr Iff.rfl rfl (if_congr Iff.rfl rfl (if_congr ranges rfl (if_congr up rfl rfl))))
  case unloads =>
    rw [exec, execHarnessUnload, lonusCmd_ends runs, harnessUnload]
    simp only [ends_ite, ends_fail, ends_answer]
    exact congrArg _ (if_congr Iff.rfl rfl (if_congr (by simp) rfl rfl))
  case freed =>
    refine ⟨?_, ?_, fun k other => ?_⟩
    · simp [harnOf_freeHarness]
    · simp [harnOf_freeHarness]
    · simp [harnOf_freeHarness, other]

end Sys2Proof.Machine

/-! PROOFS. The table commands (05 R122 to R130): which words of a version a clear and a copy leave, and what a flip, a seal and the slow drain
answer. -/

namespace Sys2Proof.Machine

section
variable {α : Type} [DecidableEq α]

/-- An entry of a canonical table is what its key reads as. -/
theorem Tab.get_of_mem {d : α} {t : Tab α} (wf : Tab.wf d t = true) {e : Nat × α} (mem : e ∈ t) : Tab.get d t e.1 = e.2 := by
  induction t with
  | nil => cases mem
  | cons x t ih =>
    obtain ⟨rising, listed⟩ := (Tab.wf_iff d _).mp wf
    obtain ⟨first, rest⟩ := List.pairwise_cons.mp rising
    rcases List.mem_cons.mp mem with rfl | mem
    · simp [Tab.get]
    · rw [Tab.get, if_neg (first e mem).ne]
      exact ih ((Tab.wf_iff d t).mpr ⟨rest, fun y hy => listed y (List.mem_cons_of_mem _ hy)⟩) mem

omit [DecidableEq α] in
theorem Tab.get_filter_key (d : α) (t : Tab α) (p : Nat → Bool) (k : Nat) :
    Tab.get d (t.filter fun e => p e.1) k = if p k = true then Tab.get d t k else d := by
  induction t with
  | nil => simp [Tab.get]
  | cons x t ih =>
    obtain ⟨j, v⟩ := x
    by_cases hj : j = k
    · subst hj
      cases hp : p j <;> simp_all [Tab.get]
    · cases hp : p j <;> simp_all [Tab.get]

/-- Entries written one after another under other keys leave a key alone. -/
theorem Tab.get_foldl_set_ne (d : α) (f : Nat → Nat) (l : List (Nat × α)) (t : Tab α) (k : Nat) (other : ∀ e ∈ l, f e.1 ≠ k) :
    Tab.get d (l.foldl (fun r e => Tab.set d r (f e.1) e.2) t) k = Tab.get d t k := by
  induction l generalizing t with
  | nil => rfl
  | cons e l ih =>
    rw [List.foldl_cons, ih _ fun x hx => other x (List.mem_cons_of_mem _ hx), Tab.get_set_ne _ _ _ (other e List.mem_cons_self).symm]

/-- Entries written under keys that keep them apart are read back. -/
theorem Tab.get_foldl_set (d : α) (f : Nat → Nat) (l : List (Nat × α)) (t : Tab α) (apart : l.Pairwise fun x y => f x.1 ≠ f y.1) (e : Nat × α)
    (mem : e ∈ l) : Tab.get d (l.foldl (fun r e => Tab.set d r (f e.1) e.2) t) (f e.1) = e.2 := by
  induction l generalizing t with
  | nil => cases mem
  | cons x l ih =>
    obtain ⟨first, rest⟩ := List.pairwise_cons.mp apart
    rw [List.foldl_cons]
    rcases List.mem_cons.mp mem with rfl | mem
    · rw [Tab.get_foldl_set_ne _ _ _ _ _ fun y hy => (first y hy).symm, Tab.get_set_self]
    · exact ih _ rest mem
end

theorem inTable_iff (v a : Nat) : inTable v a = true ↔
    (0x50004000 + 0x400 * v ≤ a ∧ a < 0x50004400 + 0x400 * v) ∨ (0x50040000 + 0x20000 * v ≤ a ∧ a < 0x50060000 + 0x20000 * v) := by
  rw [inTable, decide_eq_true_iff, coordAddr, coordAddr, maskAddr, maskAddr]
  constructor <;> intro h <;> omega

theorem otherTable_eq (v a : Nat) : otherTable v a = if a < 0x50004400 + 0x400 * v then a - (0x50004000 + 0x400 * v) + (0x50004000 + 0x400 * (1 - v))
    else a - (0x50040000 + 0x20000 * v) + (0x50040000 + 0x20000 * (1 - v)) := by
  simp only [otherTable, coordAddr, maskAddr, Nat.mul_zero, Nat.add_zero]
  exact if_congr (by omega) rfl rfl

theorem inTable_otherTable {v a : Nat} (hv : v < 2) (h : inTable v a = true) : inTable (1 - v) (otherTable v a) = true := by
  rw [inTable_iff] at h ⊢
  rw [otherTable_eq]
  split <;> omega

theorem otherTable_inj {v a b : Nat} (hv : v < 2) (ha : inTable v a = true) (hb : inTable v b = true) (h : otherTable v a = otherTable v b) :
    a = b := by
  rw [inTable_iff] at ha hb
  simp only [otherTable_eq] at h
  split at h <;> split at h <;> omega

theorem get_wipeTable (s : State) (v a : Nat) : Tab.get none (wipeTable s v).regs a = if inTable v a = true then none else Tab.get none s.regs a := by
  have kept := Tab.get_filter_key none s.regs (fun k => !inTable v k) a
  unfold wipeTable
  rw [kept]
  cases inTable v a <;> rfl

theorem regAt_wipeTable (s : State) (v a : Nat) (h : inTable v a = true) : regAt (wipeTable s v) a 0 = 0 := by
  simp [regAt, get_wipeTable, h]

/-- The words that a copy writes, keyed by the address that they come from. -/
def copied (s : State) (v : Nat) : List (Nat × Option Word) := s.regs.filter fun e => inTable v e.1

theorem copyTable_regs (s : State) (v : Nat) :
    (copyTable s v).regs = (copied s v).foldl (fun r e => Tab.set none r (otherTable v e.1) e.2) (wipeTable s (1 - v)).regs := rfl

theorem inTable_of_copied {s : State} {v : Nat} {e : Nat × Option Word} (h : e ∈ copied s v) : inTable v e.1 = true := (List.mem_filter.mp h).2

theorem copied_apart (s : State) (v : Nat) (hv : v < 2) (wf : Tab.wf none s.regs = true) :
    (copied s v).Pairwise fun x y => otherTable v x.1 ≠ otherTable v y.1 := by
  have rising := ((Tab.wf_iff none _).mp (Tab.wf_filter wf fun e => inTable v e.1)).1
  refine List.Pairwise.imp_of_mem (fun hx hy less same => ?_) rising
  exact less.ne (otherTable_inj hv (inTable_of_copied hx) (inTable_of_copied hy) same)

theorem regAt_copyTable_outside (s : State) (v a d : Nat) (hv : v < 2) (h : inTable (1 - v) a = false) :
    regAt (copyTable s v) a d = regAt s a d := by
  have others : ∀ e ∈ copied s v, otherTable v e.1 ≠ a := fun e he same => by
    rw [← same, inTable_otherTable hv (inTable_of_copied he)] at h
    cases h
  unfold regAt
  rw [copyTable_regs, Tab.get_foldl_set_ne _ _ _ _ _ others, get_wipeTable, h]
  rfl

theorem regAt_copyTable (s : State) (v a : Nat) (hv : v < 2) (wf : Tab.wf none s.regs = true) (h : inTable v a = true) :
    regAt (copyTable s v) (otherTable v a) 0 = regAt s a 0 := by
  unfold regAt
  rw [copyTable_regs]
  rcases Tab.get_mem none s.regs a with absent | listed
  · have others : ∀ e ∈ copied s v, otherTable v e.1 ≠ otherTable v a := fun e he same => by
      obtain ⟨mem, inside⟩ := List.mem_filter.mp he
      have key : e.1 = a := otherTable_inj hv inside h same
      have stored : e.2 = none := by rw [← Tab.get_of_mem wf mem, key, absent]
      exact ((Tab.wf_iff none _).mp wf).2 e mem stored
    rw [Tab.get_foldl_set_ne _ _ _ _ _ others, get_wipeTable, inTable_otherTable hv h, absent]
    rfl
  · have mem : (a, Tab.get none s.regs a) ∈ copied s v := List.mem_filter.mpr ⟨listed, h⟩
    rw [Tab.get_foldl_set none (otherTable v) _ _ (copied_apart s v hv wf) _ mem]

theorem flipTo_eq (s : State) (v : Nat) (hv : v < 2) : flipTo s v =
    if s.mod.st = .setup then { s with epoch := { s.epoch with active := decide (v = 1), loaded := true } }
    else { s with epoch := { s.epoch with active := decide (v = 1), sealed := false, verA := if v = 0 then .active else .draining,
                                          verB := if v = 0 then .draining else .active } } := by
  have cases : v = 0 ∨ v = 1 := by omega
  rcases cases with rfl | rfl <;> simp [flipTo, setVer]

theorem drainSlow_eq (s : State) : drainSlow s = (if s.epoch.sealed = true ∧ s.epoch.slow = false then
    let u := elapse s (s.epoch.sealedAt + 10000000 - s.now)
    emit { u with epoch := { u.epoch with slow := true } } evDrainSlow [inFlight u (decide (s.epoch.verB = .draining))]
    else s) := by
  have waited : waitUntil s (s.epoch.sealedAt + 10000000) = elapse s (s.epoch.sealedAt + 10000000 - s.now) := rfl
  have same : (elapse s (s.epoch.sealedAt + 10000000 - s.now)).epoch.verB = s.epoch.verB := by rw [elapse_epoch]
  unfold drainSlow
  rw [waited]
  generalize elapse s (s.epoch.sealedAt + 10000000 - s.now) = u at same
  rw [← same]
  exact if_congr (by simp) rfl rfl

/-- Settles O25: a flip's checks decide in order, and clear and copy are known word by word. -/
theorem tableRowsTakeEffect : Obligations.TableRowsTakeEffect := by
  unfold Obligations.TableRowsTakeEffect
  refine ⟨fun s tag v agree runs => ?flips, fun s tag runs => ?seals, fun s tag runs => ?copies, fun s tag v runs => ?clears, regAt_wipeTable,
    fun s v a hv wf h => ⟨inTable_otherTable hv h, regAt_copyTable s v a hv wf h⟩, fun s v a d hv h => regAt_copyTable_outside s v a d hv h,
    fun s => ?slow⟩
  case flips =>
    rw [exec, execTableFlip, lonusCmd_ends runs, tableFlip]
    simp only [ends_ite, ends_fail]
    by_cases hv : 2 ≤ v
    · simp only [hv, if_true]
    · rw [flipTo_eq s v (by omega)]
      rcases tableFault s v with _ | ⟨t, i⟩
      · cases agree <;> rfl
      · rfl
  case seals =>
    rw [exec, execTableSeal, lonusCmd_ends runs, tableSeal]
    simp only [ends_ite, ends_fail, ends_answer]
    exact congrArg _ (if_congr (by simp [verOf]) rfl rfl)
  case copies =>
    rw [exec, execTableCopy, lonusCmd_ends runs, tableCopy]
    simp only [ends_ite, ends_fail, ends_answer]
  case clears =>
    rw [exec, execTableClear, lonusCmd_ends runs, tableClear]
    simp only [ends_ite, ends_fail, ends_answer]
    rfl
  case slow =>
    rw [exec, execTableDrainSlow, done_eq, drainSlow_eq]

end Sys2Proof.Machine

/-! PROOFS. Job blocks: the commands' checks (02 R42, 11 R272), and that loaded blocks stay apart. -/

namespace Sys2Proof.Machine

theorem lineFill_blocks (s : State) (p : Nat) : (lineFill s p).blocks = s.blocks := by
  unfold lineFill
  split <;> rfl

theorem updTx_blocks (s : State) (p : Nat) (f : LinePar → TxLine → TxLine) : (updTx s p f).blocks = s.blocks := rfl

theorem wakeLine_blocks (s : State) (p : Nat) : (wakeLine s p).blocks = s.blocks := by
  unfold wakeLine
  split
  · extract_lets u
    have same : u.blocks = s.blocks := (updTx_blocks ..).trans (lineFill_blocks s p)
    clear_value u
    exact same
  · rfl

theorem wakeLines_blocks (l : List Nat) (s : State) : (l.foldl wakeLine s).blocks = s.blocks := by
  induction l generalizing s with
  | nil => rfl
  | cons p l ih => exact (ih _).trans (wakeLine_blocks s p)

theorem blockOf_updBlock (s : State) (b k : Nat) (f : Block → Block) :
    blockOf (updBlock s b f) k = if k = b then f (blockOf s b) else blockOf s k := by
  unfold blockOf updBlock
  exact Tab.get_upd ..

theorem clearPairs_blocks (s : State) (b : Nat) (mem : List Nat) : (clearPairs s b mem).blocks = s.blocks := rfl

theorem blockOf_loadBlock (s : State) (b k : Nat) (x : Block) : blockOf (loadBlock s b x) k = if k = b then x else blockOf s k := by
  unfold loadBlock
  extract_lets mem ports s1 s2
  have woken : s1.blocks = s.blocks := wakeLines_blocks ports s
  have kept : s2.blocks = s1.blocks := by simp only [s2, clearPairs_blocks]
  clear_value s2 s1
  rw [blockOf_updBlock, blockOf, blockOf, kept, woken]

theorem blockOf_activate (s : State) (b k : Nat) :
    blockOf (activate s b) k = if k = b then { blockOf s b with st := .active, pause := false } else blockOf s k := by
  have same : blockOf (activate s b) k = blockOf (updBlock s b fun x => { x with st := .active, pause := false }) k := by
    unfold activate
    dsimp only
    split <;> rfl
  rw [same, blockOf_updBlock]

theorem activate_mod_st (s : State) (b : Nat) : (activate s b).mod.st = if s.mod.st = .ready then .run else s.mod.st := by
  unfold activate
  dsimp only
  split <;> simp_all

theorem slotsMeet_iff (s : State) (b : Block) : slotsMeet s b = true ↔ ∃ k ∈ loadedBlocks s, ∃ n, b.slotBase ≤ n ∧ n < b.slotBase + b.slotCnt ∧
    (blockOf s k).slotBase ≤ n ∧ n < (blockOf s k).slotBase + (blockOf s k).slotCnt := by
  have common : ∀ x y m n : Nat, max x y < min m n ↔ ∃ k, x ≤ k ∧ k < m ∧ y ≤ k ∧ k < n := fun x y m n =>
    ⟨fun h => ⟨max x y, by omega⟩, fun ⟨k, h⟩ => by omega⟩
  simp only [slotsMeet, List.any_eq_true, decide_eq_true_eq, common]

/-- An accelerator that a loaded block's box holds is a member of some loaded block. -/
theorem blockOfEpa_isSome {s : State} {c e : Nat} (loaded : (blockOf s c).st ≠ .unloaded) (accel : isAccel e = true)
    (inside : inBox (blockOf s c) e = true) : (blockOfEpa s e).isSome = true := by
  rw [blockOfEpa, if_pos accel, List.find?_isSome]
  exact ⟨c, mem_loadedBlocks s c loaded, inside⟩

/-- A block whose box and count slots meet no loaded block's is apart from each of them. -/
theorem apart_of_not_meets {s : State} {x : Block} {c : Nat} (box : boxMeets s x = false) (slots : slotsMeet s x = false)
    (loaded : (blockOf s c).st ≠ .unloaded) :
    (∀ e, e < 128 → ¬ (inBox x e = true ∧ inBox (blockOf s c) e = true)) ∧
      ∀ k, ¬ (x.slotBase ≤ k ∧ k < x.slotBase + x.slotCnt ∧ slotInBlock s c k = true) := by
  refine ⟨fun e small ⟨mine, other⟩ => ?_, fun k ⟨low, high, other⟩ => ?_⟩
  · have meets : boxMeets s x = true := List.any_eq_true.mpr ⟨e, List.mem_filter.mpr ⟨List.mem_range.mpr small, mine⟩,
      blockOfEpa_isSome loaded (by simpa [isAccel] using small) other⟩
    exact absurd (meets.symm.trans box) (by decide)
  · have inside := of_decide_eq_true other
    have meets := (slotsMeet_iff s x).mpr ⟨c, mem_loadedBlocks s c loaded, k, low, high, inside.1, inside.2⟩
    exact absurd (meets.symm.trans slots) (by decide)

theorem blocksApart_loadBlock {s : State} {b : Nat} {x : Block} (apart : BlocksApart s) (box : boxMeets s x = false)
    (slots : slotsMeet s x = false) : BlocksApart (loadBlock s b x) := by
  intro a c ha hc ne la lc
  simp only [slotInBlock, blockOf_loadBlock] at la lc ⊢
  by_cases hab : a = b
  · have hcb : c ≠ b := fun h => ne (hab.trans h.symm)
    simp only [hab, hcb, if_true, if_false] at lc ⊢
    obtain ⟨boxes, ranges⟩ := apart_of_not_meets box slots lc
    exact ⟨boxes, fun k ⟨mine, other⟩ => ranges k ⟨(of_decide_eq_true mine).1, (of_decide_eq_true mine).2, other⟩⟩
  · by_cases hcb : c = b
    · simp only [hcb, hab, if_true, if_false] at la ⊢
      obtain ⟨boxes, ranges⟩ := apart_of_not_meets box slots la
      exact ⟨fun e he ⟨mine, other⟩ => boxes e he ⟨other, mine⟩,
        fun k ⟨mine, other⟩ => ranges k ⟨(of_decide_eq_true other).1, (of_decide_eq_true other).2, mine⟩⟩
    · simp only [hab, hcb, if_false] at la lc ⊢
      exact apart a c ha hc ne la lc

/-- An activation changes no box and no range of count slots. -/
theorem blocksApart_activate {s : State} {b : Nat} (apart : BlocksApart s) (loaded : (blockOf s b).st ≠ .unloaded) : BlocksApart (activate s b) := by
  have same : ∀ k, (∀ e, inBox (blockOf (activate s b) k) e = inBox (blockOf s k) e) ∧ (∀ n, slotInBlock (activate s b) k n = slotInBlock s k n) ∧
      ((blockOf (activate s b) k).st ≠ .unloaded → (blockOf s k).st ≠ .unloaded) := fun k => by
    simp only [slotInBlock, blockOf_activate]
    split
    · next h => subst h; exact ⟨fun e => rfl, fun n => rfl, fun _ => loaded⟩
    · exact ⟨fun e => rfl, fun n => rfl, id⟩
  intro a c ha hc ne la lc
  obtain ⟨boxA, slotA, stA⟩ := same a
  obtain ⟨boxC, slotC, stC⟩ := same c
  simp only [boxA, boxC, slotA, slotC]
  exact apart a c ha hc ne (stA la) (stC lc)

/-- What an unload leaves of its block: the counters that are cleared at load. -/
theorem blockOf_unloadBlock (s : State) (b : Nat) : ∃ r c k, blockOf (unloadBlock s b) b = { refuse := r, choice := c, skew := k } := by
  unfold unloadBlock
  extract_lets mem s1 s2 s3 s4
  refine ⟨(blockOf s4 b).refuse, (blockOf s4 b).choice, (blockOf s4 b).skew, ?_⟩
  have settled : ∀ t : State, blockOf (settle (winRelease t b)) b = blockOf t b := fun t => by
    unfold blockOf
    rw [settle_blocks, winRelease_blocks]
  rw [settled, blockOf_updBlock, if_pos rfl]

theorem not_isLoaded_iff (s : State) (b : Nat) : ¬ isLoaded s b = true ↔ (blockOf s b).st = .unloaded := by simp [isLoaded]

theorem ends_toActive (s : State) (tag op b : Nat) (st : BlockState) : ends s tag op (toActive st b s) =
    if s.mod.trans ≠ none then answered s s tag op (rep .badState)
    else if (blockOf s b).st = .unloaded then answered s s tag op (rep .notFound)
    else if (blockOf s b).st = st ∧ 900 ≤ (capNow s).1 then answered s (activate s b) tag op (rep .ok)
    else answered s s tag op (rep .badState) := by
  have ready : ((blockOf s b).st ≠ st ∨ (capNow s).1 < 900) ↔ ¬ ((blockOf s b).st = st ∧ 900 ≤ (capNow s).1) := by
    rw [not_and_or, not_le]
  unfold toActive
  simp only [ends_ite, ends_fail, ends_answer]
  exact if_congr Option.isSome_iff_ne_none rfl (if_congr (not_isLoaded_iff s b) rfl ((if_congr ready rfl rfl).trans (ite_not ..)))

/-- Settles O20: each command's checks decide in order, and the blocks' own lemmas say what it leaves. -/
theorem jobCommandsTakeEffect : Obligations.JobCommandsTakeEffect := by
  unfold Obligations.JobCommandsTakeEffect
  refine ⟨fun s tag p runs => ?load, fun s b x => ⟨by simp [blockOf_loadBlock], fun k other => by simp [blockOf_loadBlock, other]⟩,
    fun s p apart _ _ box slots => blocksApart_loadBlock apart box slots, fun s b => blocksApart_activate, slotsMeet_iff,
    fun s tag b runs => ?activate, fun s tag b runs => ?resume, fun s b => ?active, fun s tag b runs => ?pause, fun s tag b runs => ?unload,
    blockOf_unloadBlock, fun s tag b v runs => ?close⟩
  case load =>
    rw [exec, execJobLoad, lonusCmd_ends runs, jobLoad]
    simp only [ends_ite, ends_fail, ends_answer]
    exact congrArg _ (if_congr (by simp) rfl (if_congr (by simp [isLoaded]) rfl (if_congr Iff.rfl rfl (if_congr (by simp) rfl rfl))))
  case activate => rw [exec, execJobActivate, lonusCmd_ends runs, ends_toActive]
  case resume => rw [exec, execJobResume, lonusCmd_ends runs, ends_toActive]
  case active =>
    refine ⟨by simp [blockOf_activate], by simp [blockOf_activate], fun k other => by simp [blockOf_activate, other], activate_mod_st s b⟩
  case pause =>
    rw [exec, execJobPause, lonusCmd_ends runs, jobPause]
    simp only [ends_ite, ends_fail, ends_answer]
    exact congrArg _ (if_congr (not_isLoaded_iff s b) rfl (ite_not ..))
  case unload =>
    rw [exec, execJobUnload, lonusCmd_ends runs, jobUnload]
    simp only [ends_ite, ends_fail, ends_answer]
    exact congrArg _ (if_congr (not_isLoaded_iff s b) rfl rfl)
  case close =>
    rw [exec, execJobStepClose, lonusCmd_ends runs, jobStepClose]
    simp only [ends_ite, ends_fail, ends_answer]
    exact congrArg _ (if_congr Iff.rfl rfl (if_congr (not_isLoaded_iff s b) rfl rfl))

end Sys2Proof.Machine

/-! PROOFS. Rings (11 R283, R289, 17 R434): taking one, ending one, and the commands on them. -/

namespace Sys2Proof.Machine

/-- A ring that is taken is the lowest free one, in a free range of the rings region. -/
theorem takeRing_spec {s u : State} {m k : Nat} {r : Ring} (taken : takeRing s m true r = some (k, u)) :
    k < 16 ∧ (ringOf s k).st = 0 ∧ (∀ j, j < k → (ringOf s j).st ≠ 0) ∧
      ∃ a, ringAlloc s m = some a ∧ ringOf u k = { r with mib := m, base := a } ∧ u.lard.rings = s.lard.rings ++ [(k, a, m * mib)] := by
  unfold takeRing at taken
  split at taken
  · next j a free range =>
    cases taken
    obtain ⟨is, mem, lower⟩ := List.find?_range_eq_some.mp free
    refine ⟨List.mem_range.mp mem, of_decide_eq_true is, fun i less => by simpa using lower i less, a, range, ?_, rfl⟩
    simp
  · cases taken

theorem ringOf_ringEnd (s : State) (k : Nat) : ringOf (ringEnd s k) k = { ringOf s k with st := 2, complete := true, waitStep := none } := by
  simp [ringEnd]

theorem ends_ringStop (s : State) (tag op k : Nat) (capture : Bool) : ends s tag op (ringStop capture k s) =
    if 16 ≤ k ∨ (ringOf s k).st = 0 ∨ (ringOf s k).capture = !capture then answered s s tag op (rep .badParam)
    else answered s (if (ringOf s k).st = 1 then ringEnd s k else s) tag op (rep .ok) := by
  unfold ringStop
  simp only [ends_ite, ends_fail, ends_answer]
  exact if_congr (by simp [Bool.eq_not]) rfl rfl

/-- Settles O23: the commands' checks in order, and what taking and ending a ring leave. -/
theorem recordRowsTakeEffect : Obligations.RecordRowsTakeEffect := by
  unfold Obligations.RecordRowsTakeEffect
  refine ⟨fun s tag m port runs => ?captureStart, fun s tag p runs => ?recordStart, fun s m r k u => takeRing_spec,
    fun s tag k runs => ?captureStop, fun s tag k runs => ?recordStop, ringOf_ringEnd, fun s tag k runs => ?free, fun s tag m own runs => ?load⟩
  case captureStart =>
    rw [exec, execCaptureStart, lonusCmd_ends runs, captureStart]
    simp only [ends_ite, ends_fail]
    refine congrArg _ (if_congr (by simp [portOrAll]) rfl ?_)
    generalize takeRing s m _ _ = taken
    rcases taken with _ | ⟨k, u⟩ <;> rfl
  case recordStart =>
    rw [exec, execRecordStart, lonusCmd_ends runs, recordStart]
    simp only [ends_ite, ends_fail]
    refine congrArg _ (if_congr (by simp [Option.any_eq_true]) rfl (if_congr (by simp [isLoaded]) rfl (if_congr (by simp [Option.any_eq_true]) rfl ?_)))
    cases start : p.startStep
    all_goals
      simp only [Option.getD_none, Option.getD_some, Nat.not_lt_zero, if_false]
      generalize takeRing s p.ringMib _ _ = taken
      rcases taken with _ | ⟨k, u⟩ <;> rfl
  case captureStop => rw [exec, execCaptureStop, lonusCmd_ends runs, ends_ringStop]; rfl
  case recordStop => rw [exec, execRecordStop, lonusCmd_ends runs, ends_ringStop]; rfl
  case free =>
    rw [exec, execRingFree, lonusCmd_ends runs, ringFree]
    simp only [ends_ite, ends_fail, ends_answer]
  case load =>
    rw [exec, execReplayLoad, lonusCmd_ends runs, replayLoad]
    simp only [ends_ite, ends_fail]
    refine congrArg _ (if_congr Iff.rfl rfl ?_)
    generalize takeRing s m _ _ = taken
    rcases taken with _ | ⟨k, u⟩ <;> rfl

end Sys2Proof.Machine

/-! PROOFS. Replay (11 R290, R291, R293). -/

namespace Sys2Proof.Machine

theorem ringEnd_replay (s : State) (k : Nat) : (ringEnd s k).replay = s.replay := by
  obtain ⟨rings, lard, is⟩ := ringEnd_frame s k
  rw [is]

/-- Ending a replay clears its running mark; of the replay itself nothing else changes. -/
theorem endReplay_replay (s : State) (ev : Option Nat) (items : List Nat) (running : s.replay.running = true) :
    (endReplay s ev items).replay = { s.replay with running := false } := by
  have ended : ∀ c : Prop, [Decidable c] → (if c then ringEnd s s.replay.outRing else s).replay = s.replay := fun c _ => by
    split
    · exact ringEnd_replay ..
    · rfl
  unfold endReplay
  rw [if_pos running]
  cases ev <;> exact congrArg (fun r : Replay => { r with running := false }) (ended ((ringOf s s.replay.outRing).st = 1))

/-- What a replay does with its next record, where it runs. -/
theorem replayInject_eq (s : State) (cs : List LadleCheck) (running : s.replay.running = true) : replayInject s cs =
    match replayNext s with
    | .inject x => match badIn s ((ringOf s s.replay.inRing).base + x.pos) x.size with
      | some a => endReplay (ueFail s a 0xFFFF) none []
      | none =>
        let u := replayDue s x
        let u := { u with replay := { u.replay with pos := x.pos + x.size, nextSeq := x.seq + 1 } }
        replaySettle (if dpRuns u && decide ((portOf u x.port).stage = .up)
          then process (countArrival u x.port x.packet) x.port x.packet cs else u)
    | .gap => endReplay s (some evReplayGap) []
    | .digest n => endReplay s (some evReplayDigest) [n]
    | .ended => endReplay s (some evReplayDone) [] := by
  have settled : replaySettle s = match replayNext s with
      | .inject _ => replaySeek s
      | .gap => endReplay s (some evReplayGap) []
      | .digest n => endReplay s (some evReplayDigest) [n]
      | .ended => endReplay s (some evReplayDone) [] := by
    rw [replaySettle, if_pos running] <;> rfl
  unfold replayInject
  rw [if_pos running, settled]
  cases replayNext s <;> rfl

theorem replayInject_idle (s : State) (cs : List LadleCheck) (idle : ¬ s.replay.running = true) : replayInject s cs = s := by
  unfold replayInject
  rw [if_neg idle]
  exact if_neg idle

/-- Settles O24: the checks of a start in order, and a record is injected, or the replay ends, as the record that is next says. -/
theorem replayRowsTakeEffect : Obligations.ReplayRowsTakeEffect := by
  unfold Obligations.ReplayRowsTakeEffect
  refine ⟨fun s tag k out st runs => ?start, fun s tag runs => ?stop, fun s ev l => endReplay_replay s ev l, fun s cs => ?inject⟩
  case start =>
    rw [exec, execReplayStart, lonusCmd_ends runs, replayStart]
    simp only [ends_ite, ends_fail]
    refine congrArg _ (if_congr Iff.rfl rfl (if_congr (by simp) rfl (if_congr Iff.rfl rfl (if_congr Iff.rfl rfl ?_))))
    generalize takeRing s out _ _ = taken
    rcases taken with _ | ⟨o, u⟩ <;> rfl
  case stop =>
    rw [exec, execReplayStop, lonusCmd_ends runs]
    simp only [ends_ite, ends_fail, ends_answer]
  case inject =>
    rw [exec, execReplayInject, done_eq]
    by_cases running : s.replay.running = true
    · rw [if_pos running, replayInject_eq s cs running] <;> rfl
    · rw [if_neg running, replayInject_idle s cs running]

end Sys2Proof.Machine

/-! PROOFS. Reads of registers, of the larder and of rings (14 R362, 10 R262, 17 R434). -/

namespace Sys2Proof.Machine

theorem eccRead_of_sound (s : State) (a n b : Nat) (sound : badIn s a n = none) :
    eccRead s a n b .ok = (some ((List.range n).map fun i => Mem.byte s.lard.mem (a + i)), s) := by
  unfold eccRead
  rw [sound]
  rfl

theorem ringDump_of_range {s : State} {c : Bool} {k off n : Nat} (ecc : Ecc) (hk : k < 16) (hoff : off % 32 = 0) (hn : n % 32 = 0) (low : 32 ≤ n)
    (high : n ≤ 64 * mib) (st : (ringOf s k).st = 2 ∨ (ringOf s k).st = 3) (kind : (ringOf s k).capture = c)
    (inside : off + n ≤ (ringOf s k).mib * mib) : ringDump c k off n ecc s =
      match eccRead s ((ringOf s k).base + off) n 0xFFFF ecc with
      | (some b, s) => answer s (okBulk b)
      | (none, s) => fail s .faulted := by
  have range : ¬ (16 ≤ k ∨ off % 32 ≠ 0 ∨ n % 32 ≠ 0 ∨ ¬ within 32 n (64 * mib) = true) := by
    simp [within, hoff, hn, low, high, hk]
  have found : ¬ ((ringOf s k).st = 0 ∨ (ringOf s k).capture ≠ c) := by
    rcases st with st | st <;> simp [st, kind]
  have fits : ¬ ((ringOf s k).mib * mib ≤ off ∨ (ringOf s k).mib * mib < off + n) := by omega
  have ended : ¬ (ringOf s k).st = 1 := by omega
  unfold ringDump
  dsimp only
  rw [if_neg range, if_neg found, if_neg fits, if_neg ended] <;> rfl

/-- Settles O3: each read's operands are checked, and it answers from the registers or from the bytes that the larder holds. -/
theorem registerLarderAndRingReads : Obligations.RegisterLarderAndRingReads := by
  unfold Obligations.RegisterLarderAndRingReads
  refine ⟨fun s tag a n v runs => ?registers, fun s tag a n ecc runs => ?larder, fun s tag k off n ecc runs => ?record,
    fun s tag k off n ecc runs => ?capture, fun s c k off n ecc hk hoff hn low high st kind inside => ?dump, eccRead_of_sound⟩
  case registers =>
    have span : (¬ (!regSpanOk a n || decide (1 < v)) = true) ↔ a < 2 ^ 32 ∧ a % 4 = 0 ∧ 1 ≤ n ∧ n ≤ 256 ∧ v ≤ 1 := by
      simp only [regSpanOk, Bool.or_eq_true, Bool.not_eq_true', decide_eq_true_eq, decide_eq_false_iff_not]
      omega
    rw [exec, execRegRead, lonusCmd_ends runs]
    simp only [ends_ite, ends_fail]
    refine congrArg _ ((ite_not ..).symm.trans ((if_congr span ?_ rfl).trans (apply_ite _ _ _ _).symm))
    cases regReads s a v (List.range n) <;> rfl
  case larder =>
    have span : (¬ (n % 32 ≠ 0 ∨ ¬ within 32 n (64 * mib) = true ∨ ¬ hostSpan s a n = true)) ↔
        n % 32 = 0 ∧ 32 ≤ n ∧ n ≤ 64 * mib ∧ a + n ≤ ringsBase s := by
      simp [within, hostSpan, and_assoc]
    rw [exec, execLarderRead, lonusCmd_ends runs, larderRead]
    simp only [ends_ite, ends_fail]
    refine congrArg _ ((ite_not ..).symm.trans (if_congr span ?_ rfl))
    rcases eccRead s a n 0xFFFF ecc with ⟨_ | b, t⟩ <;> rfl
  case record => rw [exec, execRecordDump, lonusCmd_ends runs]
  case capture => rw [exec, execCaptureDump, lonusCmd_ends runs]
  case dump =>
    rw [ringDump_of_range ecc hk hoff hn low high st kind inside]
    rfl

end Sys2Proof.Machine

/-! PROOFS. Shed causes, the cap in force (16 R399 to R406) and entry to Hold (18 R449 to R451). -/

namespace Sys2Proof.Machine

/-- What `minBy` names is one of the list, and no other has a lower key. -/
theorem minBy_spec {α : Type} (key : α → Int) (l : List α) (hl : l ≠ []) :
    ∃ x, minBy key l = some x ∧ x ∈ l ∧ ∀ y ∈ l, key x ≤ key y := by
  induction l with
  | nil => exact absurd rfl hl
  | cons a l ih =>
    rcases l with _ | ⟨b, l⟩
    · exact ⟨a, rfl, List.mem_cons_self, fun y hy => by simp_all⟩
    · obtain ⟨x, is, mem, least⟩ := ih (by simp)
      rw [minBy, is]
      dsimp only
      split
      · next lower =>
        refine ⟨x, rfl, List.mem_cons_of_mem _ mem, fun y hy => ?_⟩
        rcases List.mem_cons.mp hy with rfl | hy
        · omega
        · exact least y hy
      · next lower =>
        refine ⟨a, rfl, List.mem_cons_self, fun y hy => ?_⟩
        rcases List.mem_cons.mp hy with rfl | hy
        · omega
        · have := least y hy
          omega

/-- The sources of the cap, each with its number (16 R399). -/
def capSources (s : State) : List (Nat × Nat) :=
  [(sustained s, 0)] ++ (if s.pwr.mgrCap = 0 then [] else [(s.pwr.mgrCap, 1)]) ++ (if s.pwr.trayCap = 0 then [] else [(s.pwr.trayCap, 2)]) ++
    (if s.lonus.orphan then [(s.pwr.orphanPct * sustained s / 100, 3)] else []) ++ [(min s.pwr.thermCap (sustained s), 4)]

theorem capNow_spec (s : State) : capNow s ∈ capSources s ∧ ∀ y ∈ capSources s, (capNow s).1 ≤ y.1 := by
  obtain ⟨x, is, mem, least⟩ := minBy_spec (fun x : Nat × Nat => (x.1 : Int)) (capSources s) (by simp [capSources])
  have named : capNow s = x := congrArg (Option.getD · (0, 0)) is
  rw [named]
  exact ⟨mem, fun y hy => Int.ofNat_le.mp (least y hy)⟩

theorem mem_capSources (s : State) (x : Nat × Nat) : x ∈ capSources s ↔ x = (sustained s, 0) ∨ (s.pwr.mgrCap ≠ 0 ∧ x = (s.pwr.mgrCap, 1)) ∨
    (s.pwr.trayCap ≠ 0 ∧ x = (s.pwr.trayCap, 2)) ∨ (s.lonus.orphan = true ∧ x = (s.pwr.orphanPct * sustained s / 100, 3)) ∨
    x = (min s.pwr.thermCap (sustained s), 4) := by
  have one : ∀ (c : Prop) [Decidable c] (v : Nat × Nat), (x ∈ if c then [] else [v]) ↔ ¬ c ∧ x = v := fun c _ v => by split <;> simp_all
  have two : ∀ (c : Prop) [Decidable c] (v : Nat × Nat), (x ∈ if c then [v] else []) ↔ c ∧ x = v := fun c _ v => by split <;> simp_all
  simp only [capSources, List.mem_append, List.mem_singleton, one, two, or_assoc]

theorem capNow_le (s : State) : (capNow s).1 ≤ sustained s ∧ (s.pwr.mgrCap ≠ 0 → (capNow s).1 ≤ s.pwr.mgrCap) ∧
    (s.pwr.trayCap ≠ 0 → (capNow s).1 ≤ s.pwr.trayCap) ∧ (s.lonus.orphan = true → (capNow s).1 ≤ s.pwr.orphanPct * sustained s / 100) ∧
    (capNow s).1 ≤ s.pwr.thermCap := by
  have least := (capNow_spec s).2
  simp only [mem_capSources] at least
  refine ⟨least (_, 0) (Or.inl rfl), fun h => least (_, 1) (Or.inr (Or.inl ⟨h, rfl⟩)), fun h => least (_, 2) (Or.inr (Or.inr (Or.inl ⟨h, rfl⟩))),
    fun h => least (_, 3) (Or.inr (Or.inr (Or.inr (Or.inl ⟨h, rfl⟩)))), ?_⟩
  exact (least (_, 4) (Or.inr (Or.inr (Or.inr (Or.inr rfl))))).trans (Nat.min_le_left _ _)

/-- The power state with a new cause, before the limits follow it. -/
def causeNoted (s : State) (c : Nat) : State :=
  updPwr s fun p => { p with causes := sortBy (fun a b => decide (a ≤ b)) (p.causes ++ [c]), shed := true, alert := true, burn := false }

theorem addCause_of_mem {s : State} {c : Nat} (h : c ∈ s.pwr.causes) : addCause s c = s := if_pos (List.contains_iff_mem.mpr h)

theorem addCause_of_not_mem {s : State} {c : Nat} (h : c ∉ s.pwr.causes) : addCause s c =
    emit (applyLimits (causeNoted s c)) evShedEngaged [c, causeTarget (applyLimits (causeNoted s c)) c, s.pwr.draw] :=
  if_neg fun listed => h (List.contains_iff_mem.mp listed)

theorem mem_causeNoted (s : State) (c x : Nat) : x ∈ (causeNoted s c).pwr.causes ↔ x = c ∨ x ∈ s.pwr.causes := by
  have perm := (sortBy_perm (fun a b => decide (a ≤ b)) (s.pwr.causes ++ [c])).mem_iff (a := x)
  refine perm.trans ?_
  rw [List.mem_append, List.mem_singleton, or_comm]

/-- Limits that follow the causes leave what the target is taken from. -/
theorem shedTarget_applyLimits {s : State} (code : Nat) (items : List Nat) (h : s.pwr.causes ≠ []) :
    shedTarget (emit (applyLimits s) code items) = shedTarget s := by
  have same : causeTarget (emit (applyLimits s) code items) = causeTarget s := rfl
  unfold shedTarget
  rw [same]
  rcases hc : s.pwr.causes with _ | ⟨c, cs⟩
  · exact absurd hc h
  · have kept : (emit (applyLimits s) code items).pwr.causes = c :: cs := hc
    rw [kept]

theorem applyLimits_effLim_le {s : State} (shed : s.pwr.shed = true) : (applyLimits s).pwr.effLim ≤ shedLimit s := by
  have lim : (applyLimits s).pwr.effLim = min s.pwr.dieLim (min (if s.pwr.shed then shedLimit s else 16) (if s.mod.st = .run then s.pwr.rampLim else 16)) :=
    rfl
  rw [lim, if_pos shed]
  omega

theorem addCause_engages {s : State} {c : Nat} (h : c ∉ s.pwr.causes) :
    (addCause s c).pwr.shed = true ∧ (addCause s c).pwr.alert = true ∧ (addCause s c).pwr.burn = false ∧
      (∀ x, x ∈ (addCause s c).pwr.causes ↔ x = c ∨ x ∈ s.pwr.causes) ∧
      (∃ u, u.lonus = s.lonus ∧ u.axle = s.axle ∧ u.pwr.causes = (addCause s c).pwr.causes ∧
        addCause s c = emit u evShedEngaged [c, causeTarget u c, s.pwr.draw]) ∧
      (addCause s c).pwr.effLim ≤ max 1 (16 * shedTarget (addCause s c) / sustained s) := by
  have some : (causeNoted s c).pwr.causes ≠ [] := List.ne_nil_of_mem ((mem_causeNoted s c c).mpr (Or.inl rfl))
  rw [addCause_of_not_mem h]
  refine ⟨rfl, rfl, rfl, mem_causeNoted s c, ⟨applyLimits (causeNoted s c), rfl, rfl, rfl, rfl⟩, ?_⟩
  rw [shedTarget_applyLimits _ _ some]
  exact applyLimits_effLim_le rfl

/-- Whether a release's conditions hold (16 R403). -/
def releases (s : State) : Bool :=
  s.pwr.shed && s.pwr.causes.isEmpty && decide (s.pwr.dieLim ≤ shedLimit s) && decide (s.pwr.ratio ≤ max 4 (shedLimit s))

/-- The state with the alert ended where no shed stands and the draw is inside the cap. -/
def alertSettled (s : State) : State :=
  if !s.pwr.shed && decide (s.pwr.draw ≤ (capNow s).1) then updPwr s fun p => { p with alert := false } else s

/-- The state with the shed released. -/
def shedReleased (s : State) : State := emit (updPwr s fun p => { p with shed := false }) evShedReleased [s.pwr.draw]

theorem shedCheck_eq (s : State) : shedCheck s = applyLimits (alertSettled (if releases s then shedReleased s else s)) := rfl

theorem alertSettled_pwr (s : State) : (alertSettled s).pwr.shed = s.pwr.shed ∧ (alertSettled s).pwr.causes = s.pwr.causes := by
  unfold alertSettled
  split <;> exact ⟨rfl, rfl⟩

theorem alertSettled_of_shed {s : State} (shed : s.pwr.shed = true) : alertSettled s = s := by simp [alertSettled, shed]

theorem shedCheck_causes (s : State) : (shedCheck s).pwr.causes = s.pwr.causes := by
  refine (alertSettled_pwr _).2.trans ?_
  split <;> rfl

/-- Where every condition of a release holds, the shed is released. -/
theorem shedCheck_releases {s : State} (h : releases s = true) : (shedCheck s).pwr.shed = false := by
  rw [shedCheck_eq, if_pos h]
  exact (alertSettled_pwr (shedReleased s)).1

/-- While a condition of a release fails, shed and alert stay. -/
theorem shedCheck_stays {s : State} (shed : s.pwr.shed = true) (h : releases s = false) :
    (shedCheck s).pwr.shed = true ∧ (shedCheck s).pwr.alert = s.pwr.alert := by
  rw [shedCheck_eq, if_neg (by simp [h]), alertSettled_of_shed shed]
  exact ⟨shed, rfl⟩

theorem not_mem_dropCause (s : State) (c : Nat) : c ∉ (dropCause s c).pwr.causes := by
  have kept : (dropCause s c).pwr.causes = s.pwr.causes.filter fun x => decide (x ≠ c) := shedCheck_causes _
  simp [kept]

theorem emit_events {s : State} (code : Nat) (items : List Nat) (room : s.lonus.events.length < 4096) : (emit s code items).lonus.events =
    s.lonus.events ++ [{ code := code, seq := s.lonus.evSeq, block := 0xFFFF, items := items, datum := [], axle := s.axle.value }] := if_pos room

/-- In Hold no block is Active, Paused or Loaded. -/
theorem blockOf_enterHold_st (s : State) (c b : Nat) (u : Option RepairUnit) (off : s.mod.st ≠ .off) (standby : s.mod.st ≠ .standby)
    (hold : s.mod.st ≠ .hold) : (blockOf (enterHold s c u) b).st = .unloaded ∨ (blockOf (enterHold s c u) b).st = .faulted := by
  obtain ⟨v, ends, -⟩ := enterHold_split s c u off standby hold
  have st : (blockOf (enterHold s c u) b).st = (blockOf (holdBlocks v c) b).st := by rw [ends]; rfl
  rw [st, holdBlocks_st]
  split
  · exact Or.inl rfl
  · exact Or.inr rfl

/-- Settles O18: the shed by its causes, the cap as the least of its sources, and Hold through the state before its blocks fault. -/
theorem holdEntryTakesEffect : Obligations.HoldEntryTakesEffect := by
  unfold Obligations.HoldEntryTakesEffect
  refine ⟨fun s c => addCause_of_mem, fun s c => addCause_engages, fun s c new room => ?event, fun s shed none lim ratio => ?released,
    fun s shed fails => ?stays, not_mem_dropCause, capNow_le, fun s => ?cap, fun s c u => ?row, fun s c u st => ?same,
    fun s c u off standby hold => ?entry, fun s c u off standby hold => ?blocks, fun s c u b off standby hold => ?faulted⟩
  case event =>
    refine ⟨causeTarget (applyLimits (causeNoted s c)) c, ?_⟩
    rw [addCause_of_not_mem new]
    exact emit_events _ _ room
  case released => exact shedCheck_releases (by simp [releases, shed, none, lim, ratio])
  case stays =>
    refine shedCheck_stays shed ?_
    simp only [releases, Bool.and_eq_false_iff, List.isEmpty_eq_false_iff, decide_eq_false_iff_not, not_le]
    tauto
  case cap =>
    exact (mem_capSources s _).mp (capNow_spec s).1
  case row => rw [exec, execHoldEnter, done_eq]
  case same => rcases st with st | st | st <;> simp [enterHold, st]
  case entry =>
    obtain ⟨v, ends, st, cause, valid, frozen, dpOff, trans, held, replay, mem, smp, nv, -, kind, unit, ports⟩ :=
      enterHold_split s c u off standby hold
    obtain ⟨bl, we, wp, n, blocks⟩ := holdBlocks_frame v c
    rw [ends, blocks]
    exact ⟨st, cause, valid, kind, unit, ports, frozen, dpOff, trans, held, replay, mem, smp, nv⟩
  case blocks =>
    obtain ⟨v, ends, -, -, -, -, -, -, -, -, -, -, -, same, kind, unit, -⟩ := enterHold_split s c u off standby hold
    refine ⟨v, same, ?_⟩
    have loaded : loadedBlocks s = loadedBlocks v := by rw [loadedBlocks, loadedBlocks, same]
    rw [ends, kind, unit, loaded]
    rfl
  case faulted =>
    rcases blockOf_enterHold_st s c b u off standby hold with st | st <;> simp [st]

end Sys2Proof.Machine

/-! PROOFS. The transitions' own rows: Setup entry, self-test, Rest entry and the drain limit (18 R438 to R455). -/

namespace Sys2Proof.Machine

theorem testFails_eq_none_iff (s : State) (r : SelfTest) :
    testFails s r = none ↔ shortUnit s = none ∧ r.badDie = none ∧ r.ehrokOk = true := by
  unfold testFails
  rcases shortUnit s with _ | u <;> rcases r.badDie with _ | d <;> cases r.ehrokOk <;> simp

/-- The state after the self-test's findings, before its outcome is drawn. -/
def selfTested (s : State) (r : SelfTest) : State :=
  let u := r.lostScratch.foldl scratchLost (mapSpares (r.failed.foldl repairFound (testMem s)))
  if r.ehrokOk && u.ehrok.single then
    { u with ehrok := { u.ehrok with single := false, aState := max 1 u.ehrok.aState, bState := max 1 u.ehrok.bState } }
  else u

theorem selfTest_eq (s : State) (r : SelfTest) : selfTest s r = (if s.mod.st ≠ .setup ∨ s.mod.start.checkDone = true then s
    else
      let v := selfTested s r
      let w := { v with mod := { v.mod with start := { v.mod.start with checkDone := true, checkPass := (testFails v r).isNone } } }
      if (testFails v r).isNone then (allPorts w).foldl startHitch w else enterHold (elapse w (toBoundary w)) 1 (testFails v r)) := rfl

theorem drainLimit_eq (s : State) : drainLimit s = (if s.mod.st = .drain then
    let u := elapse s (if s.mod.drainAt + drainMs s * 1000000 < s.now then toBoundary s else s.mod.drainAt + drainMs s * 1000000 - s.now)
    (loadedBlocks u).foldl (fun v b => if (blockOf v b).st = .active then faultBlock v b evDrainLimit [drainMs v] else v) u
    else s) := by
  have waited : waitUntil s (s.mod.drainAt + drainMs s * 1000000) = elapse s (s.mod.drainAt + drainMs s * 1000000 - s.now) := rfl
  unfold drainLimit
  dsimp only
  rw [waited, apply_ite (elapse s)]

theorem enterSetup_badImage (s : State) (t : Transition) : enterSetup s t false =
    enterHold { s with mod := { s.mod with start := {}, marked := [], late := [], warm := t.warm, frozen := false, dpOff := false, st := .setup } } 12
      none := by
  unfold enterSetup
  exact if_pos (by decide)

/-- Settles O19: each row is its own function, whose outcome the laws of Setup, Rest and Hold entry give. -/
theorem transitionRowsTakeEffect : Obligations.TransitionRowsTakeEffect := by
  unfold Obligations.TransitionRowsTakeEffect
  refine ⟨fun s ok => ?setup, fun s t clock dry0 dry1 loops => ?fresh, fun s t => ?badImage, enterSetup_hold, fun s r => ?selfTest,
    fun s r => ⟨testFails_eq_none_iff s r, fun u short => ?short, fun d short bad => ?badDie⟩, fun s => ?rest, enterRest_proj, fun s => ?drain⟩
  case setup => rw [exec, execSetupEntry, done_eq, setupEntry] <;> rfl
  case fresh =>
    obtain ⟨mod, ports, hub, lanes, coll, epoch, nv⟩ := enterSetup_proj s t clock (by tauto) loops
    rw [mod]
    exact ⟨rfl, rfl, rfl, rfl, ports, hub, lanes, coll, epoch, nv⟩
  case badImage => exact enterSetup_badImage s t
  case selfTest =>
    have tested : selfTested s r = (let u := r.lostScratch.foldl scratchLost (mapSpares (r.failed.foldl repairFound (testMem s)))
        if r.ehrokOk = true ∧ u.ehrok.single = true then { u with ehrok := { u.ehrok with
          single := false, aState := max 1 u.ehrok.aState, bState := max 1 u.ehrok.bState } } else u) := if_congr (by simp) rfl rfl
    rw [exec, execSelfTestComplete, done_eq, selfTest_eq]
    dsimp only at tested ⊢
    rw [← tested]
    generalize selfTested s r = v
    rcases testFails v r with _ | x <;> rfl
  case short => simp [testFails, short]
  case badDie => simp [testFails, short, bad]
  case rest =>
    rw [exec, execRestEntry, done_eq, restEntry] <;> rfl
  case drain => rw [exec, execDrainLimit, done_eq, drainLimit_eq]

end Sys2Proof.Machine

/-! PROOFS. Power, reset and the reference clock (16 R397, R398, 18 R435, R444, R445, 19 R469). -/

namespace Sys2Proof.Machine

@[simp] theorem responseQueued_lineUp (l : Lonus) (x : Response) : (responseQueued l x).lineUp = l.lineUp := by simp only [responseQueued]
@[simp] theorem responseQueued_sent (l : Lonus) (x : Response) : (responseQueued l x).sent = l.sent := by simp only [responseQueued]

@[simp] theorem cmdDropped_lineUp (s : State) (tag : Nat) : (cmdDropped s tag).lineUp = s.lonus.lineUp := by
  unfold cmdDropped
  split <;> rfl

@[simp] theorem cmdDropped_sent (s : State) (tag : Nat) : (cmdDropped s tag).sent = s.lonus.sent := by
  unfold cmdDropped
  split <;> rfl

theorem finishCmd_of {s : State} {tag op : Nat} {c : Cmd} (r : Reply) (found : cmdOf s tag = some c) (is : c.op = op) :
    finishCmd s tag op r = complete s tag op r := by
  simp [finishCmd, found, is]

/-- The response that an overtaken STATE_SET leaves with before the rails fall (log 20). -/
theorem lastResponse_sent {s : State} {t : Transition} {c : Cmd} (trans : s.mod.trans = some t) (found : cmdOf s t.tag = some c)
    (is : c.op = 0x0201) (up : s.lonus.lineUp = true) (opened : s.lonus.opened = true) (own : c.session = s.lonus.session)
    (fresh : ∀ r ∈ s.lonus.respQ, r.tag ≠ t.tag) :
    ∃ x, (lastResponse s).lonus.sent = s.lonus.sent ++ [x] ∧ x.ftype.toNat = 2 ∧ x.tag.toNat = t.tag % 65536 ∧
      x.status.toNat = statusCode .faulted := by
  let u := updMod s fun m => { m with trans := none }
  let r := responseOf u t.tag 0x0201 (rep .faulted)
  let v := complete u t.tag 0x0201 (rep .faulted)
  have foundU : cmdOf u t.tag = some c := found
  have session : cmdSession u t.tag = u.lonus.session := by rw [cmdSession, foundU]; exact own
  have lonus : v.lonus = responseQueued (cmdDropped u t.tag) r := by
    rw [complete_lonus, if_pos (Or.inl ⟨opened, session⟩)]
  have aborted : abortTransition s .faulted = v := by
    rw [abortTransition, trans]
    exact finishCmd_of _ foundU is
  have next : v.lonus.respQ.find? (fun r => decide (r.tag = t.tag)) = some r := by
    have old : s.lonus.respQ.find? (fun r => decide (r.tag = t.tag)) = none := by simpa using fresh
    have queue : v.lonus.respQ = s.lonus.respQ ++ [r] := by rw [lonus, responseQueued_respQ, cmdDropped_respQ]; rfl
    rw [queue, List.find?_append, old]
    simp [r, responseOf]
  have line : v.lonus.lineUp = true := by rw [lonus, responseQueued_lineUp, cmdDropped_lineUp]; exact up
  have sent : v.lonus.sent = s.lonus.sent := by rw [lonus, responseQueued_sent, cmdDropped_sent]; rfl
  have left : lastResponse s = sendFrame v (respFrame v r) := by
    unfold lastResponse
    rw [trans]
    dsimp only
    rw [aborted, next]
    exact if_pos line
  refine ⟨respFrame v r, ?_, rfl, BitVec.toNat_ofNat .., rfl⟩
  rw [left, sendFrame_lonus, sent]

theorem boot_straps (s : State) (i : PowerUpInput) :
    (boot s i).mod.st = .standby ∧ (boot s i).mod.plane = (i.straps.headD (0, 0)).1 % 16 ∧
      (boot s i).mod.rackPos = (i.straps.headD (0, 0)).2 % 64 ∧
      ((boot s i).mod.strapBad = true ↔ ∃ x ∈ i.straps, x ≠ i.straps.headD (0, 0)) ∧
      (boot s i).mgmt.sealA = i.sealA ∧ (boot s i).mgmt.sealB = i.sealB ∧ (boot s i).lonus.beatAt = s.now ∧
      (boot s i).nv.cycles = (s.nv.cycles + 1) % 2 ^ 32 := by
  obtain ⟨st, plane, rack, straps, mgmt, beat, cycles⟩ := boot_proj s i
  refine ⟨st, plane, rack, ?_, ?_, ?_, beat, cycles⟩
  · rw [straps]; simp
  · rw [mgmt]
  · rw [mgmt]

/-- The state with the clock's mark set. -/
def clockNoted (s : State) (bad : Bool) : State := { s with mod := { s.mod with refBad := bad } }

theorem refclkAbsent_eq (s : State) : refclkAbsent s =
    if s.mod.st = .standby ∨ s.mod.st = .rest then cutLine (clockNoted s true)
    else if s.mod.st = .off ∨ s.mod.st = .hold then clockNoted s true else enterHold (clockNoted s true) 5 none := by
  have noted : (updMod s fun m => { m with refBad := true }) = clockNoted s true := rfl
  have st : (clockNoted s true).mod.st = s.mod.st := rfl
  unfold refclkAbsent
  rw [noted]
  dsimp only
  rw [st]
  generalize clockNoted s true = u
  cases s.mod.st <;> simp

theorem refclkRestored_eq (s : State) : refclkRestored s =
    if s.mod.st = .off then (match s.mod.bootWait with | some i => boot (clockNoted s false) i | none => clockNoted s false)
    else updLonus (lonusFill (clockNoted s false)) fun l => { l with lineUp := l.lineUp || l.refCut, refCut := false } := by
  have noted : (updMod s fun m => { m with refBad := false }) = clockNoted s false := rfl
  have st : (clockNoted s false).mod.st = s.mod.st := rfl
  have wait : (clockNoted s false).mod.bootWait = s.mod.bootWait := rfl
  unfold refclkRestored
  rw [noted]
  dsimp only
  rw [st, wait]
  generalize clockNoted s false = u
  cases s.mod.st <;> cases s.mod.bootWait <;> simp

/-- What the line has sent is all that filling it up changes of the Lonus port. -/
theorem lonusFill_line (s : State) : (lonusFill s).lonus.refCut = s.lonus.refCut ∧ (lonusFill s).lonus.lineUp = s.lonus.lineUp := by
  rw [lonusFill_eq]
  exact ⟨rfl, rfl⟩

theorem powerUp_eq (s : State) (i : PowerUpInput) : powerUp s i =
    if s.mod.st ≠ .off ∨ s.mod.resetLow = true ∨ s.mod.bootWait ≠ none then s
    else if i.refclk = true then boot { s with mod := { s.mod with refBad := false } } i
    else { s with mod := { s.mod with refBad := true, bootWait := some i } } := by
  unfold powerUp
  refine if_congr (by simp [Option.isSome_iff_ne_none]) rfl ?_
  cases i.refclk <;> rfl

theorem pinReset_eq (s : State) : pinReset s =
    let u := goOff s (if railsGood s = false then none else some { cause := 3, axle := s.axle.value, state := stateCode s.mod.st })
    { u with mod := { u.mod with resetLow := true } } := by
  unfold pinReset
  cases railsGood s <;> rfl

/-- Settles O17: each row by its own equation. -/
theorem powerResetAndClockTakeEffect : Obligations.PowerResetAndClockTakeEffect := by
  unfold Obligations.PowerResetAndClockTakeEffect
  refine ⟨fun s i => ?power, boot_straps, fun s stop => rfl, fun s none => ?idle, fun s t c trans found is up opened own fresh =>
    lastResponse_sent trans found is up opened own fresh, fun s => ?loss, fun s v => ?stop, fun s => ?reset, fun s r i => ?release, fun s => ?absent,
    fun s => ?restored⟩
  case power => rw [exec, execPowerUp, done_eq, powerUp_eq]
  case idle => rw [lastResponse, none]
  case loss => rw [exec, execLossOfInput, done_eq]
  case stop =>
    rw [exec, execProtectiveStop, done_eq, protectiveStop]
    exact congrArg _ (congrArg _ (if_congr (by simp) rfl rfl))
  case reset => rw [exec, execPinReset, done_eq, pinReset_eq]
  case release =>
    rw [exec, execResetNRelease, done_eq, resetNRelease]
    cases s.mod.resetLow <;> rfl
  case absent =>
    obtain ⟨cut, up⟩ := lonusFill_line (clockNoted s true)
    rw [exec, execRefclkAbsent, done_eq, refclkAbsent_eq]
    refine congrArg _ (congrArg _ (if_congr Iff.rfl ?_ rfl))
    unfold cutLine updLonus
    dsimp only
    rw [cut, up]
    rfl
  case restored =>
    obtain ⟨cut, up⟩ := lonusFill_line (clockNoted s false)
    rw [exec, execRefclkRestored, done_eq, refclkRestored_eq]
    refine congrArg _ (congrArg _ (if_congr Iff.rfl rfl ?_))
    unfold updLonus
    dsimp only
    rw [cut, up]
    rfl

end Sys2Proof.Machine

/-! PROOFS. The checks on an arriving packet (02 R45), forwarding (05 R116) and replication (05 R131). -/

namespace Sys2Proof.Machine

theorem verdict_of_checked {s : State} {port : Nat} {p : Packet} (header : headerOk p.hdr = true) (source : plannedEpa s port = some p.hdr.src.toNat) :
    verdict s port p =
      if (if p.hdr.mcast then decide (4096 ≤ p.hdr.dst.toNat) else !validEpa p.hdr.dst.toNat) = true then .refuse .badEpa
      else if (!p.hdr.mcast) = true ∧ isModule p.hdr.dst.toNat = true ∧ p.hdr.dst.toNat ≠ ownEpa s then .refuse .noRoute
      else if verOf s (b2n p.hdr.epoch) = .writable then .stale
      else if p.hdr.mcast = true ∧ (!mcastValid s (b2n p.hdr.epoch) p.hdr.dst.toNat) = true then .refuse .noRoute
      else memberVerdict s p := by
  simp only [verdict, header, source, Bool.not_true, Bool.false_eq_true, if_false, ne_eq, not_true_eq_false]

theorem memberVerdict_of_active {s : State} {p : Packet} {b : Nat} (member : blockOfEpa s p.hdr.src.toNat = some b)
    (active : (blockOf s b).st = .active) : memberVerdict s p =
      if p.hdr.mcast = true then
        if mcastOwner s (b2n p.hdr.epoch) (p.hdr.dst.toNat % 4096) = b then .replicate
        else .cross (mcastOwner s (b2n p.hdr.epoch) (p.hdr.dst.toNat % 4096))
      else if isAccel p.hdr.dst.toNat = true then
        if blockOfEpa s p.hdr.dst.toNat ≠ some b then .cross p.hdr.dst.toNat
        else match routeOf s (b2n p.hdr.epoch) p.hdr.dst.toNat p.hdr.seq.toNat with
          | some q => .forward q
          | none => .refuse .noRoute
      else ownVerdict s p b := by
  simp only [memberVerdict, member, active] <;> rfl

theorem hubOf_updHub_self (s : State) (d : Nat) (f : Hub → Hub) : hubOf (updHub s d f) d = f (hubOf s d) := Tab.get_upd_self ..

/-- A packet that has a destination joins its die's crossbar queue at the end. -/
theorem xInsert_xq (s : State) (d input : Nat) (trunk noDefl : Bool) (fl : Flight) (dests : List XDest) (ports : List Nat) (reserve inn : Option Nat)
    (some : dests ≠ []) : ∃ e, (hubOf (xInsert s d input trunk noDefl fl dests ports reserve inn) d).xq = (hubOf s d).xq ++ [e] ∧ e.fl = fl ∧
      e.input = input ∧ e.left = dests.map fun x => (x, cellsOf fl.pkt) := by
  unfold xInsert
  rw [if_neg (by simpa using some)]
  dsimp only
  rw [hubOf_updHub_self]
  exact ⟨_, rfl, rfl, rfl, rfl⟩

/-- The choice of a port's crossbar input touches the ports alone. -/
theorem arrInput_frame (s : State) (p : Nat) : ∃ q, (arrInput s p).2 = { s with ports := q } := by
  unfold arrInput
  split <;> exact ⟨_, rfl⟩

theorem forward_xq {u : State} {port q : Nat} {p : Packet} (b : Nat) : ∃ e,
    (hubOf (xInsert (arrInput (flightOf u p (some port) b).2 port).2 (dieOf (arrInput (flightOf u p (some port) b).2 port).2 port)
      (arrInput (flightOf u p (some port) b).2 port).1 false false (flightOf u p (some port) b).1
      [xdestOf (arrInput (flightOf u p (some port) b).2 port).2 (dieOf (arrInput (flightOf u p (some port) b).2 port).2 port) q] [q])
      (dieOf u port)).xq = (hubOf u (dieOf u port)).xq ++ [e] ∧
    e.fl.pkt = p ∧ e.fl.arrPort = some port ∧ e.left = [(xdestOf u (dieOf u port) q, cellsOf p)] := by
  obtain ⟨ports, frame⟩ := arrInput_frame (flightOf u p (some port) b).2 port
  rw [frame]
  obtain ⟨e, joined, fl, -, left⟩ := xInsert_xq { (flightOf u p (some port) b).2 with ports := ports } (dieOf u port)
    (arrInput (flightOf u p (some port) b).2 port).1 false false (flightOf u p (some port) b).1 [xdestOf u (dieOf u port) q] [q] none none (by simp)
  refine ⟨e, joined, ?_, ?_, ?_⟩
  · rw [fl]; rfl
  · rw [fl]; rfl
  · rw [left]; rfl

theorem takePacket_forward {s : State} {port q : Nat} {p : Packet} (cs : List LadleCheck) (u : State)
    (is : (if headerOk p.hdr && decide (plannedEpa s port = some p.hdr.src.toNat) then skewCheck s p else s) = u)
    (forwards : verdict u port p = .forward q) : ∃ e, (hubOf (takePacket s port p cs) (dieOf u port)).xq = (hubOf u (dieOf u port)).xq ++ [e] ∧
      e.fl.pkt = p ∧ e.fl.arrPort = some port ∧ e.left = [(xdestOf u (dieOf u port) q, cellsOf p)] := by
  unfold takePacket
  rw [is]
  dsimp only
  rw [forwards]
  exact forward_xq _

/-- A replicated packet joins with a copy for each member's port on the die and one for each other die with members. -/
theorem replicate_xq (s : State) (d i : Nat) (fl : Flight) (r : Option Nat) :
    let v := b2n fl.pkt.hdr.epoch
    let g := fl.pkt.hdr.dst.toNat % 4096
    let here := (((fanOut s v g fl.pkt.hdr.seq.toNat).1.filter fun e => decide (dieOf s e.2 = d)).map fun e => XDest.port e.2)
    let far := ((otherDies d).filter fun m => (mcastMembers s v g).any fun e => decide (memberDie s v d e = m)).map XDest.bridge
    here ++ far ≠ [] → ∃ e, (hubOf (replicate s d i false fl r) d).xq = (hubOf s d).xq ++ [e] ∧ e.fl = fl ∧ e.input = i ∧
      e.left = (here ++ far).map fun x => (x, cellsOf fl.pkt) := by
  intro v g here far some
  have ports : here = (((fanOut s v g fl.pkt.hdr.seq.toNat).1.filter fun e => decide (dieOf s e.2 = d)).map Prod.snd).map XDest.port := by
    rw [List.map_map]
    rfl
  have joins : ∀ u : State, (hubOf u d).xq = (hubOf s d).xq → ∃ e, (hubOf (xInsert u d i false true fl (here ++ far) [] none none) d).xq =
      (hubOf s d).xq ++ [e] ∧ e.fl = fl ∧ e.input = i ∧ e.left = (here ++ far).map fun x => (x, cellsOf fl.pkt) := fun u same => by
    obtain ⟨e, joined, rest⟩ := xInsert_xq u d i false true fl (here ++ far) [] none none some
    exact ⟨e, same ▸ joined, rest⟩
  rw [ports] at joins ⊢
  unfold replicate
  rcases r with _ | p
  · exact joins s rfl
  · exact joins (updHub s d _) (by rw [hubOf_updHub_self])

/-- Whether the owner's box holds a member, and the port that leads to it. -/
def memberWay (s : State) (v g n e : Nat) : Option Nat := if inBox (blockOf s (mcastOwner s v g)) e = true then routeOf s v e n else none

theorem memberWay_eq_some {s : State} {v g n e p : Nat} : memberWay s v g n e = some p ↔
    inBox (blockOf s (mcastOwner s v g)) e = true ∧ routeOf s v e n = some p := by
  unfold memberWay
  split <;> simp_all

theorem memberWay_eq_none {s : State} {v g n e : Nat} : memberWay s v g n e = none ↔
    inBox (blockOf s (mcastOwner s v g)) e = false ∨ routeOf s v e n = none := by
  unfold memberWay
  split <;> simp_all

/-- A member goes to the reached ones with its port, or to the missing ones with a reason. -/
theorem fanOut_eq_foldr (s : State) (v g n : Nat) : ∃ f : Nat → List (Nat × Nat) × List (Nat × Nat) → List (Nat × Nat) × List (Nat × Nat),
    fanOut s v g n = (mcastMembers s v g).foldr f ([], []) ∧ (∀ e p acc, memberWay s v g n e = some p → f e acc = ((e, p) :: acc.1, acc.2)) ∧
      ∀ e acc, memberWay s v g n e = none → ∃ r, f e acc = (acc.1, (e, r) :: acc.2) := by
  refine ⟨_, rfl, fun e p acc way => ?_, fun e acc none => ?_⟩
  · obtain ⟨inside, leads⟩ := memberWay_eq_some.mp way
    simp [inside, leads]
  · rcases memberWay_eq_none.mp none with outside | lost
    · exact ⟨reasonCode .outsideBlock, by simp [outside]⟩
    · cases inside : inBox (blockOf s (mcastOwner s v g)) e
      · exact ⟨reasonCode .outsideBlock, by simp⟩
      · simp only [lost, Bool.not_true, Bool.false_eq_true, if_false]
        exact ⟨_, rfl⟩

theorem mem_fanOut (s : State) (v g n : Nat) :
    (∀ e p, (e, p) ∈ (fanOut s v g n).1 ↔ e ∈ mcastMembers s v g ∧ memberWay s v g n e = some p) ∧
    ∀ e, (∃ r, (e, r) ∈ (fanOut s v g n).2) ↔ e ∈ mcastMembers s v g ∧ memberWay s v g n e = none := by
  obtain ⟨f, folds, reaches, misses⟩ := fanOut_eq_foldr s v g n
  rw [folds]
  induction mcastMembers s v g with
  | nil => simp
  | cons m l ih =>
    obtain ⟨reached, missed⟩ := ih
    rw [List.foldr_cons]
    generalize l.foldr f ([], []) = acc at reached missed ⊢
    rcases way : memberWay s v g n m with _ | q
    · obtain ⟨r, step⟩ := misses m acc way
      rw [step]
      refine ⟨fun e p => ?_, fun e => ?_⟩
      · rw [reached, List.mem_cons]
        refine and_congr_left fun h => ⟨Or.inr, fun mem => mem.resolve_left fun is => ?_⟩
        rw [is, way] at h
        cases h
      · by_cases is : e = m
        · subst is
          simp [way]
        · simp [missed, is]
    · rw [reaches m q acc way]
      refine ⟨fun e p => ?_, fun e => ?_⟩
      · by_cases is : e = m
        · subst is
          simp [reached, way, eq_comm]
        · simp [reached, is]
      · rw [missed, List.mem_cons]
        refine and_congr_left fun h => ⟨Or.inr, fun mem => mem.resolve_left fun is => ?_⟩
        rw [is, way] at h
        cases h

/-- Settles O39: the verdict's checks one by one, and what a forwarded or replicated packet joins. -/
theorem arrivalChecksDecideInOrder : Obligations.ArrivalChecksDecideInOrder := by
  unfold Obligations.ArrivalChecksDecideInOrder
  refine ⟨fun s port p header => ?badHeader, fun s port p header source => ?badSource, fun s port p header source uni epa => ?badEpa,
    fun s port p header source multi group => ?badGroup, fun s port p header source uni epa isMod other => ?otherModule,
    fun s port p header source multi group => ?group, fun s p b member active multi => ?multi, fun s port p q cs forwards => takePacket_forward cs _ rfl forwards,
    replicate_xq, fun s v g n e p => ?reached, fun s v g n e => ?missed, fun s port p header source uni epa own => ?unicast, fun s p none => ?noBlock,
    fun s p b member st => ?faulted, fun s p b member st => ?notActive, fun s p b member active uni accel => ?accel,
    fun s p b member active uni accel => ?own⟩
  case badHeader => simp [verdict, header]
  case badSource => simp [verdict, header, source]
  case badEpa => simp [verdict_of_checked header source, uni, epa]
  case badGroup => simp [verdict_of_checked header source, multi, group]
  case otherModule => simp [verdict_of_checked header source, uni, epa, isMod, other]
  case group => simp [verdict_of_checked header source, multi, not_le.mpr group]
  case multi => simp [memberVerdict_of_active member active, multi]
  case reached => rw [(mem_fanOut s v g n).1, memberWay_eq_some]
  case missed => rw [(mem_fanOut s v g n).2, memberWay_eq_none]
  case unicast =>
    have here : ¬ (isModule p.hdr.dst.toNat = true ∧ p.hdr.dst.toNat ≠ ownEpa s) := by
      rcases own with no | own
      · simp [no]
      · simp [own]
    simp [verdict_of_checked header source, uni, epa, here]
  case noBlock => simp [memberVerdict, none]
  case faulted => simp [memberVerdict, member, st]
  case notActive => rcases st with st | st <;> simp [memberVerdict, member, st]
  case accel =>
    rw [memberVerdict_of_active member active, if_neg (by simp [uni]), if_pos accel] <;> rfl
  case own => simp [memberVerdict_of_active member active, uni, accel]

end Sys2Proof.Machine

/-! PROOFS. Arriving packets (O38): each arrival row is the arrival of its packet where its type is the row's. -/

namespace Sys2Proof.Machine

theorem arrivalRow_runs {s : State} {port : Nat} (here : portExists s port = true) (ok : Bool) (p : Packet) (cs : List LadleCheck) :
    arrivalRow s ok port p cs = .next (after s (if ok then arrival s port p cs else s)) := by
  rw [arrivalRow, onUnit_of here]

theorem portOf_updPort_self (s : State) (n : Nat) (f : Port → Port) : portOf (updPort s n f) n = f (portOf s n) :=
  Tab.get_upd_self ..

theorem portOf_updPort_ne (s : State) {n q : Nat} (f : Port → Port) (other : q ≠ n) : portOf (updPort s n f) q = portOf s q :=
  Tab.get_upd_ne _ _ _ other

/-- Settles O38: every row is `arrivalRow` of its type; the counters are one update of the port. -/
theorem arrivingPacketsAreTaken : Obligations.ArrivingPacketsAreTaken := by
  unfold Obligations.ArrivingPacketsAreTaken
  refine ⟨fun s port p cs here => ?rows, fun s port p cs => rfl, fun s port p => ?counted, fun s port p cs bad => ?failed,
    fun s port p cs good => ?passed, fun s port p reserved => ?reserved⟩
  case rows =>
    refine ⟨?_, ?_, ?_, ?_, ?_, ?_, ?_, ?_, ?_, ?_⟩
    · rw [exec, execWrite, arrivalRow_runs here, beq_eq_decide]
    · rw [exec, execReadReq, arrivalRow_runs here, beq_eq_decide]
    · rw [exec, execReadRsp, arrivalRow_runs here, beq_eq_decide]
    · rw [exec, execAtomic, arrivalRow_runs here, beq_eq_decide]
    · rw [exec, execAtomicRsp, arrivalRow_runs here, beq_eq_decide]
    · rw [exec, execGalleyCall, arrivalRow_runs here, beq_eq_decide]
    · rw [exec, execAck, arrivalRow_runs here, beq_eq_decide]
    · rw [exec, execNack, arrivalRow_runs here, beq_eq_decide]
    · rw [exec, execInvalidTypePacket, arrivalRow_runs here]
      simp only [Bool.or_eq_true, beq_iff_eq, decide_eq_true_eq, or_assoc]
    · rw [exec, execCollContrib, arrivalRow_runs here]
      simp only [beq_iff_eq]
  case counted =>
    rw [countArrival, portOf_updPort_self]
    exact ⟨rfl, rfl, rfl, fun q other => portOf_updPort_ne s _ other⟩
  case failed => rw [process, if_neg (by simp [bad])]
  case passed => rw [process, if_pos good]
  case reserved =>
    have bad : headerOk p.hdr = false := by simp [headerOk]; omega
    simp [verdict, bad]

end Sys2Proof.Machine

/-! PROOFS. Link commands and electrical idle (O31). -/

namespace Sys2Proof.Machine

/-- `u` is `s` but for what its ports have sent and its lanes: the time stands, and so does every port apart from its transmitter's line. -/
def SendsAlone (s u : State) : Prop := u.now = s.now ∧ ∀ p, ∃ x, portOf u p = { portOf s p with tx := x }

theorem SendsAlone.refl (s : State) : SendsAlone s s := ⟨rfl, fun _ => ⟨_, rfl⟩⟩

theorem SendsAlone.trans {s u w : State} (a : SendsAlone s u) (b : SendsAlone u w) : SendsAlone s w := by
  refine ⟨b.1.trans a.1, fun p => ?_⟩
  obtain ⟨x, px⟩ := a.2 p
  obtain ⟨y, py⟩ := b.2 p
  exact ⟨y, by rw [py, px]⟩

theorem SendsAlone.foldl {f : State → Nat → State} (each : ∀ s l, SendsAlone s (f s l)) (ls : List Nat) (s : State) : SendsAlone s (ls.foldl f s) := by
  induction ls generalizing s with
  | nil => exact .refl s
  | cons l ls ih => exact (each s l).trans (ih _)

theorem sendsAlone_of_ports {s u : State} (now : u.now = s.now) (ports : u.ports = s.ports) : SendsAlone s u :=
  ⟨now, fun p => ⟨_, by rw [portOf, ports]; rfl⟩⟩

theorem sendsAlone_updTxOf (s : State) (p : Nat) (f : TxLine → TxLine) : SendsAlone s (updPort s p fun q => { q with tx := f q.tx }) := by
  refine ⟨rfl, fun q => ?_⟩
  by_cases is : q = p
  · subst is
    exact ⟨_, portOf_updPort_self ..⟩
  · exact ⟨_, portOf_updPort_ne _ _ is⟩

theorem sendsAlone_updTx (s : State) (p : Nat) (f : LinePar → TxLine → TxLine) : SendsAlone s (updTx s p f) :=
  sendsAlone_updTxOf s p (f (portLine s p))

theorem sendsAlone_lineFill (s : State) (p : Nat) : SendsAlone s (lineFill s p) := by
  unfold lineFill
  split <;> exact sendsAlone_updTx ..

theorem sendsAlone_updLane (s : State) (l : Nat) (f : Lane → Lane) : SendsAlone s (updLane s l f) :=
  sendsAlone_of_ports rfl rfl

theorem sendsAlone_genStop (s : State) (l : Nat) : SendsAlone s (genStop s l) := by
  unfold genStop
  split
  · exact (sendsAlone_updTxOf s _ fun t => { t with sent := t.sent ++ [_] }).trans (sendsAlone_updLane ..)
  · exact .refl s

theorem sendsAlone_prbsCount (s : State) (l : Nat) : SendsAlone s (prbsCount s l) := by
  unfold prbsCount
  split
  · exact sendsAlone_of_ports rfl rfl
  · exact .refl s

theorem sendsAlone_prbsOff (s : State) (l : Nat) : SendsAlone s (prbsOff s l) :=
  ((sendsAlone_genStop s l).trans (sendsAlone_prbsCount _ l)).trans (sendsAlone_updLane ..)

/-- What a port is as its hitch starts, apart from what it has sent (12 R308). -/
theorem portOf_startHitch (s : State) (p : Nat) : ∃ x, portOf (startHitch s p) p = { portOf s p with
    tx := x, stage := .detect, since := s.now, frames := [], gotId := false, acked := false, check := 0, minor := 0, samples := [],
    lastT := none, misSent := false, paired := false, discarded := 0, txIdle := false, rxIdle := false, dropStream := false,
    sawIdle := false, syncAt := none, disabled := false, sentT := 0,
    cert := if (portOf s p).cert = 2 then 1 else if (portOf s p).cert = 3 then 0 else (portOf s p).cert } := by
  have sends : SendsAlone s ((lanesOf (lineFill s p) p).foldl (fun s l => updLane (prbsOff s l) l laneStart) (lineFill s p)) :=
    (sendsAlone_lineFill s p).trans (.foldl (fun s l => (sendsAlone_prbsOff s l).trans (sendsAlone_updLane ..)) ..)
  rw [startHitch]
  dsimp only
  generalize (lanesOf (lineFill s p) p).foldl (fun s l => updLane (prbsOff s l) l laneStart) (lineFill s p) = u at sends
  obtain ⟨now, port⟩ := sends
  obtain ⟨x, px⟩ := port p
  exact ⟨x, by rw [portOf_updPort_self, px, now]⟩

/-- How a command of a port ends: BADPARAM where the port does not exist (log 25). -/
theorem onPortCmd_ends {s : State} {tag op p : Nat} (runs : Runs s tag op [(2, p)]) (f : State → State × Option Reply) :
    onPortCmd tag op p s f = .next (if portExists s p = true then ends s tag op (f s) else answered s s tag op (rep .badParam)) := by
  rw [onPortCmd, lonusCmd_ends runs, ends_ite]
  rfl

/-- The same, where the missing port stands first. -/
theorem onPortCmd_ends' {s : State} {tag op p : Nat} (runs : Runs s tag op [(2, p)]) (f : State → State × Option Reply) :
    onPortCmd tag op p s f = .next (if portExists s p = false then answered s s tag op (rep .badParam) else ends s tag op (f s)) := by
  rw [onPortCmd_ends runs]
  cases portExists s p <;> rfl

/-- Settles O31: each command is its body on a port that exists; the bodies' next states are read off one update of the port. -/
theorem linkCommandsTakeEffect : Obligations.LinkCommandsTakeEffect := by
  unfold Obligations.LinkCommandsTakeEffect
  refine ⟨fun s tag p runs => ?reset, fun s p => rfl, fun s p => ?hitch, fun s tag p runs => ?disable, fun s p => ?disabled,
    fun s tag p runs => ?enable, fun s tag p runs => ?idle, fun s p => ?idles, fun s tag p runs => ?wake,
    fun s p here => ?enter, fun s p here => ?burst, fun s p here => ?failedExit⟩
  case reset => exact onPortCmd_ends runs _
  case hitch =>
    obtain ⟨x, port⟩ := portOf_startHitch s p
    rw [port]
    exact ⟨rfl, rfl, rfl, rfl, rfl⟩
  case disable =>
    rw [exec, execLinkDisable, onPortCmd_ends' runs]
    refine congrArg _ (if_congr .rfl rfl ?_)
    cases partnerBlock s p with
    | none =>
      rw [if_neg (by simp)]
      rfl
    | some b =>
      dsimp only
      rw [ends_ite]
      exact if_congr (by simp) rfl rfl
  case disabled =>
    rw [disablePort, portOf_updPort_self]
    exact ⟨rfl, rfl, rfl⟩
  case enable => exact onPortCmd_ends runs _
  case idle =>
    rw [exec, execLinkIdle, onPortCmd_ends' runs, ends_ite]
    rfl
  case idles =>
    constructor
    · rw [idleLine]
      split
      · assumption
      · rw [portOf_updPort_self]
    · rw [wakeLine]
      split
      · rw [portOf_updPort_self]
      · simp_all
  case wake =>
    rw [exec, execLinkWake, onPortCmd_ends' runs, ends_ite]
    rfl
  case enter => rw [exec, execEnterIdle, onUnit_of here, enterIdle]
  case burst => rw [exec, execIdleExitBurst, onUnit_of here, idleExitBurst]
  case failedExit => rw [exec, execIdleExit, onUnit_of here, idleExit]

end Sys2Proof.Machine

/-! PROOFS. The cable plan (O33). -/

namespace Sys2Proof.Machine

/-- Settles O33: install and edit by their bodies' checks; a plan that passes reads as 13 R325 asks. -/
theorem planCommandsTakeEffect : Obligations.PlanCommandsTakeEffect := by
  unfold Obligations.PlanCommandsTakeEffect
  refine ⟨fun s tag own runs => ?install, fun s tag port st runs => ?edit, fun s bs ok => ?planned, fun s p here => ?misplaced⟩
  case install =>
    rw [exec, execPlanInstall, lonusCmd_ends runs, planInstall]
    dsimp only
    rw [ends_ite]
    exact congrArg _ (if_congr (by simp) rfl rfl)
  case edit =>
    rw [exec, execPlanEdit, lonusCmd_ends runs, planEdit]
    cases s.nv.plan with
    | none => rfl
    | some p =>
      dsimp only [Option.bind_some]
      cases p.entries[port]? with
      | none => rfl
      | some e =>
        dsimp only [Option.map_some]
        simp only [ends_ite]
        exact congrArg _ (if_congr (by simp [within]) rfl (if_congr (by simp [Option.isSome_iff_ne_none]) rfl rfl))
  case planned =>
    simp only [planOk, Bool.and_eq_true, decide_eq_true_eq] at ok
    tauto
  case misplaced =>
    rw [exec, execPortMisplaced, onUnit_of here, portMisplaced]
    refine congrArg Host.Outcome.next (congrArg (after s) (if_congr (by simp) ?_ rfl))
    cases expectedPort s p <;> rfl

end Sys2Proof.Machine

/-! PROOFS. The axle (O37). -/

namespace Sys2Proof.Machine

theorem stamped_of_sync (s : State) {k : Packet} (sync : k.hdr.typ.toNat = tSYNC) :
    stamped s k = mkPacket { k.hdr with addr := BitVec.ofNat 48 s.axle.value, step := BitVec.ofNat 16 (s.axle.value / 2 ^ 48) } [] := by
  rw [stamped, if_pos sync]

theorem stamped_typ (s : State) (k : Packet) : (stamped s k).hdr.typ = k.hdr.typ := by
  unfold stamped
  split <;> rfl

theorem syncValue_stamped (s : State) {k : Packet} (sync : k.hdr.typ.toNat = tSYNC) : syncValue (stamped s k).hdr = s.axle.value % 2 ^ 64 := by
  rw [stamped_of_sync s sync, syncValue, mkPacket]
  simp only [BitVec.toNat_ofNat]
  omega

theorem watchEgress_wire (s : State) (p : Nat) (k : Packet) : (watchEgress s p k).wire = s.wire := by
  obtain ⟨r, l, n, h⟩ := watchEgress_only s p k
  rw [h]

/-- A SYNC goes out even on the port of a replay (11 R292). -/
theorem transmit_wire_of_sync (s : State) (p : Nat) {k : Packet} (sync : k.hdr.typ.toNat = tSYNC) :
    (transmit s p k).wire = (lineReady s p true).wire ++ [(p, stamped (lineReady s p true) k)] := by
  have goes (u : State) : (replayMutes u p && decide ((stamped (lineReady s p true) k).hdr.typ.toNat ≠ tSYNC)) = false := by
    simp [stamped_typ, sync]
  rw [transmit]
  simp only [sync, decide_true, goes, Bool.false_eq_true, if_false, watchEgress_wire, updPort_wire]

/-- Where no port is eligible the runs restart, and holdover begins once (13 R342). -/
theorem servo_of_none {s : State} (on : s.mod.st ≠ .off) (none : eligible (elapse s (64000 - s.now % 64000)) = []) :
    servo s = (let dt := 64000 - s.now % 64000
      let u := elapse s dt
      let a := coast u dt
      if a.lastElig + 1000000 ≤ u.now ∧ a.holdover = false then
        emit { u with axle := { a with eligible := 0, inBand := 0, outBand := 0, holdover := true } } evAxleHoldover []
      else { u with axle := { a with eligible := 0, inBand := 0, outBand := 0 } }) := by
  rw [servo, if_neg (by simp [alive, on])]
  dsimp only
  rw [none]
  dsimp only
  generalize elapse s (64000 - s.now % 64000) = u
  generalize coast u (64000 - s.now % 64000) = a
  obtain ⟨value, locked, holdover, everLock, warmWait, inBand, outBand, median, slew, lastElig, firstUp, eligible, lastSync⟩ := a
  by_cases late : lastElig + 1000000 ≤ u.now <;> cases holdover <;> simp [late]

theorem servo_of_some {s : State} (on : s.mod.st ≠ .off) (some : eligible (elapse s (64000 - s.now % 64000)) ≠ []) :
    servo s = (let dt := 64000 - s.now % 64000
      let u := elapse s dt
      let v := medianIn u 1 ((eligible u).map fun p => (portOf u p).syncOff)
      let w := { v.2 with axle := { v.2.axle with eligible := (eligible u).length, median := v.1, holdover := false, lastElig := v.2.now } }
      lockCheck (steer w v.1 dt) v.1) := by
  rw [servo, if_neg (by simp [alive, on])]
  dsimp only
  generalize elapse s (64000 - s.now % 64000) = u at some
  obtain ⟨e, ps, is⟩ := List.exists_cons_of_ne_nil some
  rw [is]

/-- Settles O37: the servo by whether a port is eligible, the rest by each row's own definition. -/
theorem axleRowsTakeEffect : Obligations.AxleRowsTakeEffect := by
  unfold Obligations.AxleRowsTakeEffect
  refine ⟨fun s p k rx here => ?sync, fun s => ?send, fun s p k sync => ⟨transmit_wire_of_sync s p sync, syncValue_stamped _ sync⟩, fun s => ?servo,
    fun s => ?free, fun s m dt free => ?freeSteer, fun s m dt free setup first far => ?jump, fun s m near run => ?locks, fun s m far run locked => ?unlocks,
    fun s => ?selfLock⟩
  case sync =>
    rw [exec, execSync, onUnit_of here, syncArrival]
    by_cases typ : k.hdr.typ.toNat = tSYNC
    · rw [if_pos typ, if_neg (not_not.mpr typ)]
      dsimp only
      cases receives s p
      · rfl
      · cases trailerOk k <;> rfl
    · rw [if_neg typ, if_pos typ]
  case send =>
    rw [exec, execSyncSend, done_eq, syncSend]
    exact congrArg Host.Outcome.next (congrArg (after s) (if_congr (by simp) rfl rfl))
  case servo =>
    rw [exec, execAxleServo, done_eq]
    refine congrArg Host.Outcome.next (congrArg (after s) ?_)
    by_cases off : s.mod.st = .off
    · rw [if_pos off, servo, if_pos (by simp [alive, off])]
    · rw [if_neg off]
      dsimp only
      by_cases none : eligible (elapse s (64000 - s.now % 64000)) = []
      · rw [if_pos none, servo_of_none off none]
        rfl
      · rw [if_neg none, servo_of_some off none]
  case free => simp [runsFree]
  case freeSteer => simp only [steer, free, if_true]
  case jump => simp only [steer, free, setup, first, far, Bool.false_eq_true, if_false, not_false_eq_true, and_self, if_true]
  case locks =>
    have next : decide (16 ≤ s.axle.inBand + 1) = true := by simpa using run
    have close : ¬ 8 < m.natAbs := by omega
    have sixteen : ¬ 16 ≤ 0 := by decide
    rw [lockCheck]
    simp only [near, close, next, if_true, if_false, sixteen, Bool.or_true, decide_false, Bool.and_false, Bool.false_eq_true, and_self]
  case unlocks =>
    have out : decide (16 ≤ s.axle.outBand + 1) = true := by simpa using run
    have near : ¬ m.natAbs ≤ 2 := by omega
    rw [lockCheck]
    simp only [near, far, out, locked, if_true, if_false, Bool.true_and, Bool.not_true, Bool.false_or]
    exact ⟨rfl, rfl⟩
  case selfLock =>
    rw [exec, execMasterSelfLock, done_eq, selfLock]
    refine congrArg Host.Outcome.next (congrArg (after s) ?_)
    cases s.axle.firstUp with
    | none => rfl
    | some t => exact if_congr (by simp) rfl rfl

end Sys2Proof.Machine

/-! PROOFS. Queues over time (O41). -/

namespace Sys2Proof.Machine

/-- Only a reduced result reads a hold as it leaves (06 R160). -/
theorem releaseHeld_other (s : State) (d : Nat) {x : Held} (ecc : Ecc) (other : ∀ h t c j, x.purpose ≠ .result h t c j) :
    releaseHeld s d x ecc = releasePacket s d x := by
  unfold releaseHeld
  split
  next h t c j is => exact absurd is (other h t c j)
  next => rfl

theorem recvOf_updRecv_self (s : State) (e : Nat) (f : Recv → Recv) : recvOf (updRecv s e f) e = f (recvOf s e) :=
  Tab.get_upd_self ..

/-- What a packet whose timer ends within its tries becomes (03 R79). -/
def resentOut (o : OutPkt) : OutPkt := { o with tries := o.tries + 1, rto := min (2 * o.rto) 128000, expires := none }

theorem resend_out {s : State} {o : OutPkt} (more : o.tries < o.limit) : (resend s o).e2e.out =
    s.e2e.out.map fun x => if isOut (pairKey o.pkt.hdr) o.pkt.hdr.seq.toNat x then resentOut x else x := by
  rw [resend, if_neg (not_le.mpr more)]
  rfl

/-- Settles O41: each row through its own definition, a re-send through its entry's next form. -/
theorem queuesOverTimeTakeEffect : Obligations.QueuesOverTimeTakeEffect := by
  unfold Obligations.QueuesOverTimeTakeEffect
  refine ⟨fun s p here => ?transmits, transmit_txPkts, fun s d ecc die => ?releases, fun s d x ecc => releaseHeld_other s d ecc,
    fun s d x h t c j result => ?result, fun s d e die accel => ?increase, fun s dst g n => ?timeout, fun s o spent => ?limit,
    fun s o more mem => ?again, fun s src => ?delayed, fun s src => ?acked⟩
  case transmits =>
    rw [exec, execPacketTransmit, onUnit_of here, sendNext]
    refine congrArg Host.Outcome.next (congrArg (after s) ?_)
    cases nextOut (portOf s p) with
    | none => rfl
    | some e =>
      dsimp only
      refine if_congr (by simp) ?_ rfl
      exact congrArg settle (if_congr Option.isNone_iff_eq_none rfl rfl)
  case releases =>
    rw [exec, execBrakeRelease, onUnit_of (by simpa using die)] <;>
      cases (hubOf s d).held.find? (mayLeave s d) <;> rfl
  case result =>
    unfold releaseHeld
    rw [result]
    refine ⟨rfl, rfl, fun y found => ?_⟩
    dsimp only [regionEcc]
    rw [if_pos rfl, found]
  case increase =>
    rw [exec, execBrakeIncrease, onUnit_of (by simp [die, accel])]
    rfl
  case timeout =>
    rw [exec, execResendTimeout, done_eq]
    cases s.e2e.out.find? (isOut (if g then 65536 + dst else dst) n) with
    | none => rfl
    | some o => cases o.expires <;> rfl
  case limit => rw [resend, if_pos spent]
  case again =>
    refine ⟨resentOut o, ?_, rfl, rfl, rfl, rfl⟩
    rw [resend_out more, List.mem_map]
    exact ⟨o, mem, if_pos (by simp [isOut])⟩
  case delayed =>
    rw [exec, execAckDelayExpiry, done_eq]
    rfl
  case acked =>
    obtain ⟨f, q, acks⟩ := ackNow_frame s src
    rw [acks, recvOf_updRecv_self]
    exact ⟨rfl, rfl, rfl⟩

end Sys2Proof.Machine

/-! PROOFS. TZ.TAKE (O29). -/

namespace Sys2Proof.Machine

/-- Settles O29: the row's checks in `tzTake`, and the hold or its absence in `takeNow`. -/
theorem takeCopiesEachResultOnce : Obligations.TakeCopiesEachResultOnce := by
  unfold Obligations.TakeCopiesEachResultOnce
  refine ⟨fun s t rd a b e here turns stands => ?take, fun s t rd h step c rank dst e here sleeps => ?wake,
    fun s t rd h step c rank dst x e held fits reads => ?copy, fun s a => rfl, fun s a => rfl, fun s a => rfl,
    fun s t rd h step c rank dst x held => ?lost, fun s t rd h step c rank dst e none open_ => ?sleep,
    fun s t rd h step c rank dst e none formed => ?taken, fun s h low => Nat.mod_lt _ (by positivity)⟩
  case take =>
    rw [exec, execTzTake, tzRow_runs here turns stands, tzTake]
    exact congrArg Host.Outcome.next (congrArg (after s) (if_congr .rfl rfl (if_congr (by simp) rfl rfl)))
  case wake =>
    rw [exec, execTzTakeWake, onUnit_of here, tzTakeWake, sleeps]
    exact congrArg Host.Outcome.next (congrArg (after s) (if_congr (by simp) rfl rfl))
  case copy => simp only [takeNow, held, reads, if_false, takeCopy, fits, not_true_eq_false]
  case lost => simp only [takeNow, held, if_true, regionEcc]
  case sleep => simp only [takeNow, none, open_, Bool.false_eq_true, if_false]
  case taken => simp only [takeNow, none, formed, if_true]

end Sys2Proof.Machine

/-! PROOFS. Accesses and services of a thread in its turn (O30). -/

namespace Sys2Proof.Machine

theorem spanLarder_eq_some {s : State} {t : ThreadRef} {a l : Nat} {w : Option Nat} (place : placeOf s t a = .larder l w) : spanLarder s t a = some l := by
  rw [spanLarder, place]

theorem spanLarder_of_scratch {s : State} {t : ThreadRef} {a k : Nat} (place : placeOf s t a = .scratch k) : spanLarder s t a = none := by
  rw [spanLarder, place]

theorem spanLarder_of_cslot {s : State} {t : ThreadRef} {a k w : Nat} (place : placeOf s t a = .cslot k w) : spanLarder s t a = none := by
  rw [spanLarder, place]

theorem scalarFault_of_scratch {s : State} {t : ThreadRef} {a k n : Nat} (kind : Nat) (op : Option AmoOp) (place : placeOf s t a = .scratch k)
    (inside : spanIn s t a n = true) : scalarFault s t a n kind op .ok = none := by
  simp [scalarFault, spanFault, place, inside]

theorem plainWrite_scratch (s : State) (me : Option ThreadRef) (k : Nat) (bs : List Byte) :
    (plainWrite s me (.scratch k) bs).scratch = Mem.write s.scratch k bs := by
  unfold plainWrite breakResv
  cases me <;> rfl

theorem thrOf_updThr_self (s : State) (t : ThreadRef) (f : Thread → Thread) : thrOf (updThr s t f) t = f (thrOf s t) :=
  Tab.get_upd_self ..

theorem exitThread_thr (s : State) (t : ThreadRef) : thrOf (exitThread s t) t = { exitCode := some (getX s t 10) } :=
  thrOf_updThr_self s t fun _ => { exitCode := some (getX s t 10) }

/-- An atomic addition to a count slot returns its word and stores the sum, modulo 2^64 (08 R203). -/
theorem accAmo_add_cslot {s : State} {t : ThreadRef} {k w addr : Nat} (rd v : Nat) (place : placeOf s t addr = .cslot k w) :
    accAmo s t .add rd addr 8 (leBytes 8 v) = retire (loadDest
      { s with cslots := Tab.set {} s.cslots k (cslotOfWord ((cslotWord (slotOf s k) + v % 2 ^ 64) % 2 ^ 64)) }
      t (.x rd true) (leBytes 8 (cslotWord (slotOf s k)))) t := by
  have sum : ofLe (leBytes 8 (atomicInt (amoCode .add) 64 (ofLe (leBytes 8 (cslotWord (slotOf s k)))) (ofLe (leBytes 8 v)) 0)) =
      (cslotWord (slotOf s k) + v % 2 ^ 64) % 2 ^ 64 := by
    simp only [ofLe_leBytes, amoCode, atomicInt]
    omega
  simp only [accAmo, spanLarder_of_cslot place, spanRead, place, spanWrite, cslotStore, Nat.reduceMul, sum]

/-- A thread's row in its turn: the effect that the row gives the instruction before which the thread stands. -/
theorem issueRow_turn {s : State} {t : ThreadRef} (here : thrExists t = true) (turns : turn s t = true) (f : Meaning → Option (State → State)) :
    issueRow t s f = .next (after s ((f (standing s t)).elim s fun g => g (issued s t))) := by
  rw [issueRow, onUnit_of here, if_pos turns]
  cases f (standing s t) <;> rfl

/-- Where an instruction's line or its own bytes cannot be read, that is its fault. -/
theorem fetchCause_uncorrectable {m : Meaning} (fetched : m ≠ .noFetch) : fetchCause m .uncorrectable = some 29 := by
  cases m with
  | noFetch => exact absurd rfl fetched
  | _ => rfl

/-- A LOG is sent at most once a millisecond, from memory that is not the larder's (08 R204). -/
theorem logCall_eq (s : State) (t : ThreadRef) (e : Ecc) : logCall s t e = (
    let a := getX s t 10
    let i := (thrOf s t).image
    if (spanLarder s t a).isSome = true ∨ spanOk s t a 32 0 = false then threadFault s t 5 a
    else if e = .uncorrectable then threadFault s t 29 a
    else resume (setX (if (imgOf s i).logAt = none ∨ ∃ x, (imgOf s i).logAt = some x ∧ x + 1000000 ≤ s.now then
        emitX (updImg s i fun x => { x with logAt := some s.now }) evGalleyLog (blockOfThr s t) [] (plainRead s (placeOf s t a) 32)
      else updImg s i fun x => { x with logDrop := x.logDrop + 1 }) t 10 0) t) := by
  have due : (match (imgOf s (thrOf s t).image).logAt with | some x => decide (x + 1000000 ≤ s.now) | none => true) = true ↔
      (imgOf s (thrOf s t).image).logAt = none ∨ ∃ x, (imgOf s (thrOf s t).image).logAt = some x ∧ x + 1000000 ≤ s.now := by
    cases (imgOf s (thrOf s t).image).logAt <;> simp
  unfold logCall spanLarder
  dsimp only
  cases placeOf s t (getX s t 10) with
  | larder l w => exact (if_pos (Or.inl rfl)).symm
  | _ =>
    dsimp only
    exact if_congr (by simp) rfl (if_congr .rfl rfl (congrArg (fun u => resume (setX u t 10 0) t) (if_congr due rfl rfl)))

/-- Settles O30: each row issues its instruction's effect; an access by the place that its address names. -/
theorem galleyAccessesAndServicesTakeEffect : Obligations.GalleyAccessesAndServicesTakeEffect := by
  unfold Obligations.GalleyAccessesAndServicesTakeEffect
  refine ⟨fun s t a run e here turns stands => ?access, fun s t d addr n k place inside => ?load, fun s t addr bs k place inside => ?store,
    fun s me k bs i h => ?written, fun s me k bs x out => ?kept, fun s t k w rd addr v place aligned own => ?amo,
    fun s t addr bs l w place some_ aligned may => ?posted, fun s t addr n d ecc bad => ?bad, fun s t w here turns stands => ?fence,
    fun s t here turns stands => ?exit, fun s t => ?exited, fun s t e here turns stands => ?log, fun s t here turns stands => ?ebreak,
    fun s t e here turns running => ⟨fun stands => ?illegal, fun stands => ?noFetch, fun fetched => ?lost⟩⟩
  case access =>
    rw [exec, execGalleyAccess, issueRow_turn here turns, stands]
    simp only [need, decide_true, if_true, Option.elim_some]
  case load =>
    simp only [galleyAccess, scalarFault_of_scratch 0 none place inside, accLoad, spanLarder_of_scratch place, spanRead, place, plainRead]
  case store =>
    simp only [galleyAccess, scalarFault_of_scratch 1 none place inside, accStore, spanLarder_of_scratch place, spanWrite, place]
  case written => rw [plainWrite_scratch, Mem.byte_write_inside _ _ _ h]
  case kept => rw [plainWrite_scratch, Mem.byte_write_outside _ _ _ out]
  case amo =>
    have fits : scalarFault s t addr 8 2 (some .add) .ok = none := by simp [scalarFault, spanFault, place, aligned, own, cslotForm]
    have two : (if AmoOp.add = AmoOp.lr then 0 else 2) = 2 := rfl
    simp only [galleyAccess, two, fits]
    exact accAmo_add_cslot rd v place
  case posted =>
    have one : max 1 bs.length = bs.length := max_eq_right (List.length_pos_iff.mpr some_)
    have fits : scalarFault s t addr bs.length 1 none .ok = none := by simp [scalarFault, spanFault, place, one, aligned, may, Ask.pair]
    simp only [galleyAccess, fits, accStore, spanLarder_eq_some place]
  case bad =>
    have fault : scalarFault s t addr n 0 none ecc = some 5 := by simp [scalarFault, spanFault, bad]
    simp only [galleyAccess, fault]
  case fence =>
    rw [exec, execFence, issueRow_turn here turns, stands]
    simp only [need, decide_true, if_true, Option.elim_some]
  case exit =>
    rw [exec, execExit, issueRow_turn here turns, stands]
    rfl
  case exited =>
    rw [exitThread_thr]
    exact ⟨rfl, rfl⟩
  case log =>
    rw [exec, execLog, issueRow_turn here turns, stands]
    exact congrArg Host.Outcome.next (congrArg (after s) (logCall_eq (issued s t) t e))
  case ebreak =>
    rw [exec, execEbreak, issueRow_turn here turns, stands]
    rfl
  case illegal =>
    rw [exec, execIllegalInstruction, issueRow_turn here turns, stands, if_neg (by simp [running])]
    rfl
  case noFetch =>
    rw [exec, execIllegalInstruction, issueRow_turn here turns, stands, if_neg (by simp [running])]
    rfl
  case lost =>
    rw [exec, execIllegalInstruction, issueRow_turn here turns, if_neg (by simp [running]), fetchCause_uncorrectable fetched]
    rfl

end Sys2Proof.Machine

/-! PROOFS. Training stages (O35). -/

namespace Sys2Proof.Machine

theorem portOf_emit (s : State) (code : Nat) (items : List Nat) (p : Nat) : portOf (emit s code items) p = portOf s p := rfl

theorem portOf_updLane (s : State) (l : Nat) (f : Lane → Lane) (p : Nat) : portOf (updLane s l f) p = portOf s p := rfl

theorem portOf_enterStage (s : State) (p : Nat) (st : Stage) : (portOf (enterStage s p st) p).stage = st := by
  rw [enterStage, portOf_updPort_self]

/-- A frame of Detect ends the stage where it is the 16th on every lane (12 R308). -/
theorem detectFrame_stage (s : State) (p l m : Nat) (inv : Bool) : (portOf (detectFrame s p l m inv) p).stage =
    if framesDone (countFrame (updLane s l fun x => { x with signal := true, cdr := true, polInv := inv }) p m true) p then .sound
    else (portOf s p).stage := by
  rw [detectFrame]
  split
  · exact portOf_enterStage ..
  · rw [countFrame, portOf_updPort_self, portOf_updLane]

/-- A failed stage leaves its cause, and back-off or Listen by the count of failures (12 R311). -/
theorem portOf_stageFail (s : State) (p c : Nat) : (portOf (stageFail s p c) p).failures = (portOf s p).failures + 1 ∧
    (portOf (stageFail s p c) p).failCause = c ∧ (portOf (stageFail s p c) p).txIdle = true ∧
    (portOf (stageFail s p c) p).stage = if bits (linkCtl s (dieOf s p)) 0 4 ≤ (portOf s p).failures + 1 then .listen else .backoff := by
  rw [stageFail]
  split
  · rw [portOf_emit, portOf_updPort_self, portOf_updPort_self]
    exact ⟨rfl, rfl, rfl, rfl⟩
  · rw [portOf_updPort_self, portOf_updPort_self]
    exact ⟨rfl, rfl, rfl, rfl⟩

/-- Settles O35: each row is its definition on a port that exists; what a frame does is by the port's stage. -/
theorem hitchStagesTakeEffect : Obligations.HitchStagesTakeEffect := by
  unfold Obligations.HitchStagesTakeEffect
  refine ⟨fun s p m c inv low here => ?frame, fun s p m c inv low => ⟨fun st => ?detect, fun st old => ?sound, fun st new => ?align, fun st => ?up⟩,
    detectFrame_stage, fun s p lost here => ?timeout, portOf_stageFail, fun s p here => ?backOff, fun s p here => ?listens, fun s p here => ?beacon,
    fun s l found lane => ?search, fun s p here => ?ends⟩
  case frame =>
    rw [exec, execTrainingFrame, onUnit_of here, trainingFrame]
    refine congrArg Host.Outcome.next (congrArg (after s) ?_)
    by_cases runs : dpRuns s = true ∧ m < lanesPer (portW s p)
    · rw [if_neg (by simp [runs])]
      exact if_congr (by simp [runs]) rfl rfl
    · rw [if_pos (by simpa [not_and_or, or_iff_not_imp_left] using runs), if_neg (fun h => runs ⟨h.1, h.2.1⟩)]
  case detect => simp only [validFrame, st]
  case sound => simp only [validFrame, st, old, if_false]
  case align => simp only [validFrame, st, new, OfNat.ofNat_ne_one, if_false, if_true]
  case up => simp only [validFrame, st, partnerRestart]
  case timeout =>
    rw [exec, execHitchStageTimeout, onUnit_of here, stageTimeout]
    refine congrArg Host.Outcome.next (congrArg (after s) ?_)
    cases stageLimit (portOf s p).stage <;> rfl
  case backOff =>
    rw [exec, execBackOffEnd, onUnit_of here, backOffEnd]
    rfl
  case listens => rw [exec, execListenSwingSeen, onUnit_of here, listenSwing]
  case beacon =>
    rw [exec, execListenBeacon, onUnit_of here, listenBeacon]
    rfl
  case search =>
    rw [exec, execBitSlipSearch, onUnit_of (by simpa using lane), bitSlipSearch]
    refine congrArg Host.Outcome.next (congrArg (after s) (if_congr (by simp) ?_ rfl))
    cases found <;> rfl
  case ends => rw [exec, execAlignExit, onUnit_of here, alignExit]

end Sys2Proof.Machine

/-! PROOFS. Identify, Verify, Up and departure from Up (O36). -/

namespace Sys2Proof.Machine

/-- A port that left Up with a cause and is being flushed (12 R312). -/
def LeftUp (c : Nat) (q : Port) : Prop := q.stage = .disabled ∧ q.flushing = true ∧ q.failCause = c

theorem portOf_congr {s u : State} (ports : u.ports = s.ports) (p : Nat) : portOf u p = portOf s p := by
  rw [portOf, ports]
  rfl

theorem leftUp_congr {s u : State} {p c : Nat} (ports : u.ports = s.ports) (left : LeftUp c (portOf s p)) : LeftUp c (portOf u p) := by
  rwa [portOf_congr ports]

theorem leftUp_updPort {s : State} {p c : Nat} (n : Nat) {f : Port → Port} (keeps : ∀ q, LeftUp c q → LeftUp c (f q)) (left : LeftUp c (portOf s p)) :
    LeftUp c (portOf (updPort s n f) p) := by
  by_cases is : p = n
  · subst is
    rw [portOf_updPort_self]
    exact keeps _ left
  · rwa [portOf_updPort_ne s f is]

theorem leftUp_egPlace {s u : State} {p c n : Nat} {fl : Flight} (left : LeftUp c (portOf s p)) (placed : egPlace s n fl = some u) :
    LeftUp c (portOf u p) := by
  unfold egPlace at placed
  split_ifs at placed
  · cases placed
    exact leftUp_updPort n (fun q h => h) left
  · cases placed
    refine leftUp_updPort n (fun q h => ?_) left
    dsimp only
    split <;> exact h

theorem leftUp_egDirect {s : State} {p c : Nat} (n : Nat) (k : Packet) (b : Nat) (left : LeftUp c (portOf s p)) : LeftUp c (portOf (egDirect s n k b) p) := by
  unfold egDirect
  split
  · split
    · exact leftUp_updPort n (fun q h => h) left
    · exact left
  · change LeftUp c (portOf ((egPlace (flightOf s k none b).2 n (flightOf s k none b).1).getD _) p)
    rcases placed : egPlace (flightOf s k none b).2 n (flightOf s k none b).1 with _ | u
    · exact leftUp_updPort n (fun q h => h) left
    · exact leftUp_egPlace (s := (flightOf s k none b).2) left placed

theorem leftUp_flushNack {s : State} {p c : Nat} (fl : Flight) (left : LeftUp c (portOf s p)) : LeftUp c (portOf (flushNack s fl) p) := by
  unfold flushNack
  split
  · split
    · exact left
    · exact leftUp_egDirect _ _ _ left
  · exact left

theorem leftUp_foldl {α : Type} {f : State → α → State} {p c : Nat} (each : ∀ s x, LeftUp c (portOf s p) → LeftUp c (portOf (f s x) p)) (l : List α)
    {s : State} (left : LeftUp c (portOf s p)) : LeftUp c (portOf (l.foldl f s) p) :=
  List.foldlRecOn l f left fun u h x _ => each u x h

theorem leftUp_dropFlights {s : State} {p c : Nat} (kill : Flight → Bool) (left : LeftUp c (portOf s p)) : LeftUp c (portOf (dropFlights s kill) p) := by
  obtain ⟨stage, flushing, cause⟩ := left
  have listed {q : Port} (h : q.flushing = true) : q ≠ {} := fun e => by simp [e] at h
  have there := Tab.get_mapV ({} : Port) s.ports (fun q => { q with
    egq := q.egq.filter fun x => !kill x.fl, ctlq := q.ctlq.filter fun x => !kill x.fl, ovfList := q.ovfList.filter fun x => !kill x,
    egWait := q.egWait.filter fun x => !kill x }) p (listed flushing) (listed flushing)
  rw [dropFlights, ovfEase, portOf, there]
  exact ⟨stage, flushing, cause⟩

theorem leftUp_dropIngress {s : State} {p c : Nat} (n : Nat) (left : LeftUp c (portOf s p)) : LeftUp c (portOf (dropIngress s n) p) := by
  unfold dropIngress
  extract_lets d dest part hubs ports t
  have hub (u : State) (m : Nat) (h : LeftUp c (portOf u p)) : LeftUp c (portOf (hubs u m) p) := leftUp_congr rfl h
  have port (u : State) (m : Nat) (h : LeftUp c (portOf u p)) : LeftUp c (portOf (ports u m) p) := leftUp_updPort m (fun q h => h) h
  have cleared : LeftUp c (portOf t p) := leftUp_foldl port _ (leftUp_foldl hub _ left)
  clear_value t
  exact leftUp_congr rfl cleared

theorem leftUp_lard {s : State} {p c : Nat} (l : Larder) (left : LeftUp c (portOf s p)) : LeftUp c (portOf { s with lard := l } p) := left

theorem leftUp_ovfEase {s : State} {p c : Nat} (left : LeftUp c (portOf s p)) : LeftUp c (portOf (ovfEase s) p) :=
  leftUp_lard _ left

/-- Flushing a port's packets leaves its record as it left Up. -/
theorem leftUp_flushPort {s : State} {p c : Nat} (left : LeftUp c (portOf s p)) : LeftUp c (portOf (flushPort s p) p) := by
  unfold flushPort
  extract_lets n s1 q tr out s2 s3
  have dropped : LeftUp c (portOf s2 p) := leftUp_dropFlights _ (leftUp_dropIngress p left)
  clear_value s2
  have emptied : LeftUp c (portOf s3 p) := leftUp_updPort p (fun q h => h) dropped
  clear_value s3
  exact leftUp_foldl (fun u fl h => leftUp_flushNack fl h) _ (leftUp_ovfEase emptied)

theorem portDown_leaves {s : State} {p : Nat} (up : (portOf s p).stage = .up) (c : Nat) : LeftUp c (portOf (portDown s p c) p) := by
  rw [portDown, if_pos up]
  refine leftUp_flushPort ?_
  rw [portOf_emit, portOf_updPort_self]
  exact ⟨rfl, rfl, rfl⟩

theorem foldl_updLane_ports {α : Type} (lane : α → Nat) (f : Lane → Lane) (l : List α) (s : State) :
    (l.foldl (fun s x => updLane s (lane x) f) s).ports = s.ports :=
  List.foldlRecOn (motive := fun (u : State) => u.ports = s.ports) l _ rfl fun _ h _ _ => h

/-- A timing message is sent by the ports alone. -/
theorem sendTiming_frame (s : State) (p : Nat) : ∃ q, sendTiming s p = { s with ports := q } := by
  unfold sendTiming lineFill
  split
  · split <;> exact ⟨_, rfl⟩
  · exact ⟨_, rfl⟩

theorem portOf_sendTiming (s : State) (p : Nat) : ∃ n x, portOf (sendTiming s p) p = { portOf s p with sentT := n, tx := x } := by
  unfold sendTiming
  split
  · obtain ⟨x, same⟩ := (sendsAlone_lineFill s p).2 p
    rw [portOf_updPort_self, same]
    exact ⟨_, _, rfl⟩
  · exact ⟨_, _, rfl⟩

/-- Verify as it begins where no certification waits: the stage is set, a timing message goes, and nothing that the plan check reads changes. -/
theorem verify_begins {s : State} {p : Nat} {i : Ident} (none : (portOf s p).cert = 0) :
    ∃ q, certAnswer (sendTiming (enterStage s p .verify) p) p i = { s with ports := q } ∧ (Tab.get {} q p).stage = .verify := by
  have entered : ∃ q, enterStage s p .verify = { s with ports := q } ∧ (Tab.get {} q p).stage = .verify ∧ (Tab.get {} q p).cert = 0 := by
    obtain ⟨x, same⟩ := (sendsAlone_lineFill s p).2 p
    have cert : (portOf (enterStage s p .verify) p).cert = (portOf s p).cert := by
      rw [enterStage, portOf_updPort_self]
      have := congrArg Port.cert same
      exact this
    refine ⟨(enterStage s p .verify).ports, ?_, portOf_enterStage s p .verify, cert.trans none⟩
    unfold enterStage lineFill
    split <;> rfl
  obtain ⟨q, is, stage, cert⟩ := entered
  obtain ⟨r, sends⟩ := sendTiming_frame (enterStage s p .verify) p
  obtain ⟨n, x, port⟩ := portOf_sendTiming (enterStage s p .verify) p
  have idle : (portOf (sendTiming (enterStage s p .verify) p) p).cert ≠ 1 := by
    rw [port, is]
    exact fun h => by simp [portOf, cert] at h
  rw [certAnswer, if_neg idle]
  refine ⟨r, by rw [sends, is], ?_⟩
  have := congrArg Port.stage port
  rw [sends, is] at this
  exact this.trans stage

/-- Settles O36: each row by its own definition; a departure through what flushing leaves. -/
theorem portsComeUpAndGoDown : Obligations.PortsComeUpAndGoDown := by
  unfold Obligations.PortsComeUpAndGoDown
  refine ⟨fun s p m here => ?identity, fun s p i planned none => ?verify, fun s p i r other => ?quarantine, fun s p m rx here bad => ?badTiming,
    fun s p m rx here len kind crc st => ?timing, fun s p ue ce rx here => ?verified, fun s p => ?up, fun s p c here => ?down,
    fun s p up c => portDown_leaves up c, fun s p ws hs here => ?round, fun s p ws => ?quarRound, fun s p ls hs notUp => ?uncorrectable,
    fun s p here => ?resume, fun s p here => ?flushed⟩
  case identity =>
    rw [exec, execIdentityMessage, onUnit_of here, identityMessage]
    refine congrArg Host.Outcome.next (congrArg (after s) ?_)
    cases identOf m with
    | none => rfl
    | some i => cases st : (portOf s p).stage <;> rfl
  case verify =>
    obtain ⟨q, begun, stage⟩ := verify_begins (i := i) none
    have same : planCheck { s with ports := q } p i = 1 := planned
    rw [enterVerify, begun, if_pos same, portOf_updPort_self]
    exact ⟨stage, rfl, rfl⟩
  case quarantine => rw [quarantine, if_neg other]
  case badTiming => rw [exec, execTimingMessage, onUnit_of here, timingMessage, if_neg bad]
  case timing =>
    rw [exec, execTimingMessage, onUnit_of here, timingMessage, if_pos ⟨len, kind, crc, st⟩]
  case verified =>
    rw [exec, execVerifyEnd, onUnit_of here, verifyEnd]
    exact congrArg Host.Outcome.next (congrArg (after s) (if_congr .rfl (if_congr (by simp [waitUntil]) rfl rfl) rfl))
  case up =>
    have port : (portOf (comeUp s p) p) = portOf (updPort s p fun q =>
      { q with stage := .up, failures := 0, ups := min 255 (q.ups + 1), since := s.now, ueTimes := [] }) p := rfl
    rw [port, portOf_updPort_self]
    exact ⟨rfl, rfl, rfl⟩
  case down =>
    rw [exec, execLinkDown, onUnit_of here, linkDown]
    refine congrArg Host.Outcome.next (congrArg (after s) ?_)
    refine if_congr (by simp only [within, decide_eq_true_iff, and_assoc]) ?_ rfl
    dsimp only
    generalize (if c = 2 then swingGone s p else if c = 5 then lockGone s p else s) = u
    cases (portOf u p).stage with
    | quarantine => by_cases hot : c = 4 <;> simp [hot]
    | _ => rfl
  case round =>
    rw [exec, execUncorrectableRound, onUnit_of here]
    refine congrArg Host.Outcome.next (congrArg (after s) (if_congr .rfl ?_ rfl))
    exact if_congr List.isEmpty_iff rfl rfl
  case quarRound => exact if_congr (by simp [Option.any_eq_true]) rfl rfl
  case uncorrectable =>
    have same : portOf (((enum (lanesOf s p)).filter fun x => ls.contains x.1).foldl
        (fun s x => updLane s x.2 fun y => { y with ue := satInc 32 y.ue }) s) p = portOf s p :=
      portOf_congr (foldl_updLane_ports (fun x : Nat × Nat => x.2) _ _ s) p
    rw [uncorrectable]
    dsimp only
    rw [if_neg (by rw [same]; exact notUp)]
  case resume => rw [exec, execStreamResume, onUnit_of here]
  case flushed =>
    rw [exec, execPortFlushed, onUnit_of here, portFlushed]
    exact congrArg Host.Outcome.next (congrArg (after s) (if_congr (by simp [and_assoc]) (if_congr (by simp) rfl rfl) rfl))

end Sys2Proof.Machine

/-! PROOFS. The Sieve's and the Tongs' descriptors (O48). -/

namespace Sys2Proof.Machine

theorem keyLe_total (low : Bool) (a b : Option Int) : keyLe low a b = true ∨ keyLe low b a = true := by
  cases a <;> cases b <;> cases low <;> simp [keyLe, le_total]

theorem keyLe_trans {low : Bool} {a b c : Option Int} (ab : keyLe low a b = true) (bc : keyLe low b c = true) : keyLe low a c = true := by
  cases a <;> cases b <;> cases c <;> cases low <;> simp_all [keyLe] <;> omega

/-- Inserting into a sorted list keeps it sorted, for an order that compares any two. -/
theorem insertBy_pairwise {α : Type} {le : α → α → Bool} (total : ∀ a b, le a b = true ∨ le b a = true)
    (trans : ∀ {a b c}, le a b = true → le b c = true → le a c = true) (x : α) {l : List α} (sorted : l.Pairwise fun a b => le a b = true) :
    (insertBy le x l).Pairwise fun a b => le a b = true := by
  induction l with
  | nil => simp [insertBy]
  | cons y ys ih =>
    obtain ⟨least, rest⟩ := List.pairwise_cons.mp sorted
    rw [insertBy]
    split
    · next before =>
      refine List.pairwise_cons.mpr ⟨fun z mem => ?_, ih rest⟩
      rcases List.mem_cons.mp ((insertBy_perm le x ys).mem_iff.mp mem) with rfl | mem
      · exact before
      · exact least z mem
    · next after =>
      have first : le x y = true := (total x y).resolve_right after
      refine List.pairwise_cons.mpr ⟨fun z mem => ?_, sorted⟩
      rcases List.mem_cons.mp mem with rfl | mem
      · exact first
      · exact trans first (least z mem)

theorem sortBy_pairwise {α : Type} {le : α → α → Bool} (total : ∀ a b, le a b = true ∨ le b a = true)
    (trans : ∀ {a b c}, le a b = true → le b c = true → le a c = true) (l : List α) : (sortBy le l).Pairwise fun a b => le a b = true :=
  List.foldlRecOn (motive := fun (acc : List α) => acc.Pairwise fun a b => le a b = true) l _ .nil fun _ sorted x _ => insertBy_pairwise total trans x sorted

theorem moveEl_good {s : State} {d : Desc} {src n : Nat} (dst : Nat) (good : engBad s d (src, n) = none) :
    moveEl s d src dst n = .inl (engWrite s d dst (engRead s d src n)) := by
  rw [moveEl, good]

theorem moveEl_bad {s : State} {d : Desc} {src n a : Nat} (dst : Nat) (bad : engBad s d (src, n) = some a) : moveEl s d src dst n = .inr a := by
  rw [moveEl, bad]

/-- One element moved: the next stands after it. -/
theorem idxMove_moves {s u : State} {d : Desc} {scatter : Bool} {i : Nat} (n : Nat) (may : engOk s d (idxPlace s d i) (tEl d) (b2n scatter) = true)
    (moved : (if scatter then moveEl s d (fld d 40 8 + i * tEl d) (idxPlace s d i) (tEl d)
      else moveEl s d (idxPlace s d i) (fld d 40 8 + i * tEl d) (tEl d)) = .inl u) :
    idxMove d scatter (n + 1) i s = idxMove d scatter n (i + 1) u := by
  rw [idxMove, may, if_neg (by simp), moved]

theorem idxMove_lost {s : State} {d : Desc} {scatter : Bool} {i a : Nat} (n : Nat) (may : engOk s d (idxPlace s d i) (tEl d) (b2n scatter) = true)
    (lost : (if scatter then moveEl s d (fld d 40 8 + i * tEl d) (idxPlace s d i) (tEl d)
      else moveEl s d (idxPlace s d i) (fld d 40 8 + i * tEl d) (tEl d)) = .inr a) :
    idxMove d scatter (n + 1) i s = engUe s d a := by
  rw [idxMove, may, if_neg (by simp), lost]

theorem idxMove_outside {s : State} {d : Desc} {scatter : Bool} {i : Nat} (n : Nat) (out : engOk s d (idxPlace s d i) (tEl d) (b2n scatter) = false) :
    idxMove d scatter (n + 1) i s = engFault s d 3 (idxPlace s d i) := by
  rw [idxMove, out]
  rfl

/-- The page list's entry of token `i`, kept from the token before where that had the same page. -/
def pageEntry (s : State) (d : Desc) (i : Nat) (cur : Option (Nat × Nat)) : Nat :=
  let j := (tFirst d + i) / max 1 (tTpp d)
  let read := getLe (engRead s d (fld d 32 8 + 8 * j) 8) 0 8
  cur.elim read fun x => if x.1 = j then x.2 else read

/-- The place of token `i` in the page of its entry. -/
def pagePlace (d : Desc) (i e : Nat) : Nat := e + (tFirst d + i) % max 1 (tTpp d) * tEl d

theorem pageMove_succ (d : Desc) (scatter : Bool) (n i : Nat) (cur : Option (Nat × Nat)) (s : State) : pageMove d scatter (n + 1) i cur s =
    if pageOk s d (pageEntry s d i cur) (b2n scatter) = false then engFault s d 2 (pageEntry s d i cur)
    else (if scatter then moveEl s d (fld d 40 8 + i * tEl d) (pagePlace d i (pageEntry s d i cur)) (tEl d)
      else moveEl s d (pagePlace d i (pageEntry s d i cur)) (fld d 40 8 + i * tEl d) (tEl d)).elim
        (pageMove d scatter n (i + 1) (some ((tFirst d + i) / max 1 (tTpp d), pageEntry s d i cur))) (engUe s d) := by
  rcases cur with _ | ⟨k, e⟩ <;>
  · unfold pageMove pageEntry pagePlace
    dsimp only [Option.elim]
    refine if_congr (by simp) rfl ?_
    generalize (ite (scatter = true) _ _ : State ⊕ Nat) = moved
    cases moved <;> rfl

/-- One token moved: the next stands after it, with the entry just read. -/
theorem pageMove_moves {s u : State} {d : Desc} {scatter : Bool} {i : Nat} {cur : Option (Nat × Nat)} (n : Nat)
    (may : pageOk s d (pageEntry s d i cur) (b2n scatter) = true)
    (moved : (if scatter then moveEl s d (fld d 40 8 + i * tEl d) (pagePlace d i (pageEntry s d i cur)) (tEl d)
      else moveEl s d (pagePlace d i (pageEntry s d i cur)) (fld d 40 8 + i * tEl d) (tEl d)) = .inl u) :
    pageMove d scatter (n + 1) i cur s = pageMove d scatter n (i + 1) (some ((tFirst d + i) / max 1 (tTpp d), pageEntry s d i cur)) u := by
  rw [pageMove_succ, if_neg (by simp [may]), moved, Sum.elim_inl]

/-- The entry of a token whose page the token before had is the one that its page list holds. -/
theorem pageEntry_kept {s : State} {d : Desc} {i : Nat} {cur : Option (Nat × Nat)}
    (is : cur = none ∨ cur = some ((tFirst d + i) / max 1 (tTpp d), pageEntry s d i none)) : pageEntry s d i cur = pageEntry s d i none := by
  rcases is with rfl | rfl
  · rfl
  · exact if_pos rfl

/-- Settles O48: each row is its engine's turn; the ranking is a sort by a total order, the moves are taken one element at a time. -/
theorem sieveAndTongsDescriptorsTakeEffect : Obligations.SieveAndTongsDescriptorsTakeEffect := by
  unfold Obligations.SieveAndTongsDescriptorsTakeEffect
  refine ⟨fun s die ecc is => ?rows, fun s d => sortBy_perm _ _, fun s d => ?ordered, fun s d rs => rfl, fun s d => rfl, fun s d n i => ?scatter,
    fun s d n i a may bad => ?gatherLost, fun s d sc i cur => ⟨rfl, rfl⟩, fun s d n i => ?pages, fun s d n i => ?gather,
    fun s d n i sc out => idxMove_outside n out, fun s d n i sc cur => ?pageFault⟩
  case rows =>
    exact ⟨engRow_runs is .., engRow_runs is .., engRow_runs is .., engRow_runs is .., engRow_runs is .., engRow_runs is .., engRow_runs is ..,
      engRow_runs is ..⟩
  case ordered => exact sortBy_pairwise (le := fun a b : Option Int × List Byte => keyLe (decide (fld d 17 1 = 1)) a.1 b.1) (fun a b => keyLe_total _ _ _) (fun ab bc => keyLe_trans ab bc) _
  case scatter =>
    exact fun may => ⟨fun good => idxMove_moves n may (moveEl_good _ good), fun a bad => idxMove_lost n may (moveEl_bad _ bad)⟩
  case gatherLost => exact idxMove_lost n may (moveEl_bad _ bad)
  case gather => exact fun may good => idxMove_moves n may (moveEl_good _ good)
  case pages =>
    refine ⟨fun cur is may good => ?_, fun cur is may good => ?_⟩
    · have moves := pageMove_moves (scatter := false) (cur := cur) n (by rw [pageEntry_kept is]; exact may)
        (by rw [pageEntry_kept is]; exact moveEl_good _ good)
      rwa [pageEntry_kept is] at moves
    · have moves := pageMove_moves (scatter := true) (cur := cur) n (by rw [pageEntry_kept is]; exact may)
        (by rw [pageEntry_kept is]; exact moveEl_good _ good)
      rwa [pageEntry_kept is] at moves
  case pageFault =>
    intro j e no
    have entry : pageOk s d (pageEntry s d i cur) (b2n sc) = false := by cases cur <;> exact no
    rw [pageMove_succ, if_pos entry]
    cases cur <;> rfl

end Sys2Proof.Machine

/-! PROOFS. The Whisk's, the check engine's and PUT's descriptors (O49). -/

namespace Sys2Proof.Machine

/-- Cut into packets, a buffer that they can hold is whole, and each packet is its part of it. -/
theorem partsOfResult_spec (n : Nat) (l : List Byte) (fits : l.length ≤ 2048 * n) : (partsOfResult n l).flatten = l ∧
    ∀ j x, (partsOfResult n l)[j]? = some x → x = (l.drop (2048 * j)).take 2048 ∧ x ≠ [] := by
  induction n generalizing l with
  | zero =>
    have none : l = [] := List.length_eq_zero_iff.mp (by omega)
    simp [partsOfResult, none]
  | succ n ih =>
    rw [partsOfResult]
    rcases l with _ | ⟨b, l⟩
    · simp
    · obtain ⟨whole, parts⟩ := ih ((b :: l).drop 2048) (by rw [List.length_drop]; omega)
      rw [if_neg (by simp)]
      refine ⟨by rw [List.flatten_cons, whole, List.take_append_drop], fun j x at_ => ?_⟩
      cases j with
      | zero =>
        obtain rfl : (b :: l).take 2048 = x := by simpa using at_
        exact ⟨rfl, by simp⟩
      | succ j =>
        obtain ⟨is, some_⟩ := parts j x (by simpa using at_)
        refine ⟨?_, some_⟩
        rw [is, List.drop_drop]
        congr 2
        ring

theorem hubOf_originate (s : State) (d b : Nat) (h : Header) (bs : List Byte) (why : Purpose) (pace : Option Nat) :
    ∃ n, (hubOf (originate s d b h bs why none pace).2 d).held =
      (hubOf s d).held ++ [{ pkt := mkPacket { h with seq := n } bs, block := b, purpose := why, pace := pace }] := by
  refine ⟨BitVec.ofNat 32 (takeSeq s (pairKey h)).1, ?_⟩
  unfold originate holdAt
  rw [hubOf_updHub_self]
  rfl

/-- What PUT has put in its unit's queue after some parts of its buffer: a WRITE for each, in order. -/
theorem held_puts (d : Desc) (parts : List (Nat × List Byte)) (s : State) : ∃ ks : List Held,
    (hubOf (parts.foldl (fun s p => (originate s d.t.die d.block (putHeader s d p.1) p.2 (.put d.t.die d.id) (pace := some d.pace)).2) s) d.t.die).held =
      (hubOf s d.t.die).held ++ ks ∧
    ks.map (fun x => x.pkt.payload) = parts.map Prod.snd ∧
    ∀ (j : Nat) (x : Held), ks[j]? = some x → ∃ p, parts[j]? = some p ∧ x.purpose = .put d.t.die d.id ∧ x.pkt.hdr.addr = BitVec.ofNat 48 (fld d 32 6 + 2048 * p.1) ∧
      x.pkt.hdr.typ.toNat = tWRITE ∧ x.pkt.hdr.dst.toNat = putDst d % 2 ^ 16 := by
  induction parts generalizing s with
  | nil => exact ⟨[], by simp⟩
  | cons p parts ih =>
    obtain ⟨n, first⟩ := hubOf_originate s d.t.die d.block (putHeader s d p.1) p.2 (.put d.t.die d.id) (some d.pace)
    obtain ⟨ks, held, payloads, each⟩ := ih (originate s d.t.die d.block (putHeader s d p.1) p.2 (.put d.t.die d.id) (pace := some d.pace)).2
    refine ⟨_ :: ks, by rw [List.foldl_cons, held, first, List.append_assoc, List.singleton_append], ?_, fun j x at_ => ?_⟩
    · rw [List.map_cons, payloads]
      rfl
    · cases j with
      | zero =>
        obtain rfl : _ = x := by simpa using at_
        exact ⟨p, rfl, rfl, rfl, rfl, BitVec.toNat_ofNat ..⟩
      | succ j => exact each j x (by simpa using at_)

theorem enum_getElem? {α : Type} (l : List α) (j : Nat) : (enum l)[j]? = l[j]?.map fun x => (j, x) := by
  by_cases h : j < l.length <;> simp [enum, h]

theorem map_snd_enum {α : Type} (l : List α) : (enum l).map Prod.snd = l := by
  rw [enum, List.map_snd_zip (by simp)]

/-- What PUT leaves in its unit's queue (09 R234, R235). -/
theorem held_runPut (s : State) (d : Desc) : ∃ ks : List Held, (hubOf (runPut s d) d.t.die).held = (hubOf s d.t.die).held ++ ks ∧
    ks.map (fun x => x.pkt.payload) = partsOfResult (putBytes d / 2048 + 1) (engRead s d (fld d 24 8) (putBytes d)) ∧
    ∀ j x, ks[j]? = some x → x.purpose = .put d.t.die d.id ∧ x.pkt.hdr.addr = BitVec.ofNat 48 (fld d 32 6 + 2048 * j) ∧
      x.pkt.hdr.typ.toNat = tWRITE ∧ x.pkt.hdr.dst.toNat = putDst d % 2 ^ 16 := by
  obtain ⟨ks, held, payloads, each⟩ := held_puts d (enum (partsOfResult (putBytes d / 2048 + 1) (engRead s d (fld d 24 8) (putBytes d)))) s
  refine ⟨ks, held, by rw [payloads, map_snd_enum], fun j x at_ => ?_⟩
  obtain ⟨p, is, purpose, addr, typ, dst⟩ := each j x at_
  rw [enum_getElem?, Option.map_eq_some_iff] at is
  obtain ⟨y, -, rfl⟩ := is
  exact ⟨purpose, addr, typ, dst⟩

/-- Settles O49: each row is its engine's turn; PUT's packets are the parts of its buffer, in order. -/
theorem whiskCheckAndPutTakeEffect : Obligations.WhiskCheckAndPutTakeEffect := by
  unfold Obligations.WhiskCheckAndPutTakeEffect
  refine ⟨fun s die ecc is => ?rows, fun s d => rfl, fun sh a _ => rfl, partsOfResult_spec, held_runPut, fun s d => ?runs, fun s d => ?counts,
    fun s d out => rfl⟩
  case rows =>
    have checkOut_leBytes (n v : Nat) (s : State) (d : Desc) :
        checkOut s d (leBytes n v) = engRun (engWrite s d (fld d 32 8) (leBytes n v)) d n := by rw [checkOut, leBytes_length]
    refine ⟨engRow_runs is .., ?_, engRow_runs is .., ?_, engRow_runs is ..⟩
    · rw [exec, execCrc64, engRow_runs is]
      simp only [checkOut_leBytes]
    · rw [exec, execSumcheck, engRow_runs is]
      simp only [checkOut_leBytes]
  case runs =>
    rw [runPut, engRun, engOf, updEng, Tab.get_upd_self]
  case counts =>
    obtain ⟨ks, held, payloads, -⟩ := held_runPut s d
    rw [held, List.length_append, ← payloads, List.length_map]

end Sys2Proof.Machine

/-! PROOFS. Image load, unload and launch (O27). -/

namespace Sys2Proof.Machine

theorem imgOf_updImg_self (s : State) (i : Nat) (f : Image → Image) : imgOf (updImg s i f) i = f (imgOf s i) := Tab.get_upd_self ..

theorem imgOf_updImg_ne (s : State) {i j : Nat} (f : Image → Image) (other : j ≠ i) : imgOf (updImg s i f) j = imgOf s j :=
  Tab.get_upd_ne _ _ _ other

theorem imgOf_congr {s u : State} (img : u.img = s.img) (j : Nat) : imgOf u j = imgOf s j := by
  rw [imgOf, img]
  rfl

theorem foldl_img {α : Type} {f : State → α → State} (each : ∀ s x, (f s x).img = s.img) (l : List α) (s : State) : (l.foldl f s).img = s.img :=
  List.foldlRecOn (motive := fun (u : State) => u.img = s.img) l f rfl fun u h x _ => (each u x).trans h

theorem clusterSync_img (s : State) (k : Nat) : (clusterSync s k).img = s.img := foldl_img (fun s _ => codeSync_img s _) _ s

theorem wipeCluster_img (s : State) (k : Nat) : (wipeCluster s k).img = s.img := by
  rw [wipeCluster, clusterSync_img]

theorem fillCluster_img (f : List Byte) (i : Nat) (s : State) (k : Nat) : (fillCluster f i s k).img = s.img := by
  have kept (u : State) (clusters : Tab (Option Nat)) (cmem scratch : Mem) :
      ({ u with clusters := clusters, cmem := cmem, scratch := scratch } : State).img = u.img := rfl
  rw [fillCluster, clusterSync_img, kept, wipeCluster_img]

theorem lardZero_img (s : State) (a n : Nat) : (lardZero s a n).img = s.img := rfl

theorem heapGrant_img {s u : State} {i n a : Nat} (granted : heapGrant s i n = some (a, u)) : u.img = s.img := by
  unfold heapGrant at granted
  split at granted
  · cases granted
    rfl
  · obtain ⟨b, -, is⟩ := Option.map_eq_some_iff.mp granted
    cases is
    rfl

/-- An image loaded is what its file and its command name, on the clusters and ranges that it was given; no other image changes (08 R193). -/
theorem loadImage_spec {s u : State} {i b item n : Nat} {f : List Byte} {x : TzNote} (loaded : loadImage s i b item n f x = some u) :
    (∃ ks heap queue, imgOf u i =
      { st := 1, owner := b, item := item, clusters := ks, entries := x.entries, stack := x.stack, waitUs := x.waitUs, depth := x.depth,
        heapBase := heap, heapBytes := x.heap, queueBase := queue, queueMib := alignUp (2112 * x.depth) mib / mib, gp := globalPointer f }) ∧ ∀ j, j ≠ i → imgOf u j = imgOf s j := by
  simp only [loadImage, bind, pure, Option.bind_eq_some_iff] at loaded
  obtain ⟨ks, -, ⟨heap, s1⟩, heapIs, ⟨queue, s2⟩, queueIs, is⟩ := loaded
  cases is
  refine ⟨⟨ks, heap, queue, imgOf_updImg_self ..⟩, fun j other => ?_⟩
  rw [imgOf_updImg_ne _ _ other]
  exact imgOf_congr (((foldl_img (fillCluster_img f i) ks s2).trans (heapGrant_img queueIs)).trans (heapGrant_img heapIs)) j

/-- Freeing an image leaves nothing of it, and every other image as it was (08 R194). -/
theorem imgOf_freeImage (s : State) (i j : Nat) : imgOf (freeImage s i) j = if j = i then {} else imgOf s j := by
  unfold freeImage
  extract_lets x s1 s2 d1 s3
  have wiped : s1.img = s.img := foldl_img (fun s k => by rw [wipeCluster_img]) _ s
  have zeroed : s2.img = s1.img := foldl_img (fun s g => lardZero_img ..) _ s1
  have same : s3.img = s2.img := rfl
  clear_value s3 s2 s1
  split
  · next is => rw [is, imgOf_updImg_self]
  · next other => rw [imgOf_updImg_ne _ _ other, imgOf_congr (same.trans (zeroed.trans wiped))]

/-- Settles O27: the commands' checks in order, the loaded and the freed image, and a group's start by its queue's first launch. -/
theorem galleyCommandsTakeEffect : Obligations.GalleyCommandsTakeEffect := by
  unfold Obligations.GalleyCommandsTakeEffect
  refine ⟨fun s tag i b src item n own runs => ?load, fun s i b item n f x u loaded => ?loaded, fun s tag i runs => ?unload, fun s i => ?freed,
    fun s tag i e a0 a1 runs => ?launch, fun s i e here run started => ?idle, fun s i l pc n e here run first entry => ?group⟩
  case load =>
    rw [exec, execGalleyLoad, lonusCmd_ends runs, galleyLoad]
    simp only [ends_ite, ends_fail]
    refine congrArg _ (if_congr (by simp) rfl (if_congr .rfl rfl (if_congr (by simp [within]) rfl ?_)))
    generalize (ite (src = 1) _ _ : Option (List Byte)) = file
    cases file with
    | none => rfl
    | some f =>
      dsimp only
      cases fileCheck f with
      | error k => rfl
      | ok x =>
        dsimp only
        cases loadImage s i b (if src = 0 then item else 65535) n f x <;> rfl
  case loaded =>
    obtain ⟨⟨ks, heap, queue, is⟩, others⟩ := loadImage_spec loaded
    rw [is]
    exact ⟨rfl, rfl, rfl, rfl, rfl, rfl, rfl, rfl, rfl, rfl, others⟩
  case unload =>
    rw [exec, execGalleyUnload, lonusCmd_ends runs, galleyUnload]
    simp only [ends_ite, ends_fail, ends_answer]
    exact congrArg _ (if_congr .rfl rfl (if_congr (by simp [List.any_eq_true]) rfl rfl))
  case freed => exact ⟨by rw [imgOf_freeImage, if_pos rfl], fun j other => by rw [imgOf_freeImage, if_neg other]⟩
  case launch =>
    rw [exec, execGalleyLaunch, lonusCmd_ends runs, galleyLaunch, queueLaunch]
    dsimp only
    simp only [ends_ite, ends_fail]
    refine congrArg _ (if_congr .rfl rfl (if_congr .rfl rfl (if_congr .rfl rfl ?_)))
    split_ifs <;> rfl
  case idle =>
    have none : ((imgOf s i).queue.find? fun l => !l.started) = none := by simpa using started
    rw [exec, execLaunchGroupStart, onUnit_of (by simpa using here), if_pos run, launchStart]
    rw [none]
  case group =>
    rw [exec, execLaunchGroupStart, onUnit_of (by simpa using here), if_pos run, launchStart]
    refine congrArg Host.Outcome.next (congrArg (after s) ?_)
    dsimp only
    rw [first]
    dsimp only
    rw [entry]
    dsimp only
    cases groupCluster s (imgOf s i) l n with
    | none => rfl
    | some g =>
      obtain ⟨cl, many⟩ := g
      dsimp only
      generalize (ite (l.payload.isSome = true) _ _ : Option (List Byte) × State) = read
      obtain ⟨_ | bs, u⟩ := read <;> rfl

end Sys2Proof.Machine

/-! PROOFS. Contributions (O45). -/

namespace Sys2Proof.Machine

/-- An adder that meets no error adds exactly. -/
theorem ladleSum_ok (j : Nat) (a b : Acc) : ladleSum .ok j a b = accAdd a b := by
  cases a <;> cases b <;> simp [ladleSum, adderOut, accAdd]

theorem ladleElems_ok (olds news : List Acc) : ladleElems .ok olds news = (olds.zip news).map fun e => accAdd e.1 e.2 := by
  simp only [ladleElems, ladleSum_ok]
  conv_rhs => rw [← map_snd_enum (olds.zip news), List.map_map]
  rfl

theorem slotAt_key {s : State} {k : CKey} {x : RSlot} (at_ : slotAt s k = some x) : x.key = k := by
  simpa using List.find?_some at_

/-- A slot updated without its key is found in its next form. -/
theorem slotAt_updSlot {s : State} {k : CKey} {x : RSlot} {f : RSlot → RSlot} (keeps : ∀ y, (f y).key = y.key) (at_ : slotAt s k = some x) :
    slotAt (updSlot s k f) k = some (f x) := by
  have same : ((fun x => decide (x.key = k)) ∘ fun x => if x.key = k then f x else x) = fun x => decide (x.key = k) := by
    funext y
    by_cases is : y.key = k <;> simp [is, keeps]
  have found : (s.coll.slots.find? fun x => decide (x.key = k)) = some x := at_
  rw [slotAt, updSlot, List.find?_map, same, found, Option.map_some, if_pos (slotAt_key at_)]

/-- A slot in normal mode takes an item's elements exactly, each once (06 R150). -/
theorem slotAt_ladleAdd {s : State} {k : CKey} {x : RSlot} (i : CItem) (at_ : slotAt s k = some x) (sums : harnOp s k.h = 0) (slow : harnFast s k.h = false) :
    ∃ y, slotAt (ladleAdd s x .ok i) k = some y ∧ y.elems = (x.elems.zip i.elems).map (fun e => accAdd e.1 e.2) ∧ y.seen = x.seen ∧ y.count = x.count := by
  obtain rfl := slotAt_key at_
  have added := slotAt_updSlot (f := fun y => { y with
    elems := ladleElems .ok y.elems i.elems, k := if sumChecked s x.key.h then checkAdd x.k i.check x.elems i.elems else 0 }) (fun _ => rfl) at_
  have adds : ladleAdd s x .ok i = updSlot s x.key fun y => { y with
      elems := ladleElems .ok y.elems i.elems, k := if sumChecked s x.key.h then checkAdd x.k i.check x.elems i.elems else 0 } := by
    rw [ladleAdd, sums, slow, if_neg (by decide), if_neg Bool.false_ne_true]
  rw [adds, added]
  exact ⟨_, rfl, ladleElems_ok .., rfl, rfl⟩

/-- Settles O45: the checks by `contribCheck`'s order, what a slot takes by `slotAdd`'s, and when a chunk ends by one round of `finish`. -/
theorem contributionsAreAddedOncePerRank : Obligations.ContributionsAreAddedOncePerRank := by
  unfold Obligations.ContributionsAreAddedOncePerRank
  refine ⟨fun s d p none => ?noHarness, fun s d p => ?stepWin, fun s d p => ?checks, fun s w r is => ?refused,
    fun s w code is => ?fault, fun s w faulted => ?jobFault, fun s w k i is => ⟨fun ⟨spills, full⟩ => ?waits, fun stays => ?taken⟩,
    fun s k c i x at_ seen => ?twice, fun s k i x at_ new => ?memory, fun s k c i x at_ new reads fails => ?residue,
    fun s k i x at_ new sums slow good => ?added, fun n s k cs x at_ short => ?short, fun n s k cs x at_ full open_ slow leaf => ?leaf,
    fun s k cs i early => ?early⟩
  case noHarness => simp [contribCheck, none]
  case stepWin =>
    intro h loaded out
    unfold contribCheck
    dsimp only
    rw [if_neg (by simpa using loaded), if_pos out]
  case checks =>
    intro h w c loaded inside
    unfold contribCheck
    dsimp only
    rw [if_neg (by simpa using loaded), if_neg (not_le.mpr inside)] <;> rfl
  case refused => rw [contribTaken, is]
  case fault => rw [contribTaken, is]
  case jobFault => rw [orFaulted, if_pos faulted]
  case waits =>
    rw [contribTaken, is]
    dsimp only
    rw [if_pos (by simp [spills, full])]
  case taken =>
    rw [contribTaken, is]
    dsimp only
    rw [stays, if_neg (by simp), Bool.false_and, Bool.or_false]
  case twice =>
    rw [slotAdd, at_]
    dsimp only
    rw [if_pos seen]
  case memory =>
    rw [slotAdd, at_]
    dsimp only
    rw [if_neg (by simpa using new), if_pos rfl]
  case residue =>
    rw [slotAdd, at_]
    dsimp only
    rw [if_neg (by simpa using new), if_neg reads, if_pos fails]
  case added =>
    obtain ⟨y, at1, elems, seen, count⟩ := slotAt_ladleAdd i at_ sums slow
    refine ⟨{ y with seen := y.seen ++ [i.rank], count := y.count + 1 }, ?_, elems, ?_⟩
    · rw [slotAdd, at_]
      dsimp only
      rw [if_neg (by simpa using new), if_neg (by decide), if_neg (by simpa using good)]
      exact slotAt_updSlot (f := fun y => { y with seen := y.seen ++ [i.rank], count := y.count + 1 }) (fun _ => rfl) at1
    · exact ⟨by rw [seen], by rw [count]⟩
  case short =>
    rw [finish_succ, finishRound, at_]
    exact if_pos (Or.inl short)
  case leaf =>
    have adds : finishing s x = false := by
      rw [finishing, slotAt_key at_, slow, Bool.false_and]
    rw [finish_succ, finishRound, at_]
    dsimp only
    rw [if_neg (by simp [full, open_]), adds, Bool.false_and, if_neg Bool.false_ne_true, if_pos leaf]
    rfl
  case early => rw [enterItem, if_neg (by simp [early])]

end Sys2Proof.Machine

/-! PROOFS. The larder's rows (O21). -/

namespace Sys2Proof.Machine

theorem lardStore_mem (s : State) (a : Nat) (bs : List Byte) : (lardStore s a bs).lard.mem = Mem.write s.lard.mem a bs := rfl

/-- What an addition to an element in the larder makes of it: an integer sum, or the exact sum rounded once, under STEADY from the exact cell. -/
def addSum (s : State) (f a v : Nat) : Nat :=
  let old := ofLe (lardRead s a (elemBits f / 8))
  let cell := match Tab.get none s.lard.cells a with
    | some c => if c.fmt = f then c.acc else convert f old 127
    | none => convert f old 127
  if isIntFmt f then (old + v) % 2 ^ elemBits f
  else roundOut (accAdd (if steady s then cell else convert f old 127) (convert f v 127)) f none

theorem addAt_mem (s : State) (f a v : Nat) :
    (addAt s f a v).lard.mem = Mem.write s.lard.mem a (leBytes (elemBits f / 8) (addSum s f a v)) := by
  unfold addAt addSum addElem
  dsimp only
  cases isIntFmt f
  · cases steady s <;> rfl
  · rfl

theorem partChoice_mem (s : State) (ld b f : Nat) : (partChoice s ld b f).lard.mem = s.lard.mem := by
  unfold partChoice
  split <;> rfl

/-- A part whose request is gone leaves the queue. -/
theorem updLd_tail {s : State} {ld : Nat} {p : LPart} {ps : List LPart} (queue : (ldOf s ld).queue = p :: ps) :
    (updLd s ld fun d => { d with queue := d.queue.tail }) = updLd s ld fun d => { d with queue := ps } := by
  have same : { ldOf s ld with queue := (ldOf s ld).queue.tail } = { ldOf s ld with queue := ps } := by rw [queue, List.tail_cons]
  exact congrArg (fun x => { s with lard := { s.lard with dies := Tab.set {} s.lard.dies ld x } }) same

/-- Settles O21: the parts by the request's kind, the bytes through the memory's laws. -/
theorem larderRowsTakeEffect : Obligations.LarderRowsTakeEffect := by
  unfold Obligations.LarderRowsTakeEffect
  refine ⟨fun s tag a bs runs => ?write, fun s a bs i h => ?stored, fun s a bs x out => ?kept, fun s ld e c here => ?part, fun s ld p alone => ?pop,
    fun s ld r p c kind => ?writePart, fun s ld r p c kind => ?fillPart, fun s ld r p c kind => ?readPart, fun s ld r p k c w kind int => ?atomic,
    fun s ld r p k c w f kind fp => ?fAtomic, fun s ld r p k f kind => ?vadd, fun s ld r p k f kind => ?scatterAdd, fun s ld r p k f kind => ?exact,
    fun s ld r p k kind => ?got, fun s ld r p k kind => ?put, fun s f a v i h => ?sum, fun s f a v x out => ?others,
    fun s ld b f => partChoice_mem s ld b f, fun s st pc w a e stack here => ?refresh⟩
  case write =>
    rw [exec, execLarderWrite, lonusCmd_ends runs, larderWrite]
    simp only [ends_ite, ends_fail, ends_answer]
    exact congrArg _ (if_congr (by simp [hostSpan]) rfl (if_congr (by simp) rfl rfl))
  case stored => rw [lardStore_mem, Mem.byte_write_inside _ _ _ h]
  case kept => rw [lardStore_mem, Mem.byte_write_outside _ _ _ out]
  case part =>
    rw [exec, execLarderRequestPart, onUnit_of (by simpa using here)]
    refine congrArg Host.Outcome.next (congrArg (after s) (if_congr .rfl ?_ rfl))
    unfold lardPart
    cases queue : (ldOf s ld).queue with
    | nil => rfl
    | cons p ps =>
      dsimp only
      cases s.lard.reqs.find? fun r => decide (r.id = p.req) with
      | none => exact updLd_tail queue
      | some r =>
        refine if_congr .rfl rfl ?_
        cases partFails s r p e <;> rfl
  case pop => simp only [partPop, alone]
  case writePart => simp only [partRun, kind]
  case fillPart => simp only [partRun, kind]
  case readPart => simp only [partRun, kind]
  case atomic => simp only [partRun, kind, int]
  case fAtomic => simp only [partRun, kind, fp]
  case vadd => simp only [partRun, kind]
  case scatterAdd => simp only [partRun, kind]
  case exact =>
    simp only [partRun, kind, exactPart] <;>
      cases accOf (ofLe (lardRead s (r.addr + 40 * r.idx) 40)) <;> rfl
  case got => rcases kind with ⟨d, kind, phase⟩ | ⟨kind, phase⟩ <;> simp only [partRun, kind, phase, if_true]
  case put =>
    rcases kind with ⟨d, kind, phase⟩ | ⟨kind, phase⟩
    · simp only [partRun, kind, phase, if_false]
    · simp only [partRun, kind, not_lt.mpr phase, if_false]
  case sum =>
    have at_ : i < (leBytes (elemBits f / 8) (addSum s f a v)).length := by rwa [leBytes_length]
    rw [addAt_mem, Mem.byte_write_inside _ _ _ at_]
    exact (List.getElem?_eq_getElem at_).symm
  case others => rw [addAt_mem, Mem.byte_write_outside _ _ _ (by rwa [leBytes_length])]
  case refresh =>
    rw [exec, execRefreshSlot, onUnit_of (by simp [stack, here])]
    refine congrArg Host.Outcome.next (congrArg (after s) (if_congr .rfl ?_ rfl))
    exact if_congr .rfl (if_congr (or_congr_right List.contains_iff_mem) rfl rfl) rfl

end Sys2Proof.Machine

/-! PROOFS. Overflow, depths, the crossbar's matching and the exchange (O42). -/

namespace Sys2Proof.Machine

theorem headReq_spec {h : Hub} {rs : List XReq} {i o : Nat} {r : XReq} (head : headReq h rs i o = some r) :
    r ∈ rs ∧ r.inp = i ∧ r.out = o ∧ r.ready = true := by
  unfold headReq at head
  extract_lets mine ps port top at head
  obtain ⟨is, ready⟩ := Option.filter_eq_some_iff.mp head
  have portIn : ∀ x, port = some x → x ∈ mine := by
    intro x found
    simp only [port] at found
    split at found
    · next y first =>
      cases found
      exact (List.mem_filter.mp (List.mem_of_find?_eq_some first)).1
    · exact (List.mem_filter.mp (List.mem_of_mem_head? found)).1
  have inMine : r ∈ mine := by
    simp only [top] at is
    clear_value port
    rcases port with _ | a <;> rcases trunk : mine.find? XReq.trunk with _ | b <;> rw [trunk] at is
    · cases is
    · cases is
      exact List.mem_of_find?_eq_some trunk
    · cases is
      exact portIn r rfl
    · dsimp only at is
      split at is
      · cases is
        exact List.mem_of_find?_eq_some trunk
      · cases is
        exact portIn r rfl
  obtain ⟨mem, place⟩ := List.mem_filter.mp inMine
  obtain ⟨inp, out⟩ := of_decide_eq_true place
  exact ⟨mem, inp, out, ready⟩

/-- An output grants one head that asks for it; tclass 3 comes before the rest, and without depths round robin chooses (04 R88, R89). -/
theorem grantOf_spec {h : Hub} {dep : Option (Nat → Nat → Nat)} {rs : List XReq} {m : XMatch} {o k : Nat} {r : XReq}
    (grants : grantOf h dep rs m o = some (r, k)) : (∃ i, headReq h rs i o = some r) ∧ (dep = none → k = 0) ∧
      ∀ i, i < 32 → ∀ x, headReq h rs i o = some x → x.ctl = true → r.ctl = true := by
  unfold grantOf at grants
  extract_lets heads cands at grants
  have sub : ∀ x, x ∈ cands → x ∈ heads := by
    intro x mem
    simp only [cands] at mem
    split at mem
    · exact (List.mem_filter.mp mem).1
    · exact mem
  split at grants
  · cases grants
  · next rr first =>
    extract_lets pick at grants
    obtain ⟨y, found, is⟩ := Option.map_eq_some_iff.mp grants
    obtain ⟨rfl, rfl⟩ := Prod.mk.inj is
    have mem := List.mem_of_find?_eq_some found
    refine ⟨?_, ?_, fun i lt x head ctl => ?_⟩
    · obtain ⟨i, -, head⟩ := List.mem_filterMap.mp (sub _ mem)
      exact ⟨i, head⟩
    · rintro rfl
      simp [pick, b2n]
    · have xIn : x ∈ heads := List.mem_filterMap.mpr ⟨i, List.mem_range.mpr lt, head⟩
      have some_ : heads.any XReq.ctl = true := List.any_eq_true.mpr ⟨x, xIn, ctl⟩
      simp only [cands, some_, if_true] at mem
      exact (List.mem_filter.mp mem).2

/-- The requests that an iteration still matches: none of an input or an output matched before. -/
def openReqs (rs : List XReq) (m : XMatch) : List XReq := rs.filter fun r => !(m.acc.any fun a => decide (a.inp = r.inp ∨ a.out = r.out))

theorem mem_openReqs {rs : List XReq} {m : XMatch} {r : XReq} : r ∈ openReqs rs m ↔ r ∈ rs ∧ ∀ a ∈ m.acc, a.inp ≠ r.inp ∧ a.out ≠ r.out := by
  simp [openReqs, List.mem_filter]

/-- An iteration's grants, at most one of an output. -/
def grantsOf (h : Hub) (dep : Option (Nat → Nat → Nat)) (rs : List XReq) (m : XMatch) : List XReq :=
  ((List.range 32).filterMap (grantOf h dep rs m)).map Prod.fst

theorem iterate_acc (h : Hub) (dep : Option (Nat → Nat → Nat)) (rs : List XReq) (b : Bool) (m : XMatch) :
    (iterate h dep rs b m).acc = m.acc ++ (List.range 32).flatMap (acceptOf m (grantsOf h dep (openReqs rs m) m)) := rfl

theorem mem_grantsOf {h : Hub} {dep : Option (Nat → Nat → Nat)} {rs : List XReq} {m : XMatch} {r : XReq} (mem : r ∈ grantsOf h dep rs m) :
    r ∈ rs ∧ r.ready = true := by
  obtain ⟨⟨y, k⟩, granted, rfl⟩ := List.mem_map.mp mem
  obtain ⟨o, -, is⟩ := List.mem_filterMap.mp granted
  obtain ⟨i, head⟩ := (grantOf_spec is).1
  obtain ⟨there, -, -, ready⟩ := headReq_spec head
  exact ⟨there, ready⟩

theorem grantsOf_outs_nodup (h : Hub) (dep : Option (Nat → Nat → Nat)) (rs : List XReq) (m : XMatch) : ((grantsOf h dep rs m).map XReq.out).Nodup := by
  have own : ∀ o out, out ∈ (grantOf h dep rs m o).map (fun g => g.1.out) → out = o := by
    intro o out mem
    obtain ⟨⟨r, k⟩, is, rfl⟩ := Option.map_eq_some_iff.mp mem
    obtain ⟨i, head⟩ := (grantOf_spec is).1
    exact (headReq_spec head).2.2.1
  rw [grantsOf, List.map_map, List.map_filterMap]
  exact List.Nodup.filterMap (fun a b out ma mb => (own a out ma).symm.trans (own b out mb)) List.nodup_range

theorem foldl_fresh_sublist (l acc : List XReq) :
    ∃ t, l.foldl (fun acc x => if acc.any fun y => decide (y.dest = x.dest) then acc else acc ++ [x]) acc = acc ++ t ∧ t.Sublist l := by
  induction l generalizing acc with
  | nil => exact ⟨[], by simp, .slnil⟩
  | cons x l ih =>
    rw [List.foldl_cons]
    split
    · obtain ⟨t, is, sub⟩ := ih acc
      exact ⟨t, is, sub.cons x⟩
    · obtain ⟨t, is, sub⟩ := ih (acc ++ [x])
      exact ⟨x :: t, by rw [is, List.append_assoc, List.singleton_append], sub.cons_cons x⟩

/-- An input accepts of its own grants, each once. -/
theorem acceptOf_sublist (m : XMatch) (gs : List XReq) (i : Nat) : (acceptOf m gs i).Sublist (gs.filter fun r => decide (r.inp = i)) := by
  unfold acceptOf
  extract_lets mine
  split
  · exact List.nil_sublist _
  · split
    · exact List.nil_sublist _
    · next r found =>
      split
      · obtain ⟨t, is, sub⟩ := foldl_fresh_sublist (mine.filter fun x => decide (x.id = r.id)) []
        rw [is, List.nil_append]
        exact sub.trans List.filter_sublist
      · exact List.singleton_sublist.mpr (List.mem_of_find?_eq_some found)

theorem accepts_outs_nodup (m : XMatch) {gs : List XReq} (outs : (gs.map XReq.out).Nodup) (is : List Nat) (each : is.Nodup) :
    ((is.flatMap (acceptOf m gs)).map XReq.out).Nodup := by
  rw [List.map_flatMap, List.nodup_flatMap]
  refine ⟨fun i _ => outs.sublist (((acceptOf_sublist m gs i).trans List.filter_sublist).map _), each.imp fun {i j} differ out mi mj => ?_⟩
  obtain ⟨x, mx, rfl⟩ := List.mem_map.mp mi
  obtain ⟨y, my, same⟩ := List.mem_map.mp mj
  obtain ⟨gx, ix⟩ := List.mem_filter.mp ((acceptOf_sublist m gs i).subset mx)
  obtain ⟨gy, iy⟩ := List.mem_filter.mp ((acceptOf_sublist m gs j).subset my)
  obtain rfl := List.inj_on_of_nodup_map outs gy gx same
  exact differ ((of_decide_eq_true ix).symm.trans (of_decide_eq_true iy))

theorem mem_accepts {m : XMatch} {gs : List XReq} {is : List Nat} {r : XReq} (mem : r ∈ is.flatMap (acceptOf m gs)) : r ∈ gs := by
  obtain ⟨i, -, mi⟩ := List.mem_flatMap.mp mem
  exact (List.mem_filter.mp ((acceptOf_sublist m gs i).subset mi)).1

/-- What an iteration adds to the matching: ready heads whose input and output were not matched (04 R88). -/
theorem mem_iterate {h : Hub} {dep : Option (Nat → Nat → Nat)} {rs : List XReq} {b : Bool} {m : XMatch} {r : XReq} (mem : r ∈ (iterate h dep rs b m).acc) :
    r ∈ m.acc ∨ (r ∈ rs ∧ r.ready = true ∧ ∀ a ∈ m.acc, a.inp ≠ r.inp ∧ a.out ≠ r.out) := by
  rw [iterate_acc, List.mem_append] at mem
  refine mem.imp_right fun new => ?_
  obtain ⟨isOpen, ready⟩ := mem_grantsOf (mem_accepts new)
  obtain ⟨there, free⟩ := mem_openReqs.mp isOpen
  exact ⟨there, ready, free⟩

/-- An output is matched once. -/
theorem iterate_outs_nodup (h : Hub) (dep : Option (Nat → Nat → Nat)) (rs : List XReq) (b : Bool) {m : XMatch} (outs : (m.acc.map XReq.out).Nodup) :
    ((iterate h dep rs b m).acc.map XReq.out).Nodup := by
  rw [iterate_acc, List.map_append, List.nodup_append']
  refine ⟨outs, accepts_outs_nodup m (grantsOf_outs_nodup h dep _ m) _ List.nodup_range, fun out old new => ?_⟩
  obtain ⟨a, ma, rfl⟩ := List.mem_map.mp old
  obtain ⟨r, mr, same⟩ := List.mem_map.mp new
  exact ((mem_openReqs.mp (mem_grantsOf (mem_accepts mr)).1).2 a ma).2 same.symm

/-- Updating the dies of a list, each once, gives each its own update. -/
theorem hubOf_foldl_updHub (f : Nat → Hub → Hub) {d : Nat} (l : List Nat) (once : l.Nodup) (s : State) :
    hubOf (l.foldl (fun s d => updHub s d (f d)) s) d = if d ∈ l then f d (hubOf s d) else hubOf s d := by
  induction l generalizing s with
  | nil => rfl
  | cons e l ih =>
    obtain ⟨new, rest⟩ := List.nodup_cons.mp once
    rw [List.foldl_cons, ih rest]
    by_cases is : d = e
    · subst is
      rw [if_neg new, if_pos List.mem_cons_self, hubOf_updHub_self]
    · have same : hubOf (updHub s e (f e)) d = hubOf s d := Tab.get_upd_ne _ _ _ is
      rw [same]
      exact if_congr (by simp [is]) rfl rfl

theorem dieOf_updHub (s : State) (d p : Nat) (f : Hub → Hub) : dieOf (updHub s d f) p = dieOf s p := rfl

/-- Two ways through a list that agree on every state of a kind, which one of them keeps, end alike. -/
theorem foldl_agree {α : Type} {P : State → Prop} {f g : State → α → State} (kept : ∀ u x, P u → P (g u x)) (agree : ∀ u x, P u → f u x = g u x)
    (l : List α) (u : State) (start : P u) : l.foldl f u = l.foldl g u := by
  induction l generalizing u with
  | nil => rfl
  | cons x l ih =>
    rw [List.foldl_cons, List.foldl_cons, agree u x start]
    exact ih _ (kept u x start)

/-- The dies of the ports do not change as the dies share, so every die sees the ports of the state before. -/
theorem foldl_ovfView (s : State) (ov l : List Nat) (u : State) (same : ∀ p, dieOf u p = dieOf s p) :
    l.foldl (fun u d => updHub u d fun h => { h with ovfView := ov.filter fun p => decide (dieOf u p ≠ d) }) u =
      l.foldl (fun u d => updHub u d fun h => { h with ovfView := ov.filter fun p => decide (dieOf s p ≠ d) }) u :=
  foldl_agree (P := fun u => ∀ p, dieOf u p = dieOf s p) (fun u d same p => (dieOf_updHub ..).trans (same p))
    (fun u d same => congrArg (updHub u d) (funext fun h => by simp only [same])) l u same

theorem hubOf_shareOvf (s : State) {d : Nat} (die : d < 4) : hubOf (shareOvf s) d = { hubOf s d with
    ovfView := ((allPorts s).filter fun p => (portOf s p).ovf).filter fun p => decide (dieOf s p ≠ d) } := by
  unfold shareOvf
  extract_lets ov
  rw [foldl_ovfView s ov (List.range 4) s fun _ => rfl,
    hubOf_foldl_updHub (fun d h => { h with ovfView := ov.filter fun p => decide (dieOf s p ≠ d) }) (List.range 4) List.nodup_range s,
    if_pos (List.mem_range.mpr die)]

theorem hubOf_foldl_emptied (s : State) {d : Nat} (die : d < 4) :
    hubOf ((List.range 4).foldl (fun s d => updHub s d fun h => { h with echoes := [] }) s) d = { hubOf s d with echoes := [] } := by
  rw [hubOf_foldl_updHub (fun _ h => { h with echoes := [] }) (List.range 4) List.nodup_range s, if_pos (List.mem_range.mpr die)]

theorem drained_of_open {s : State} (unsealed : s.epoch.sealed = false) : drained s = s := by
  rw [drained, unsealed, if_neg Bool.false_ne_true]

theorem reseed_steady {s : State} {d : Nat} (st : steady s = true) (idle : ∀ e ∈ (hubOf s d).xq, holdsCell e = false) :
    reseed s d = updHub s d fun h => { h with gPtr := (List.range 32).map fun j => seedPtr (arbSeed s d) j,
                                              aPtr := (List.range 32).map fun j => seedPtr (arbSeed s d) (32 + j) } := by
  have none : (hubOf s d).xq.any holdsCell = false := List.any_eq_false.mpr fun e mem => by simp [idle e mem]
  rw [reseed, st, none]
  rfl

/-- Settles O42: the rows by their definitions, the matching by what a grant and an acceptance are. -/
theorem queueMaintenanceTakesEffect : Obligations.QueueMaintenanceTakesEffect := by
  unfold Obligations.QueueMaintenanceTakesEffect
  refine ⟨fun s p eccs here => ?drain, fun n s p es f fs list good room free => ?drains, fun s => ?exhausted, fun s => rfl, fun s p => ?window,
    fun s => rfl, fun s p up ovf => ?histogram, fun s => rfl, fun s => rfl, fun s d p die => ?shareOvf, fun s d die => ?shareEchoes,
    fun s sealed_ draining gone => ?drained, fun s => drained_of_open, fun s d die => ?cellTime, fun h dep rs b m => iterate_outs_nodup h dep rs b,
    fun h dep rs b m r => mem_iterate, fun h dep rs m => ⟨rfl, rfl⟩, fun h dep rs m o r k grants => (grantOf_spec grants).2,
    fun d s r e x n entry left cannot => ?stays, fun s e p notUp => ?flush, fun s e p up div => ?divert, fun s e p up keeps => ?insert,
    fun s d st idle j lt => ?reseeds, fun s d notSteady => ?keepsPtr⟩
  case drain =>
    rw [exec, execOverflowDrain, onUnit_of here, drainPort]
    exact congrArg Host.Outcome.next (congrArg (after s) (if_congr (by simp) rfl rfl))
  case drains =>
    have fits : (!f.bad && decide (egOcc (portOf s p) + cellsOf f.pkt ≤ ovfOn s p) && egRoom s p f) = true := by simp [good, room, free]
    constructor <;>
    · rw [drainList, list]
      dsimp only
      rw [if_pos fits]
      rfl
  case exhausted =>
    rw [exec, execOvfExhausted, done_eq, ovfExhaust]
    refine congrArg Host.Outcome.next (congrArg (after s) ?_)
    cases minBy (fun b => -(ovfBytes s b : Int)) (loadedBlocks s) with
    | none => split <;> rfl
    | some b =>
      dsimp only
      by_cases full : 99 ≤ ovfPct s
      · rw [if_pos full]
        refine if_congr (by simp [not_lt.mpr full]) rfl ?_
        cases s.lard.lastOvfFault <;> rfl
      · rw [if_neg full, if_pos (Or.inl (not_le.mp full))]
  case window =>
    rw [markWindow, portOf_updPort_self]
    refine ⟨rfl, rfl, ⟨_, rfl, le_max_left .., ?_⟩, fun q other => portOf_updPort_ne s _ other⟩
    exact max_le_max_left _ (min_le_left ..)
  case histogram =>
    rw [histSample, if_pos up, portOf_updPort_self]
    dsimp only
    rw [ovf, if_pos rfl, Tab.get_set_self]
  case shareOvf =>
    rw [hubOf_shareOvf s die]
    simp only [List.mem_filter, decide_eq_true_eq, and_assoc]
  case shareEchoes =>
    rw [shareEchoes, hubOf_foldl_emptied _ die]
  case drained =>
    rw [drained, if_pos sealed_, if_pos ⟨draining, gone⟩]
    exact ⟨rfl, rfl⟩
  case cellTime => rw [exec, execCrossbarCellTime, onUnit_of (by simpa using die)]
  case stays =>
    rw [moveCell, entry]
    dsimp only
    rw [left]
    dsimp only
    rw [cannot]
    rfl
  case flush => rw [cellToPort, if_pos rfl, if_pos notUp]
  case divert => rw [cellToPort, if_pos rfl, if_neg (not_not.mpr up), if_pos div]
  case insert => rw [cellToPort, if_pos rfl, if_neg (not_not.mpr up), if_neg (by simp [keeps])]
  case reseeds =>
    rw [reseed_steady st idle, hubOf_updHub_self]
    simp [lt]
  case keepsPtr => simp [reseed, notSteady]

end Sys2Proof.Machine

/-! PROOFS. The machine after reset (O53), and what a step runs (O50). -/

namespace Sys2Proof.Machine

theorem winEnable_default : winEnable {} = false := by decide

/-- Settles O53: the state after reset is written out, so each part is read off it. -/
theorem resetStateIsOff : Obligations.ResetStateIsOff := by
  unfold Obligations.ResetStateIsOff
  exact ⟨rfl, rfl, rfl, rfl, rfl, fun b => rfl, fun h => rfl, fun i => rfl, fun k => rfl, rfl, rfl, rfl, rfl, fun w => winEnable_default,
    fun p => nofun,
    rfl, rfl, rfl, rfl, rfl, rfl, rfl, rfl, fun r d => rfl⟩

theorem liveCores_of_none {s : State} (none : ∀ e ∈ s.thr, e.2.live = false) : liveCores s = [] := by
  have empty : s.thr.filter (fun e => e.2.live) = [] := List.filter_eq_nil_iff.mpr fun e mem => by simp [none e mem]
  rw [liveCores, empty]
  rfl

/-- Settles O50: a step is its front command's execution, or on an empty queue the passing of time and one core's issue. -/
theorem stepRunsTheFrontCommand : Obligations.StepRunsTheFrontCommand := by
  unfold Obligations.StepRunsTheFrontCommand
  refine ⟨fun c rest s front => ?front, fun c s t next => ?keeps, fun s empty => ?empty, fun s none => ?noThread, fun s run one => ?one,
    fun s c k run first stands => ?issues, fun s t op rd a b word => rfl, fun s t f3 a b imm taken => ?branch,
    fun s t w i running fetched decoded => ?stands⟩
  case front => rw [step, front]
  case keeps =>
    rcases exec_shape c s with ⟨u, is⟩ | is
    · obtain rfl := Host.Outcome.next.inj (next.symm.trans is)
      exact ⟨rfl, rfl⟩
    · cases next.symm.trans is
  case empty =>
    rw [step, empty]
    exact done_eq ..
  case noThread =>
    rw [idleTick, galleyCycle, liveCores_of_none (s := timeTick s) none]
    rfl
  case one => rw [idleTick, galleyCycle, one]
  case issues =>
    refine ⟨fun u => run (issued u { c with thread := k }), ?_, rfl⟩
    rw [coreIssue, first, Option.bind_some]
    dsimp only
    rw [stands]
  case branch =>
    unfold meaningOf
    exact if_pos taken
  case stands => rw [standing, if_neg running, fetched] <;> simp [decoded]

end Sys2Proof.Machine

/-! PROOFS. Reads (O1, O2) and the debug lock (O5). -/

namespace Sys2Proof.Machine

/-- An answer that depends on a check. -/
theorem answered_ite {c : Prop} {_ : Decidable c} (s t : State) (tag op : Nat) (a b : Reply) :
    answered s t tag op (if c then a else b) = if c then answered s t tag op a else answered s t tag op b := by
  split <;> rfl

/-- Settles O1: each read's body answers and leaves the state. -/
theorem identityReadsAnswerAndChangeNothing : Obligations.IdentityReadsAnswerAndChangeNothing := by
  unfold Obligations.IdentityReadsAnswerAndChangeNothing
  refine ⟨fun s tag runs => lonusCmd_ends runs _, fun s tag runs => lonusCmd_ends runs _, fun s tag nonce runs => lonusCmd_ends runs _,
    fun s tag runs => ?measure, fun s tag runs => lonusCmd_ends runs _, fun s tag runs => ?presence, fun s tag runs => lonusCmd_ends runs _,
    fun s tag runs => lonusCmd_ends runs _, fun s tag image t runs => ?thread⟩
  case measure =>
    rw [exec, execIdMeasure, lonusCmd_ends runs, ends_ite, answered_ite]
    exact congrArg _ (if_congr List.isEmpty_iff rfl rfl)
  case presence =>
    rw [exec, execPresenceStatus, lonusCmd_ends runs, words, List.flatMap_singleton]
    rfl
  case thread =>
    rw [exec, execDebugThread, threadItems, lonusCmd_ends runs]
    simp only [ends_ite, answered_ite]
    exact congrArg _ (if_congr (by simp) rfl (if_congr (by simp) rfl rfl))

/-- Settles O2: each read's body answers its registers' words and leaves the state. -/
theorem statusReadsAnswerTheirRegisters : Obligations.StatusReadsAnswerTheirRegisters := by
  unfold Obligations.StatusReadsAnswerTheirRegisters
  refine ⟨fun s tag runs => lonusCmd_ends runs _, fun s tag runs => lonusCmd_ends runs _, fun s tag runs => lonusCmd_ends runs _,
    fun s tag runs => lonusCmd_ends runs _, fun s tag runs => lonusCmd_ends runs _, fun s tag runs => lonusCmd_ends runs _,
    fun s tag b runs => ?job, fun s tag h runs => ?harness, fun s tag i runs => ?galley, fun s tag p runs => ?link, fun s tag runs => ?plan,
    fun s tag k runs => ?record, fun s tag runs => lonusCmd_ends runs _⟩
  case job =>
    rw [exec, execJobStatus, lonusCmd_ends runs, ends_ite, answered_ite]
    rfl
  case harness =>
    rw [exec, execHarnessStatus, lonusCmd_ends runs, ends_ite, answered_ite]
    rfl
  case galley =>
    rw [exec, execGalleyStatus, lonusCmd_ends runs, ends_ite, answered_ite]
    rfl
  case link =>
    rw [exec, execLinkStatus, onPortCmd_ends' runs, answered_ite]
    rfl
  case plan =>
    rw [exec, execPlanRead, lonusCmd_ends runs]
    cases s.nv.plan <;> rfl
  case record =>
    rw [exec, execRecordStatus, lonusCmd_ends runs, recordStatus]
    simp only [ends_ite, answered_ite]
    rfl

/-- Settles O5: the lock and its sessions by their bodies' checks. -/
theorem debugCommandsTakeEffect : Obligations.DebugCommandsTakeEffect := by
  unfold Obligations.DebugCommandsTakeEffect
  refine ⟨fun s tag runs => lonusCmd_ends runs _, fun s tag runs => ?lock, fun s tag i runs => ?attach, fun s tag i runs => ?detach,
    fun s tag i t runs => ?resume⟩
  case lock =>
    rw [exec, execDebugLock, lonusCmd_ends runs]
    rfl
  case attach =>
    rw [exec, execDebugAttach, lonusCmd_ends runs]
    simp only [ends_ite]
    exact congrArg _ (if_congr (by simp) rfl rfl)
  case detach =>
    rw [exec, execDebugDetach, lonusCmd_ends runs, ends_ite]
    simp only [resumeThreads, decide_eq_true_eq, ite_not]
    rfl
  case resume =>
    rw [exec, execDebugResume, threadItems, lonusCmd_ends runs]
    simp only [ends_ite]
    exact congrArg _ (if_congr (by simp) rfl (if_congr (by simp) rfl (if_congr (by simp) rfl rfl)))

end Sys2Proof.Machine

/-! PROOFS. Owner record and firmware slots (O4), presence and seals (O6), sessions and heartbeat (O7). -/

namespace Sys2Proof.Machine

/-- Two changes of slot next are one. -/
theorem updNext_updNext (s : State) (f g : Slot → Slot) : updNext (updNext s f) g = updNext s fun x => g (f x) := by
  cases dev : s.nv.curIsF1 <;> simp [updNext, updNv, setDev, slotAtDev, dev]

theorem nextSlot_updNext (s : State) (f : Slot → Slot) : nextSlot (updNext s f) = f (nextSlot s) := by
  cases dev : s.nv.curIsF1 <;> simp [nextSlot, updNext, updNv, setDev, slotAtDev, dev]

theorem currentSlot_updNext (s : State) (f : Slot → Slot) : currentSlot (updNext s f) = currentSlot s := by
  cases dev : s.nv.curIsF1 <;> simp [currentSlot, updNext, updNv, setDev, slotAtDev, dev]

theorem ownerOk_iff (r : List Byte) : ownerOk r = true ↔
    r.length = 256 ∧ getLe r 0 2 = 1 ∧ nameOk (slice r 68 64) = true ∧ ∀ b ∈ slice r 2 2 ++ slice r 132 124, b = 0 := by
  simp only [ownerOk, Bool.and_eq_true, decide_eq_true_eq, List.all_eq_true, and_assoc]

/-- A set that a command stages, as its bulk brings it. -/
def stagedSet (s : State) (b : List Byte) (st : SlotState) : State :=
  updNext (beginStage s) fun p => { p with state := st, set := some (parseSet b b.length), ownerDigest := ownerDigest s, reachedReady := false }

theorem stagedSet_writing (s : State) (b : List Byte) : stagedSet s b .writing =
    updNext (beginStage s) fun p => { p with set := some (parseSet b b.length), ownerDigest := ownerDigest s, reachedReady := false } := by
  rw [stagedSet, beginStage, updNext_updNext, updNext_updNext]

theorem stagedSet_staged (s : State) (b : List Byte) : updNext (stagedSet s b .writing) (fun p => { p with state := .staged }) = stagedSet s b .staged := by
  rw [stagedSet, updNext_updNext]
  rfl

theorem fwStage_eq (tag : Nat) (own : List Byte) (s : State) (some_ : bulkOf s tag own ≠ []) : fwStage tag own s =
    if (bulkOf s tag own).length < 60672 then fail (stagedSet s (bulkOf s tag own) .writing) .badParam
    else (stageFails (stagedSet s (bulkOf s tag own) .writing) (bulkOf s tag own) (bulkOf s tag own).length).elim
      (answer (emit (stagedSet s (bulkOf s tag own) .staged) evFwStaged [(parseSet (bulkOf s tag own) (bulkOf s tag own).length).set]) (rep .ok))
      (fail (stagedSet s (bulkOf s tag own) .writing)) := by
  unfold fwStage
  dsimp only
  generalize bulkOf s tag own = b at some_
  rw [if_neg (by simpa using some_), ← stagedSet_writing, stagedSet_staged]
  generalize stagedSet s b .staged = v
  generalize stagedSet s b .writing = u
  by_cases short : b.length < setHeadBytes
  · rw [if_pos short, if_pos (show b.length < 60672 from short)]
  · rw [if_neg short, if_neg (show ¬ b.length < 60672 from short)]
    cases stageFails u b b.length <;> rfl

theorem stageAbort_bad {s : State} (writing : (nextSlot s).state = .writing) : (nextSlot (stageAbort s)).state = .bad := by
  unfold stageAbort updNv
  unfold nextSlot at writing ⊢
  cases dev : s.nv.curIsF1 <;> simp_all

/-- Settles O4: the owner's checks as one condition; staging as one change of slot next. -/
theorem ownerAndFirmwareCommandsTakeEffect : Obligations.OwnerAndFirmwareCommandsTakeEffect := by
  unfold Obligations.OwnerAndFirmwareCommandsTakeEffect
  refine ⟨fun s tag record runs => ?ownerSet, fun s tag runs => ?ownerClear, fun s tag data runs some_ => ?stage, fun s tag data runs none => ?noBulk,
    fun s => stageAbort_bad, fun s tag runs => ?arm, fun s tag runs => lonusCmd_ends runs _,
    fun s f => ⟨nextSlot_updNext s f, currentSlot_updNext s f⟩⟩
  case ownerSet =>
    rw [exec, execIdOwnerSet, lonusCmd_ends runs, ownerSet]
    dsimp only
    rw [ends_ite]
    generalize bulkOf s tag record = r
    by_cases ok : ownerOk r = true ∧ s.nv.owner = none
    · obtain ⟨good, free⟩ := ok
      have all := (ownerOk_iff r).mp good
      rw [if_neg (by simp [good, free]), if_pos ⟨all.1, all.2.1, all.2.2.1, all.2.2.2, free⟩]
      rfl
    · rw [if_pos, if_neg]
      · rfl
      · exact fun ⟨len, version, name, zeros, free⟩ => ok ⟨(ownerOk_iff r).mpr ⟨len, version, name, zeros⟩, free⟩
      · cases good : ownerOk r with
        | false => rfl
        | true =>
          cases free : s.nv.owner with
          | none => exact absurd ⟨good, free⟩ ok
          | some o => rfl
  case ownerClear =>
    rw [exec, execIdOwnerClear, lonusCmd_ends runs, ends_ite]
    exact congrArg _ (if_congr Option.isNone_iff_eq_none rfl rfl)
  case stage =>
    rw [exec, execFwStage, lonusCmd_ends runs, fwStage_eq tag data s some_, ends_ite]
    refine congrArg _ (if_congr .rfl rfl ?_)
    change ends s tag 0x0A01 (Option.elim _ _ _) = match stageFails (stagedSet s (bulkOf s tag data) .writing) _ _ with | some st => _ | none => _
    cases stageFails (stagedSet s (bulkOf s tag data) .writing) (bulkOf s tag data) (bulkOf s tag data).length <;> rfl
  case noBulk =>
    rw [exec, execFwStage, lonusCmd_ends runs, fwStage, none]
    rfl
  case arm =>
    rw [exec, execFwArm, lonusCmd_ends runs, ends_ite]
    rfl

/-- Settles O6: the window and the loops outside Off. -/
theorem presenceAndSealsTakeEffect : Obligations.PresenceAndSealsTakeEffect := by
  unfold Obligations.PresenceAndSealsTakeEffect
  refine ⟨fun s on => ?button, fun s on => ?jumper, fun s => ?close, fun s b on => ?opens, fun s b on => ?closes, fun s tag runs => lonusCmd_ends runs _⟩
  case button =>
    rw [exec, execPresenceOpen, done_eq, presenceOpen, if_pos (by simpa [alive] using on)]
    simp only [Bool.or_false, Bool.false_eq_true, if_false]
  case jumper =>
    rw [exec, execPresenceOpen, done_eq, presenceOpen, if_pos (by simpa [alive] using on)]
    simp only [Bool.or_true, if_true]
  case close =>
    rw [exec, execPresenceClose, done_eq, presenceClose]
    refine congrArg Host.Outcome.next (congrArg (after s) (if_congr .rfl ?_ rfl))
    cases s.mgmt.jumper <;> rfl
  case opens =>
    have on : alive s = true := by simpa [alive] using on
    rw [exec, execSealOpen, done_eq, on, Bool.true_and]
    refine congrArg Host.Outcome.next (congrArg (after s) ?_)
    cases loopOpen s b <;> cases b <;> rfl
  case closes =>
    have on : alive s = true := by simpa [alive] using on
    rw [exec, execSealClose, done_eq, on, Bool.true_and]
    refine congrArg Host.Outcome.next (congrArg (after s) ?_)
    cases loopOpen s b <;> cases b <;> rfl

end Sys2Proof.Machine

/-! PROOFS. Sessions and the heartbeat (O7). -/

namespace Sys2Proof.Machine

theorem stopEvent_none {s : State} (none : s.nv.stop = none) : stopEvent s = s := by
  rw [stopEvent, none]

theorem stopEvent_some {s : State} {r : StopRecord} (stop : s.nv.stop = some r) : stopEvent s =
    let u := { s with nv := { s.nv with stop := none } }
    if r.cause = 3 then emit u evPinReset [r.state, r.axle] else emit u evProtective [r.cause, r.axle] := by
  rw [stopEvent, stop]
  rfl

/-- An open session's end keeps its number. -/
theorem endOpen_session (s : State) : (if s.lonus.opened then endSession s else s).lonus.session = s.lonus.session := by
  split
  · rw [endSession_lonus]
  · rfl

/-- Settles O7: a session's end and start by their records, the heartbeat by its body. -/
theorem sessionsAndHeartbeatTakeEffect : Obligations.SessionsAndHeartbeatTakeEffect := by
  unfold Obligations.SessionsAndHeartbeatTakeEffect
  refine ⟨fun s tag rx runs => ?opens, fun s => stopEvent_none, fun s r => stopEvent_some, fun s => ?ended, fun s tag runs => lonusCmd_ends runs _,
    fun s r closing => ?closed, fun s tag q runs => ?beat, fun s on => ?orphan⟩
  case opens =>
    rw [exec, execSessionOpen, lonusCmd_ends runs, sessionOpen, ends_ite]
    refine congrArg _ (if_congr (by simp [within]) ?_ rfl)
    dsimp only
    rw [endOpen_session]
    rfl
  case ended =>
    rw [endSession_lonus]
    exact ⟨rfl, rfl, rfl, rfl, rfl, rfl, rfl, rfl, rfl⟩
  case closed =>
    rw [sendResponse]
    rw [if_pos (by rw [sendFrame_lonus]; exact closing), endSession_lonus]
  case beat =>
    rw [exec, execHeartbeat, lonusCmd_ends runs]
    dsimp only
    rw [ends_ite]
    by_cases small : q < 2 ^ 32
    · rw [if_pos small, if_neg (not_le.mpr small), heartbeat]
      cases beats : s.lonus.orphan
      · rw [if_neg (by simp [updLonus, beats]), ends_answer]
        simp only [Bool.false_eq_true, if_false, beats, updLonus]
      · rw [if_pos (by simp [updLonus, beats]), if_pos rfl, ends_answer]
        rfl
    · rw [if_neg small, if_pos (not_lt.mp small)]
      rfl
  case orphan =>
    rw [exec, execOrphanEnter, done_eq, orphanEnter]
    have on : alive s = true := by simpa [alive] using on
    rw [on]
    cases s.lonus.orphan <;> rfl

end Sys2Proof.Machine

/-! PROOFS. Frames from the host (O8) and to it (O9). -/

namespace Sys2Proof.Machine

theorem rowFrame_nil (f : Frame) : rowFrame f [] 0 = f := rfl

theorem frameIn_of {s : State} {f : Frame} (on : s.mod.st ≠ .off) (up : s.lonus.lineUp = true) :
    frameIn s f = if frameOk s f = false then frameBad s else if f.ftype = 1 then commandIn s f else bulkIn s f := by
  rw [frameIn, if_neg (by simp [alive, on, up])]
  cases frameOk s f <;> rfl

theorem frameIn_deaf {s : State} (f : Frame) (deaf : s.mod.st = .off ∨ s.lonus.lineUp = false) : frameIn s f = s := by
  rw [frameIn, if_pos (by simpa [alive] using deaf)]

/-- A bulk frame of a command other than FW_STAGE (14 R354, R357). -/
theorem bulkIn_of {s : State} {f : Frame} {c : Cmd} (found : frameCmd s f = some c) (due : c.bulkDone = false) (op : c.op ≠ 0x0A01) : bulkIn s f =
    if c.lastAt + 1000000000 < s.now then completeAs s (some c) c.tag c.op (rep .timeout)
    else if f.word.toNat = c.bulk.length ∧ f.code.toNat = c.op ∧ c.bulk.length + f.payload.length ≤ c.word ∧
        f.last = decide (c.bulk.length + f.payload.length = c.word) then
      setCmd s c { c with bulk := c.bulk ++ f.payload, bulkDone := f.last, lastAt := s.now, buf := stageBuf s c + f.payload.length }
    else completeAs s (some c) c.tag c.op (rep .badParam) := by
  have other : decide (c.op = 0x0A01) = false := decide_eq_false op
  unfold bulkIn
  rw [found]
  dsimp only
  rw [due, other, if_neg Bool.false_ne_true]
  simp only [Bool.false_and, Bool.false_eq_true, if_false, or_false, List.length_append]
  refine if_congr .rfl rfl ?_
  rw [← ite_not]
  exact if_congr (by simp only [not_or, not_not, not_lt, ne_eq]) rfl rfl

/-- Settles O8: a frame's row is `frameIn` of its frame; the rest reads off the branches. -/
theorem hostFramesTakeEffect : Obligations.HostFramesTakeEffect := by
  unfold Obligations.HostFramesTakeEffect
  refine ⟨fun s f on up bad => ?bad, fun s f ws k deaf => ?deaf, fun s f w ws k => ⟨rfl, rfl⟩, fun s f on up good cmd => ?command, fun s f => ?new,
    fun s f on up good kind => ?bulk, fun s f done => ?none, fun s f c => bulkIn_of, fun s tag => ?timeout, fun s on => ?lineUp, fun s => rfl,
    fun s => ?fills⟩
  case bad =>
    have bad : frameIn s f = { s with lonus := { s.lonus with bad := min (s.lonus.bad + 1) 4095 } } := by
      rw [frameIn_of on up, if_pos bad]
      rfl
    exact ⟨by rw [exec, execCommandFrame, rowFrame_nil, done_eq, bad], by rw [exec, execBulkFrame, rowFrame_nil, done_eq, bad]⟩
  case deaf =>
    exact ⟨by rw [exec, execCommandFrame, done_eq, frameIn_deaf _ deaf], by rw [exec, execBulkFrame, done_eq, frameIn_deaf _ deaf]⟩
  case command =>
    rw [exec, execCommandFrame, done_eq, rowFrame_nil, frameIn_of on up, if_neg (by simp [good]), if_pos cmd]
    rfl
  case new =>
    unfold newCommand
    dsimp only
    refine if_congr .rfl rfl ?_
    have same : arriveCheck (updLonus s fun l => { l with kept := l.kept.filter fun r => decide (r.tag ≠ f.tag.toNat) }) f.code.toNat =
        arriveCheck s f.code.toNat := rfl
    rw [same]
    cases arriveCheck s f.code.toNat <;> rfl
  case bulk =>
    have other : ¬ f.ftype = 1 := by rw [kind]; decide
    rw [exec, execBulkFrame, done_eq, rowFrame_nil, frameIn_of on up, if_neg (by simp [good]), if_neg other]
  case none =>
    rcases done with none | ⟨c, found, all⟩
    · rw [bulkIn, none]
    · rw [bulkIn, found]
      exact if_pos all
  case timeout =>
    rw [exec, execBulkTimeout, done_eq, bulkTimeout]
    cases s.lonus.outstanding.find? fun c => decide (c.tag = tag) && !c.bulkDone <;> rfl
  case lineUp =>
    have on : alive s = true := by simpa [alive] using on
    rw [exec, execLonusLineUp, done_eq, on]
    cases s.mod.refBad <;> rfl
  case fills =>
    rw [lonusFill_eq]
    exact ⟨rfl, rfl, rfl⟩

theorem le_rateAt (most n now : Nat) (l : List (Nat × Nat)) : now ≤ rateAt most n now l := by
  induction l generalizing now with
  | nil => exact le_rfl
  | cons e l ih =>
    rw [rateAt]
    split
    · exact le_rfl
    · exact (le_max_left ..).trans (ih _)

/-- At the time that the rate allows, what started within 10 µs before leaves room for the frame (14 R367). -/
theorem rateAt_spec (most n now : Nat) (l : List (Nat × Nat)) (fits : n ≤ most) :
    ∃ k, ((l.drop k).map Prod.snd).sum + n ≤ most ∧ ∀ e ∈ l.take k, e.1 + 10000 ≤ rateAt most n now l := by
  induction l generalizing now with
  | nil => exact ⟨0, by simpa using fits, by simp⟩
  | cons e l ih =>
    by_cases room : ((e :: l).map Prod.snd).sum + n ≤ most
    · exact ⟨0, room, by simp⟩
    · obtain ⟨k, sum, started⟩ := ih (max now (e.1 + 10000))
      rw [rateAt, if_neg room]
      refine ⟨k + 1, sum, fun x mem => ?_⟩
      rcases List.mem_cons.mp mem with rfl | mem
      · exact (le_max_right ..).trans (le_rateAt ..)
      · exact started x mem

theorem now_waitUntil (s : State) (t : Nat) : (waitUntil s t).now = max s.now t := by
  change s.now + (t - s.now) = max s.now t
  omega

theorem lonusFill_now (s : State) : (lonusFill s).now = s.now := by
  rw [lonusFill_eq]

theorem le_sendFrame_now (s : State) (x : Frame) :
    max s.now (rateAt (rateBytes s.lonus) (frameSize x.payload.length) s.now s.lonus.recent) ≤ (sendFrame s x).now := by
  unfold sendFrame
  extract_lets n u v w
  have started : u.now = max s.now (rateAt (rateBytes s.lonus) (frameSize x.payload.length) s.now s.lonus.recent) :=
    (lonusFill_now _).trans (now_waitUntil _ _)
  have waited : u.now ≤ w.now := (le_max_left _ _).trans_eq (now_waitUntil u _).symm
  clear_value u w
  exact started.symm.trans_le waited

/-- Settles O9: the next frame by the first queue that holds one, its start by the rate. -/
theorem outputFramesLeaveInOrder : Obligations.OutputFramesLeaveInOrder := by
  unfold Obligations.OutputFramesLeaveInOrder
  refine ⟨fun s on up waits => ?send, fun s quiet => ?quiet, fun s r first => ?response, fun s e es none events => ?event,
    fun s tag op off b rest none events bulk => ?bulk, fun l => ?part, fun s f fs resp events bulk telem => ?telem,
    fun s f fs resp events bulk telem mirror => ?mirror, fun s x => ?frame, fun most n now l _ fits => rateAt_spec most n now l fits⟩
  case send =>
    rw [exec, execOutputFrameSend, done_eq, if_pos (by simpa [alive, on, up] using waits), sendOut]
    exact congrArg Host.Outcome.next (congrArg (after s) (if_congr (by simp [and_assoc]) rfl rfl))
  case quiet =>
    rw [exec, execOutputFrameSend, done_eq, if_neg]
    rcases quiet with off | down | ⟨shut, none⟩
    · simp [alive, off]
    · simp [down]
    · simp [shut, none]
  case response => simp only [sendNextFrame, first]
  case event => simp only [sendNextFrame, none, events, updLonus]
  case bulk =>
    have gone : (b.drop (bulkPart s.lonus)).isEmpty = decide (b.length ≤ bulkPart s.lonus) := by
      rw [Bool.eq_iff_iff]
      simp
    unfold sendNextFrame
    dsimp only
    rw [none]
    dsimp only
    rw [events]
    dsimp only
    rw [bulk]
    dsimp only
    rw [sendBulk, gone]
    by_cases short : b.length ≤ bulkPart s.lonus
    · simp only [short, decide_true, if_true, updLonus, bulkOut, ownFrame, events]
    · simp only [short, decide_false, if_false, Bool.false_eq_true, updLonus, bulkOut, ownFrame, events]
  case part =>
    unfold bulkPart rateBytes
    omega
  case telem => simp only [sendNextFrame, resp, events, bulk, telem, List.find?_nil, updLonus]
  case mirror => simp only [sendNextFrame, resp, events, bulk, telem, mirror, List.find?_nil, updLonus]
  case frame =>
    have now := le_sendFrame_now s x
    refine ⟨(le_max_right _ _).trans now, (le_max_left _ _).trans now, ?_, ?_⟩ <;> rw [sendFrame_lonus] <;> rfl

end Sys2Proof.Machine

/-! PROOFS. The I3C sideband (O10). -/

namespace Sys2Proof.Machine

theorem i3cUpd_of {s : State} (on : s.mod.st ≠ .off) (f : I3c → I3c) : i3cUpd s f = .next (after s { s with i3c := f s.i3c }) := by
  rw [i3cUpd, done_eq, if_pos (by simpa [alive] using on)]

theorem i3cFree_of {s : State} (on : s.mod.st ≠ .off) (f : Nat → List Byte) : i3cFree s f =
    .next (after s { s with freeCtr := s.freeCtr + 1, i3c := { s.i3c with out := s.i3c.out ++ [f s.freeCtr] } }) := by
  rw [i3cFree, done_eq, if_pos (by simpa [alive] using on)]
  rfl

/-- A target that a command code changes under a condition, and else leaves. -/
theorem i3cUpd_ite (s : State) {c d : Prop} {_ : Decidable c} {_ : Decidable d} (same : c ↔ d) (f : I3c → I3c) :
    Host.Outcome.next (after s { s with i3c := if c then f s.i3c else s.i3c }) =
      (.next (after s (if d then { s with i3c := f s.i3c } else s)) : Host.Outcome State Fault Refusal) := by
  by_cases h : c
  · rw [if_pos h, if_pos (same.mp h)]
  · rw [if_neg h, if_neg (h ∘ same.mpr)]

/-- The two bytes of the tray cap, written in one transfer, are its value (14 R372). -/
theorem i3cWrite_trayCap (s : State) (lo hi : Byte) : i3cWrite s [0x12, lo, hi] =
    (let u := { s with i3c := { s.i3c with offset := 0x14 } }
      if ofLe [lo, hi] = 0 ∨ (900 ≤ ofLe [lo, hi] ∧ ofLe [lo, hi] ≤ sustained s) then
        capChanged { u with pwr := { s.pwr with trayCap := ofLe [lo, hi] } }
      else { u with lonus := { s.lonus with i3cDrop := min (s.lonus.i3cDrop + 1) 255 } }) := by
  have bytes : [lo, hi].foldl i3cByte ({ s with i3c := { s.i3c with offset := 0x12 } }, leBytes 2 s.pwr.trayCap, false) =
      ({ s with i3c := { s.i3c with offset := 0x14 } }, [lo, hi], true) := rfl
  have offset : (0x12 : Byte).toNat % 24 = 0x12 := rfl
  rw [i3cWrite, offset, bytes]
  dsimp only
  rw [if_neg (by decide)]
  exact if_congr (or_congr_right (by rw [within, decide_eq_true_iff]; exact .rfl)) rfl rfl

/-- A byte that is not the tray cap's is dropped and counted (14 R372). -/
theorem i3cWrite_other (s : State) {o : Byte} (b : Byte) (inMap : o.toNat < 24) (lo : o.toNat ≠ 0x12) (hi : o.toNat ≠ 0x13) : i3cWrite s [o, b] =
    { s with i3c := { s.i3c with offset := (o.toNat + 1) % 24 }, lonus := { s.lonus with i3cDrop := min (s.lonus.i3cDrop + 1) 255 } } := by
  have bytes : [b].foldl i3cByte ({ s with i3c := { s.i3c with offset := o.toNat } }, leBytes 2 s.pwr.trayCap, false) =
      (i3cDropped { s with i3c := { s.i3c with offset := (o.toNat + 1) % 24 } }, leBytes 2 s.pwr.trayCap, false) := by
    simp only [List.foldl_cons, List.foldl_nil, i3cByte, lo, hi, or_self, if_false]
  rw [i3cWrite, Nat.mod_eq_of_lt inMap, bytes]
  rfl

/-- Settles O10: each command code is one change of the target outside Off. -/
theorem sidebandCommandsTakeEffect : Obligations.SidebandCommandsTakeEffect := by
  unfold Obligations.SidebandCommandsTakeEffect
  refine ⟨fun s a on => ?entdaa, fun s st a on => ?setdasa, fun s a on => ?setnewda, fun s on => ?rstdaa, fun s e on => ⟨?enec, ?disec⟩,
    fun s on => ?fixedBytes, fun s on => ⟨i3cFree_of on _, i3cFree_of on _, i3cFree_of on _⟩,
    fun s a on => ?rstact, fun s bs n on => ?write, fun s => rfl, fun s n some_ => ?read, i3cWrite_trayCap,
    fun s o b => i3cWrite_other s b⟩
  case entdaa =>
    rw [exec, execEntdaa, i3cUpd_of on]
    exact i3cUpd_ite s (by simp) fun t => { t with dyn := some a, out := t.out ++ [i3cPid s ++ [i3cBcr, 0]] }
  case setdasa =>
    rw [exec, execSetdasa, i3cUpd_of on]
    exact i3cUpd_ite s (by rw [decide_eq_true_iff, Option.isNone_iff_eq_none, and_assoc, i3cStatic]) fun t => { t with dyn := some a }
  case setnewda =>
    rw [exec, execSetnewda, i3cUpd_of on]
    exact i3cUpd_ite s (by simp [Option.isSome_iff_ne_none]) fun t => { t with dyn := some a }
  case enec =>
    rw [exec, execEnec, i3cUpd_of on]
    cases e.getLsbD 0
    · rw [Bool.or_false]
      rfl
    · rw [Bool.or_true]
      rfl
  case disec =>
    rw [exec, execDisec, i3cUpd_of on]
    cases e.getLsbD 0
    · rw [Bool.not_false, Bool.and_true]
      rfl
    · rw [Bool.not_true, Bool.and_false]
      rfl
  case rstdaa => rw [exec, execRstdaa, i3cUpd_of on]
  case fixedBytes =>
    refine ⟨?_, ?_, ?_⟩
    · rw [exec, execGetpid, i3cOut, i3cUpd_of on]
    · rw [exec, execGetbcr, i3cOut, i3cUpd_of on, i3cBcr]
    · rw [exec, execGetdcr, i3cOut, i3cUpd_of on]
  case rstact => rw [exec, execRstact, i3cUpd_of on]
  case write => rw [exec, execI3cPrivateWrite, done_eq, if_pos (by simpa [alive] using on)]
  case read => rw [i3cRead, if_neg (by omega)]

end Sys2Proof.Machine

/-! PROOFS. Power settings and input (O11), clock, coolant and leak rows (O12). -/

namespace Sys2Proof.Machine

theorem alive_of {s : State} (on : s.mod.st ≠ .off) : alive s = true := by simpa [alive] using on

/-- Settles O11: each setting and each pin by its body's check. -/
theorem powerSettingsAndInputTakeEffect : Obligations.PowerSettingsAndInputTakeEffect := by
  unfold Obligations.PowerSettingsAndInputTakeEffect
  refine ⟨fun s tag w runs => ?cap, fun s tag p runs => ?shed, fun s tag p runs => ?orphan, fun s on => ?shedN, fun s on => ?shedNEnd,
    fun s on => ?overrun, fun s d on => ?measured, fun s v w boot low => ⟨?bootRange, ?bootShed, ?bootUv⟩, fun s v on booted => ?range,
    fun s v on booted => ?uvShed, fun s v on booted => ?uv, fun s v on => ?recovered⟩
  case cap =>
    rw [exec, execCapSet, lonusCmd_ends runs, ends_ite]
    rfl
  case shed =>
    rw [exec, execShedSet, lonusCmd_ends runs, ends_ite]
    exact congrArg _ (if_congr (by simp [within]) rfl rfl)
  case orphan =>
    rw [exec, execOrphanSet, lonusCmd_ends runs, ends_ite]
    exact congrArg _ (if_congr (by simp [within]) rfl rfl)
  case shedN =>
    rw [exec, execShedNAssert, done_eq, if_pos (alive_of on)]
    rfl
  case shedNEnd =>
    rw [exec, execShedNRelease, done_eq, if_pos (alive_of on)]
    rfl
  case overrun => rw [exec, execCapOverrun, done_eq, capOverrun, if_pos (alive_of on)]
  case measured =>
    rw [exec, execCapOverrun, done_eq, capOverrun, alive_of on]
    exact congrArg Host.Outcome.next (congrArg (after s) (if_congr (by simp) rfl rfl))
  case bootRange => rw [exec, execInputRange, done_eq, if_pos ⟨low, by simp [boot]⟩, unqualify, if_pos (by simp [boot])]
  case bootShed => rw [exec, execUndervoltageShed, done_eq, if_pos ⟨low, by simp [boot]⟩, unqualify, if_pos (by simp [boot])]
  case bootUv => rw [exec, execInputUndervolt, done_eq, if_pos ⟨low, by simp [boot]⟩, unqualify, if_pos (by simp [boot])]
  case range =>
    rw [exec, execInputRange, done_eq, if_neg (by simp [booted]), alive_of on]
    refine congrArg Host.Outcome.next (congrArg (after s) (if_congr ?_ rfl rfl))
    rw [Bool.true_and, Bool.not_eq_true', within, decide_eq_false_iff_not]
    omega
  case uvShed =>
    rw [exec, execUndervoltageShed, done_eq, if_neg (by simp [booted]), alive_of on]
    exact congrArg Host.Outcome.next (congrArg (after s) (if_congr (by simp) rfl rfl))
  case uv =>
    rw [exec, execInputUndervolt, done_eq, if_neg (by simp [booted]), alive_of on]
    exact congrArg Host.Outcome.next (congrArg (after s) (if_congr (by simp) rfl rfl))
  case recovered =>
    have range : (s.pwr.rangeBad && !within 4400 v 5600) = if 4400 ≤ v ∧ v ≤ 5600 then false else s.pwr.rangeBad := by
      by_cases inside : 4400 ≤ v ∧ v ≤ 5600 <;> simp [within, inside]
    rw [exec, execInputRecovered, done_eq, if_pos (alive_of on), inputRecovered, ← range]
    rfl

theorem hubOf_setStretch_self (on : Bool) (s : State) (d : Nat) : (hubOf (setStretch on s d) d).stretch = on := by
  rw [setStretch, hubOf_updHub_self]
  split
  · assumption
  · cases on <;> rfl

theorem hubOf_updHub_ne (s : State) {d e : Nat} (other : e ≠ d) (f : Hub → Hub) : hubOf (updHub s d f) e = hubOf s e :=
  Tab.get_upd_ne _ _ _ other

theorem hubOf_setStretch_ne (on : Bool) (s : State) {d e : Nat} (other : e ≠ d) : hubOf (setStretch on s d) e = hubOf s e := by
  rw [setStretch]
  exact hubOf_updHub_ne s other _

/-- Stretching every die of a list leaves each of them stretched alike. -/
theorem foldl_setStretch (on : Bool) {e : Nat} (l : List Nat) (s : State) (there : e ∈ l ∨ (hubOf s e).stretch = on) :
    (hubOf (l.foldl (setStretch on) s) e).stretch = on := by
  induction l generalizing s with
  | nil => exact there.resolve_left List.not_mem_nil
  | cons d l ih =>
    refine ih _ ?_
    by_cases is : e = d
    · subst is
      exact .inr (hubOf_setStretch_self on s e)
    · rw [hubOf_setStretch_ne on s is]
      exact there.imp_left fun mem => (List.mem_cons.mp mem).resolve_left is

/-- A flow that counts as none, or one below 4 L/min, is an alert (16 R409). -/
theorem coolLowFlow_of {s : State} (ctrl : ctrlRuns s = true) (f : Nat) (b : Bool) : coolLowFlow s f b =
    let bad := b || decide (600 < f) || (s.cool.stuck && decide (f = s.cool.flow))
    let u := emit { s with cool := { s.cool with flow := f, flowFault := bad, lowAlert := true } } evLowFlow [f, b2n bad]
    if bad = true ∨ f < 144 then (if dpPowered u then addCause u 5 else u) else if f < 240 then u else s := by
  unfold coolLowFlow flowStuck
  dsimp only
  rw [ctrl]
  generalize (b || decide (600 < f) || (s.cool.stuck && decide (f = s.cool.flow))) = bad
  generalize emit { s with cool := { s.cool with flow := f, flowFault := bad, lowAlert := true } } evLowFlow [f, b2n bad] = u
  cases bad
  · by_cases low : f < 240
    · by_cases veryLow : f < 144 <;> simp [low, veryLow]
    · simp [low, show ¬ f < 144 by omega]
  · simp

theorem leak_of {s : State} (rails : railsGood s = true) (loop : Nat) : leak s loop = enterHold (emit (setLoop s loop 1) evLeak [loop]) 10 none := by
  rw [leak, if_pos rails]

theorem loopReading_of {s : State} (rails : railsGood s = true) (loop r : Nat) : loopReading s loop r =
    if r < 30 then enterHold (emit (setLoop s loop 1) evLeak [loop]) 10 none
    else if r ≤ 400 then setLoop s loop 0
    else if (setLoop s loop 2).cool.loop0 = 2 ∧ (setLoop s loop 2).cool.loop1 = 2 then enterHold (emit (setLoop s loop 2) evLoopFault [loop, r]) 6 none
    else emit (setLoop s loop 2) evLoopFault [loop, r] := by
  rw [loopReading, rails, if_neg (by decide), leak_of rails]
  rfl

/-- Settles O12: each row by its definition; under STEADY the four clocks are stretched together. -/
theorem clockCoolantAndLeakRowsTakeEffect : Obligations.ClockCoolantAndLeakRowsTakeEffect := by
  unfold Obligations.ClockCoolantAndLeakRowsTakeEffect
  refine ⟨fun s d die => ?droop, fun s d die => ?release, fun s d free die => ?own, fun s d e st die => ?together, fun s p l on lt present => ?margin,
    fun s f b ctrl => ?lowFlow, fun s f ctrl => ?flowBack, fun s f b i o idle => ?idle, fun s i o ctrl => ?inletHigh, fun s i ctrl => ?inletLow,
    fun s rails => ?leaks, fun s r rails => ?loop0, fun s r rails => ?loop1⟩
  case droop =>
    rw [exec, execDroopStretch, onUnit_of (by simpa using die), droopStretch]
    exact congrArg Host.Outcome.next (congrArg (after s) (if_congr (by simp) rfl rfl))
  case release => rw [exec, execDroopRelease, onUnit_of (by simpa using die), droopRelease]
  case own =>
    rw [stretchSettle, if_neg (by simp [free])]
    exact ⟨hubOf_setStretch_self .., fun e other => hubOf_setStretch_ne _ s other⟩
  case together =>
    rw [stretchSettle, if_pos st]
    exact foldl_setStretch _ _ s (.inl (List.mem_range.mpr die))
  case margin =>
    rw [exec, execMarginLow, onUnit_of (by simp [lt, present]), marginLow, alive_of on]
    rfl
  case lowFlow => rw [exec, execCoolLowFlow, done_eq, coolLowFlow_of ctrl]
  case flowBack =>
    rw [exec, execFlowRecovered, done_eq, flowRecovered, ctrl, flowStuck]
    refine congrArg Host.Outcome.next (congrArg (after s) (if_congr ?_ rfl rfl))
    cases s.cool.stuck <;> simp [within, and_assoc]
  case idle =>
    refine ⟨?_, ?_, ?_, ?_⟩
    · rw [exec, execCoolLowFlow, done_eq, coolLowFlow, idle]
      rfl
    · rw [exec, execFlowRecovered, done_eq, flowRecovered, idle]
      rfl
    · rw [exec, execCoolInletHigh, done_eq, idle]
      rfl
    · rw [exec, execCoolInletLow, done_eq, idle]
      rfl
  case inletHigh =>
    rw [exec, execCoolInletHigh, done_eq, ctrl, inletHot]
    exact congrArg Host.Outcome.next (congrArg (after s) (if_congr (by simp) rfl rfl))
  case inletLow =>
    rw [exec, execCoolInletLow, done_eq, ctrl]
    exact congrArg Host.Outcome.next (congrArg (after s) (if_congr (by simp) rfl rfl))
  case leaks =>
    exact ⟨by rw [exec, execLeak, onUnit_of (by decide), leak_of rails] <;> rfl, by rw [exec, execLeak, onUnit_of (by decide), leak_of rails] <;> rfl⟩
  case loop0 =>
    rw [exec, execLeakLoopFault, onUnit_of (by decide), loopReading_of rails]
    exact congrArg Host.Outcome.next (congrArg (after s) (if_congr .rfl rfl (if_congr .rfl rfl (if_congr (by simp [setLoop]) rfl rfl))))
  case loop1 =>
    rw [exec, execLeakLoopFault, onUnit_of (by decide), loopReading_of rails]
    exact congrArg Host.Outcome.next (congrArg (after s) (if_congr .rfl rfl (if_congr .rfl rfl (if_congr (by simp [setLoop]) rfl rfl))))

end Sys2Proof.Machine

/-! PROOFS. Telemetry (O22) and certification (O34). -/

namespace Sys2Proof.Machine

theorem maskOk_iff (sets : Nat) : maskOk sets = true ↔ 1 ≤ sets ∧ sets ≤ 63 := by simp [maskOk, within]

/-- A boundary of a running stream: the replacing stream's period first, then the wait for it. -/
theorem telemBoundary_runs {s : State} (run : s.telem.running = true) (ctrl : ctrlRuns s = true) : telemBoundary s =
    let t := telemSwap s.telem
    let u := telemFrames (dropUnsent (elapse { s with telem := t } (t.next - s.axle.value))) t.sets t.period t.next false
    { u with telem := { u.telem with next := t.next + t.period * 1000000 } } := by
  rw [telemBoundary, if_neg (by simp [run]), if_pos ctrl]

/-- Settles O22: each command's check and its stream; a boundary by whether a stream runs. -/
theorem telemetryRowsTakeEffect : Obligations.TelemetryRowsTakeEffect := by
  unfold Obligations.TelemetryRowsTakeEffect
  refine ⟨fun s tag sets p runs => ?start, fun s tag runs => lonusCmd_ends runs _, fun s tag sets runs => ?snapshot, fun s => ?boundary,
    fun s tag port n tr runs => ?sample, fun s tag runs => lonusCmd_ends runs _⟩
  case start =>
    rw [exec, execTelemStart, lonusCmd_ends runs, telemStart, ends_ite]
    exact congrArg _ (if_congr (by simp [maskOk_iff, within, and_assoc]) rfl rfl)
  case snapshot =>
    rw [exec, execTelemSnapshot, lonusCmd_ends runs, ends_ite]
    exact congrArg _ (if_congr (maskOk_iff sets) rfl rfl)
  case boundary =>
    rw [exec, execTelemetryBoundary, done_eq]
    refine congrArg Host.Outcome.next (congrArg (after s) ?_)
    by_cases run : s.telem.running = true
    · rw [if_neg (by simp [run])]
      by_cases ctrl : ctrlRuns s = true
      · rw [telemBoundary_runs run ctrl, if_pos ctrl]
        rfl
      · rw [if_neg ctrl, telemBoundary, if_neg (by simp [run]), if_neg ctrl]
    · rw [if_pos (by simpa using run), telemBoundary, if_pos (by simpa using run)]
      exact if_congr (by simp) rfl rfl
  case sample =>
    rw [exec, execSampleStart, lonusCmd_ends runs, sampleStart, ends_ite]
    exact congrArg _ (if_congr (by simp [portOrAll, within, and_assoc]) rfl rfl)

theorem certClean_iff (s : State) (r : CertRun) (p : Nat) : certClean s r p = true ↔
    p ∉ r.bad ∧ (r.mode ≠ 0 ∨ match r.ended.find? fun e => decide (e.1 = p) with
      | some e => e.2 = true
      | none => (portOf s p).cert = 3 ∧ ∀ l ∈ lanesOf s p, (laneOf s l).lock = true) := by
  rw [certClean]
  cases r.ended.find? fun e => decide (e.1 = p) with
  | none => simp [certLocked]
  | some e => simp

/-- The end of the oldest run of a mode: its due ports are filled in, then it leaves. -/
theorem certDone_of {s : State} {m : Nat} {r : CertRun} (rs : List (Nat × Nat × Nat × Bool))
    (first : (s.certRuns.find? fun r => decide (r.mode = m)) = some r) : certDone s m rs =
    let x := waitUntil (if m = 0 then certExpire s r.endAt else s) r.endAt
    let q := (x.certRuns.find? fun y => decide (y.mode = m)).getD r
    let u := q.ports.foldl (certFill q rs) (x, 0)
    let v := if m = 0 then (q.ports.filter fun p => !q.ended.any fun e => decide (e.1 = p)).foldl certRelease u.1 else u.1
    let w := emit { v with certRuns := v.certRuns.erase q } evCertDone [m, q.ports.length, u.2]
    match q.tag with
    | some t => finishCmd w t 0x0740 (rep .ok)
    | none => w := by
  unfold certDone
  rw [first] <;> rfl

/-- Settles O34: a run's begin by its mode, its end by the oldest run of the mode. -/
theorem certificationRowsTakeEffect : Obligations.CertificationRowsTakeEffect := by
  unfold Obligations.CertificationRowsTakeEffect
  refine ⟨fun s tag p mode dwell runs => ?begins, fun s p dwell => rfl, fun s m rs => ?ends, fun r s lane worst ok n p => ?result,
    fun s r p => ?clean, fun s => ?schedule⟩
  case begins =>
    rw [exec, execCertRun, lonusCmd_ends runs, certRun]
    dsimp only
    simp only [ends_ite]
    refine congrArg _ (if_congr .rfl rfl (if_congr (by simp [within]) rfl rfl))
  case ends =>
    rw [exec, execCertDone, done_eq]
    refine congrArg Host.Outcome.next (congrArg (after s) ?_)
    cases first : s.certRuns.find? fun r => decide (r.mode = m) with
    | none =>
      rw [certDone, first]
    | some r =>
      rw [certDone_of rs first]
      rfl
  case result =>
    rw [certPort]
    by_cases pass : ok = true ∧ certClean s r p = true ∧ (if r.mode = 0 then 60 else 50) ≤ worst
    · have all : (ok && certClean s r p && decide ((if r.mode = 0 then 60 else 50) ≤ worst)) = true := by simpa [and_assoc] using pass
      rw [if_pos pass]
      simp only [all]
      rfl
    · have some_ : (ok && certClean s r p && decide ((if r.mode = 0 then 60 else 50) ≤ worst)) = false := by simpa [and_assoc] using pass
      rw [if_neg pass]
      simp only [some_]
      rfl
  case clean => exact certClean_iff s r p
  case schedule =>
    rw [exec, execCertSchedule, done_eq, certSchedule]
    rfl

end Sys2Proof.Machine

/-! PROOFS. The lane commands (O32). -/

namespace Sys2Proof.Machine

theorem laneOf_updLane_self (s : State) (l : Nat) (f : Lane → Lane) : laneOf (updLane s l f) l = f (laneOf s l) := Tab.get_upd_self ..

/-- A lane command runs on a lane of the module, and is BADPARAM on any other. -/
theorem onLaneCmd_ends {s : State} {tag op lane : Nat} {more : List Item} (runs : Runs s tag op ((2, lane) :: more))
    (f : State → State × Option Reply) : onLaneCmd tag op lane more s f =
      .next (if lane < 512 then ends s tag op (f s) else answered s s tag op (rep .badParam)) := by
  rw [onLaneCmd, lonusCmd_ends runs, ends_ite, ends_fail]

/-- What a lane is once its generator has stopped. -/
theorem laneOf_genStop (s : State) (l : Nat) : laneOf (genStop s l) l =
    if (laneOf s l).gen.isSome then { laneOf s l with gen := none, inject := none, injPast := [] } else laneOf s l := by
  rw [genStop]
  cases gen : (laneOf s l).gen with
  | none => rfl
  | some g => exact laneOf_updLane_self ..

theorem genStop_now (s : State) (l : Nat) : (genStop s l).now = s.now := by
  rw [genStop]
  cases (laneOf s l).gen <;> rfl

/-- PRBS begins with its counters cleared; a generator that ran takes its injections with it. -/
theorem laneOf_prbsBegin (s : State) (l pat : Nat) (g c : Bool) : laneOf (prbsBegin s l pat g c) l =
    let x := laneOf s l
    { x with gen := if g then some pat else x.gen, genAt := if g then s.now else x.genAt, chk := if c then some pat else x.chk,
             inject := if g ∧ x.gen.isSome then none else x.inject, injPast := if g ∧ x.gen.isSome then [] else x.injPast, lock := false,
             bits := 0, bitErr := 0, symErr := 0 } := by
  rw [prbsBegin, laneOf_updLane_self]
  cases g with
  | false => simp
  | true => cases some_ : (laneOf s l).gen.isSome <;> simp [laneOf_genStop, genStop_now, some_]

theorem prbsCount_idle {s : State} {l : Nat} (idle : (laneOf s l).lock = false) : prbsCount s l = s := by
  rw [prbsCount, if_neg (by simp [idle])]

theorem laneOf_prbsCount_gen (s : State) (l : Nat) : (laneOf (prbsCount s l) l).gen = (laneOf s l).gen := by
  rw [prbsCount]
  split
  · dsimp only
    rw [laneOf_updLane_self]
    rfl
  · rfl

theorem laneOf_genStop_gen (s : State) (l : Nat) : (laneOf (genStop s l) l).gen = none := by
  rw [laneOf_genStop]
  split
  · rfl
  · exact Option.not_isSome_iff_eq_none.mp ‹_›

/-- An injection begins at once, or after what earlier ones still have to strike. -/
theorem injBegin_at (s : State) (k n c us : Nat) (x : Lane) : ∃ t,
    (injBegin s k n c us x).inject = some { kind := k, n := n, count := c, us := us, at_ := t } ∧ s.now ≤ t ∧
      (x.inject = none → x.injPast = [] → t = s.now) := by
  refine ⟨_, rfl, ?_, fun free past => ?_⟩
  · split
    · exact Nat.le_max_left ..
    · exact le_rfl
  · rw [free, past]
    rfl

/-- Settles O32: each lane command by its check and its body. -/
theorem laneCommandsTakeEffect : Obligations.LaneCommandsTakeEffect := by
  unfold Obligations.LaneCommandsTakeEffect
  refine ⟨fun s tag l pat d runs => ?start, laneOf_prbsBegin, fun s tag l runs => onLaneCmd_ends runs _, fun s l => ?off, fun s tag l runs => ?read,
    fun s l => prbsCount_idle, fun s l lane => ?lock, fun s l b e y lane => ?lost, fun s tag l k n c us runs => ?inject, injBegin_at,
    fun s tag l runs => ?slip, fun s tag l e runs => ?eye, fun s k cs chiplet => ?scanned⟩
  case start =>
    rw [exec, execLanePrbsStart, onLaneCmd_ends runs, prbsStart]
    simp only [ends_ite]
    by_cases lane : l < 512
    · rw [if_pos lane]
      exact congrArg _ (if_congr (by simp [lane, within]) rfl (if_congr (by simp) rfl rfl))
    · rw [if_neg lane, if_pos fun h => lane h.1]
  case off =>
    rw [prbsOff, laneOf_updLane_self]
    exact ⟨(laneOf_prbsCount_gen ..).trans (laneOf_genStop_gen ..), rfl, rfl⟩
  case read => exact onLaneCmd_ends runs _
  case lock => rw [exec, execPrbsLock, onUnit_of (by simpa using lane)]
  case lost =>
    rw [exec, execPrbsLockLost, onUnit_of (by simpa using lane)]
    rfl
  case inject =>
    rw [exec, execLaneInject, onLaneCmd_ends runs, ends_ite]
    by_cases lane : l < 512
    · rw [if_pos lane]
      exact congrArg _ (if_congr (by simp [lane]) rfl rfl)
    · rw [if_neg lane, if_neg fun h => lane h.1]
  case slip =>
    rw [exec, execLaneBitslip, onLaneCmd_ends runs, ends_ite]
    by_cases lane : l < 512
    · rw [if_pos lane, if_neg (not_le.mpr lane)]
      exact congrArg _ (if_congr (by simp) rfl rfl)
    · rw [if_neg lane, if_pos (not_lt.mp lane)]
  case eye =>
    rw [exec, execLaneEyeScan, onLaneCmd_ends runs, eyeScan]
    simp only [ends_ite]
    by_cases lane : l < 512
    · rw [if_pos lane]
      exact congrArg _ (if_congr (by simp [lane]) rfl (if_congr (by simp) rfl rfl))
    · rw [if_neg lane, if_pos fun h => lane h.1]
  case scanned =>
    rw [exec, execEyeScanDone, onUnit_of (by simpa using chiplet)]
    refine congrArg Host.Outcome.next (congrArg (after s) ?_)
    rw [eyeDone]
    cases s.eye.find? fun e => decide (e.chiplet = k) <;> rfl

end Sys2Proof.Machine

/-! PROOFS. STATE_SET, STEADY_SET and REPAIR_MARK (O14). -/

namespace Sys2Proof.Machine

/-- With no transition under way, a STATE_SET that did not come late goes by the state and the target. -/
theorem stateSet_open {s : State} {tag : Nat} (free : s.mod.trans = none) (early : cameLate s tag = false) :
    ¬ (s.mod.trans.isSome || cameLate s tag) = true := by
  rw [free, early]
  decide

/-- A STATE_SET during a transition, one that came late and one of no pair of 01's table change nothing. -/
theorem stateSet_bad {s : State} {tag n : Nat} (bad : s.mod.trans ≠ none ∨ cameLate s tag = true ∨
      ¬ ((s.mod.st = .standby ∧ n = 3) ∨ (s.mod.st = .ready ∧ (n = 3 ∨ n = 2)) ∨ (s.mod.st = .rest ∧ (n = 3 ∨ n = 1)) ∨
        (s.mod.st = .hold ∧ n = 1) ∨ (s.mod.st = .run ∧ n = 6))) : stateSet tag n s = (s, some (rep .badState)) := by
  unfold stateSet
  split
  · rfl
  · next free =>
    rw [Bool.or_eq_true, Option.isSome_iff_ne_none] at free
    have out := (bad.resolve_left fun h => free (.inl h)).resolve_left fun h => free (.inr h)
    split
    case h_8 => rfl
    all_goals next st => exact absurd st fun st => out (by simp [st])

/-- Cutting the Lonus line changes its port alone. -/
theorem cutLine_eq (s : State) : cutLine s = { s with lonus := (cutLine s).lonus } := by
  unfold cutLine updLonus
  rw [lonusFill_eq]

theorem stopDataPlane_mod (s : State) : (stopDataPlane s).mod = s.mod := rfl

theorem loseLarder_mod (s : State) : (loseLarder s).mod = s.mod := rfl

theorem freshPlane_mod (s : State) : (freshPlane s).mod = s.mod := rfl

/-- Standby is entered from a state that has lost the data plane's records; the line is cut where the clock is absent. -/
theorem enterStandby_elim (P : State → Prop) {s : State} (entered : ∀ u : State, u.mod = s.mod →
    (u.blocks = [] ∧ u.harn = [] ∧ u.img = [] ∧ u.lard.mem = [] ∧ u.winEff = [] ∧ u.epoch = {} ∧ u.axle.locked = false) →
    P (updMod (if u.mod.refBad then cutLine u else u) fun m =>
      { m with st := .standby, frozen := false, dpOff := false, start := {}, marked := [], late := [] })) : P (enterStandby s) := by
  unfold enterStandby
  extract_lets v a u w
  have same : v.mod = s.mod := by rw [freshPlane_mod, loseLarder_mod, stopDataPlane_mod]
  clear_value v
  exact entered u same ⟨rfl, rfl, rfl, rfl, rfl, rfl, rfl⟩

theorem enterStandby_fields (s : State) : (enterStandby s).mod.st = .standby ∧ (enterStandby s).blocks = [] ∧ (enterStandby s).harn = [] ∧
    (enterStandby s).img = [] ∧ (enterStandby s).lard.mem = [] ∧ (enterStandby s).winEff = [] ∧ (enterStandby s).epoch = {} ∧
    (enterStandby s).axle.locked = false ∧ (s.mod.refBad = true → (enterStandby s).lonus.lineUp = false) := by
  refine enterStandby_elim (fun v => v.mod.st = .standby ∧ v.blocks = [] ∧ v.harn = [] ∧ v.img = [] ∧ v.lard.mem = [] ∧ v.winEff = [] ∧ v.epoch = {} ∧
    v.axle.locked = false ∧ (s.mod.refBad = true → v.lonus.lineUp = false)) fun u same ⟨blocks, harn, img, mem, win, epoch, axle⟩ => ?_
  rw [← same]
  cases u.mod.refBad with
  | false => exact ⟨rfl, blocks, harn, img, mem, win, epoch, axle, nofun⟩
  | true =>
    rw [if_pos rfl, cutLine_eq]
    exact ⟨rfl, blocks, harn, img, mem, win, epoch, axle, fun _ => rfl⟩

/-- Settles O14: STATE_SET by the state it stands in, the settings by their checks. -/
theorem stateCommandsTakeEffect : Obligations.StateCommandsTakeEffect := by
  unfold Obligations.StateCommandsTakeEffect
  refine ⟨fun s tag n runs => lonusCmd_ends runs _, fun s tag free early st => ?cold, fun s tag free early st => ?warm, fun s tag free early st => ?rest,
    fun s tag free early st => ?down, fun s tag free early st => ?held, enterStandby_fields, fun s tag free early st => ?drain,
    fun s tag n => stateSet_bad, fun s tag v runs => ?steady, fun s tag u runs => ?mark⟩
  case cold =>
    rw [stateSet.eq_1 tag s st, if_neg (stateSet_open free early)]
    rfl
  case warm =>
    rcases st with st | st
    · rw [stateSet.eq_2 tag s st, if_neg (stateSet_open free early)]
      rfl
    · rw [stateSet.eq_3 tag s st, if_neg (stateSet_open free early)]
      rfl
  case rest =>
    rw [stateSet.eq_4 tag s st, if_neg (stateSet_open free early)]
    dsimp only [beginTrans, dropOverflow, updMod]
  case down =>
    rw [stateSet.eq_5 tag s st, if_neg (stateSet_open free early)]
    rfl
  case held =>
    rw [stateSet.eq_6 tag s st, if_neg (stateSet_open free early)]
    by_cases wait : supervised s.mod.cause = true ∧ ¬ coolEnough s = true
    · rw [if_pos wait, if_neg (by simpa using wait)]
      rfl
    · rw [if_neg wait, if_pos (by simpa [imp_iff_not_or] using wait)]
      rfl
  case drain =>
    rw [stateSet.eq_7 tag s st, if_neg (stateSet_open free early)]
    rfl
  case steady =>
    rw [exec, execSteadySet, lonusCmd_ends runs]
    simp only [ends_ite]
    rfl
  case mark =>
    rw [exec, execRepairMark, lonusCmd_ends runs]
    simp only [ends_ite]
    refine congrArg _ (if_congr (by simp) rfl (if_congr (by simp) rfl (if_congr .rfl rfl ?_)))
    by_cases setup : s.mod.st = .setup
    · rw [if_pos setup, if_pos setup]
      rfl
    · rw [if_neg setup, if_neg setup]
      rfl

end Sys2Proof.Machine

/-! PROOFS. Collective rows (O44), descriptors (O46) and the Ladle's own (O47). -/

namespace Sys2Proof.Machine

/-- The chunk's start and the ranks seen, from its slot or from the spill region. -/
theorem collTimeout_of (s : State) (k : CKey) : collTimeout s k =
    match ((slotAt s k).map fun x => (x.startAt, x.seen)).or
      ((s.coll.spills.find? fun x => decide (x.key = k)).map fun x => (x.startAt, x.items.map CItem.rank)) with
    | none => s
    | some (t, seen) =>
      let left := t + 1000 * harnTimeout s k.h - xTime s k.die
      let u := elapse s (if (hubOf s k.die).stretch = true then 2 * left else left)
      if (blockOf s (harnOwner s k.h)).st = .unloaded ∨ (blockOf s (harnOwner s k.h)).st = .faulted then u
      else emitX (faultBlockK u (harnOwner s k.h) none) evCollTimeout (harnOwner s k.h) [k.step, k.chunk, k.die] (leBytes 32 (ranksMissing u k seen)) := by
  have owner (n : Nat) : harnOwner (elapse s n) k.h = harnOwner s k.h := rfl
  have block (n : Nat) : blockOf (elapse s n) (harnOwner s k.h) = blockOf s (harnOwner s k.h) := rfl
  unfold collTimeout
  extract_lets go
  have goes (t : Nat) (seen : List Nat) : go t seen =
      let left := t + 1000 * harnTimeout s k.h - xTime s k.die
      let u := elapse s (if (hubOf s k.die).stretch = true then 2 * left else left)
      if (blockOf s (harnOwner s k.h)).st = .unloaded ∨ (blockOf s (harnOwner s k.h)).st = .faulted then u
      else emitX (faultBlockK u (harnOwner s k.h) none) evCollTimeout (harnOwner s k.h) [k.step, k.chunk, k.die] (leBytes 32 (ranksMissing u k seen)) := by
    dsimp only [go]
    rw [owner, block]
    cases (blockOf s (harnOwner s k.h)).st <;> simp
  cases slotAt s k with
  | some x => exact goes ..
  | none =>
    cases s.coll.spills.find? fun x => decide (x.key = k) with
    | some x => exact goes ..
    | none => rfl

/-- Settles O44: each row by what it finds of its chunk. -/
theorem collectiveRowsTakeEffect : Obligations.CollectiveRowsTakeEffect := by
  unfold Obligations.CollectiveRowsTakeEffect
  refine ⟨fun s d h st c ecc cs die harness => ?send, fun s d h st c cs die harness => ?arrive, fun s d h st c die harness => ?timeout, fun s p port => ?spill⟩
  case send =>
    rw [exec, execLeafStateSend, onUnit_of (by simp [die, harness])]
    refine congrArg Host.Outcome.next (congrArg (after s) ?_)
    dsimp only
    by_cases up : dpRuns s = true
    · rw [if_pos up, leafSend]
      cases slotAt s { die := d, h := h, step := st, chunk := c } with
      | none => rfl
      | some x => exact if_congr (by simp [up]) rfl rfl
    · rw [if_neg up]
      cases slotAt s { die := d, h := h, step := st, chunk := c } with
      | none => rfl
      | some x => exact (if_neg fun h => up h.1).symm
  case arrive =>
    rw [exec, execLeafStateArrival, onUnit_of (by simp [die, harness])]
    refine congrArg Host.Outcome.next (congrArg (after s) ?_)
    dsimp only
    by_cases up : dpRuns s = true
    · rw [if_pos up, leafArrive]
      cases s.coll.flight.find? fun f => decide (f.2.1 = { die := d, h := h, step := st, chunk := c }) with
      | none => rfl
      | some x => exact if_congr (by simp [up]) rfl rfl
    · rw [if_neg up]
      cases s.coll.flight.find? fun f => decide (f.2.1 = { die := d, h := h, step := st, chunk := c }) with
      | none => rfl
      | some x => exact (if_pos (.inl (by simpa using up))).symm
  case timeout =>
    rw [exec, execCollTimeout, onUnit_of (by simp [die, harness]), collTimeout_of] <;> rfl
  case spill =>
    rw [exec, execSpillExhausted, onUnit_of port, spillExhaust]
    refine congrArg Host.Outcome.next (congrArg (after s) (if_congr (by simp) ?_ rfl))
    cases minBy (fun b => -(spillCharge s b : Int)) (loadedBlocks s) with
    | none => rfl
    | some b => cases s.coll.lastSpillFault <;> rfl

/-- Settles O46: a descriptor's acceptance by what is read of it, the other rows by what they find. -/
theorem descriptorsAreAcceptedAndCompleted : Obligations.DescriptorsAreAcceptedAndCompleted := by
  unfold Obligations.DescriptorsAreAcceptedAndCompleted
  refine ⟨fun s die e ecc dieOk engine => ?accept, fun s die e ecc d a found => ?accepted, fun s die e ecc none => ?idle, fun s die dieOk => ?release,
    fun s die dieOk => ?limit, fun s die e cyc dieOk engine => ?complete, slotOf_countPlaced⟩
  case accept => rw [exec, execDescriptorAccept, onUnit_of (by simp [dieOk, engine])]
  case accepted =>
    rw [descAccept, found]
    dsimp only
    rcases thrRead s d.t a 64 ecc with ⟨_ | bytes, u⟩
    · rfl
    · cases fault : acceptFault u d a <;> simp only [fault] <;> rfl
  case idle => rw [descAccept, none]
  case release =>
    rw [exec, execDescriptorWaitRelease, onUnit_of (by simp [dieOk])]
    refine congrArg Host.Outcome.next (congrArg (after s) ?_)
    rw [waitRelease]
    cases (hubOf s die).waitPool.find? fun d => waitDone s d && decide ((engOf s die d.engine).queue.length < 64) with
    | none => exact ite_self _
    | some d => rfl
  case limit =>
    rw [exec, execEngineWaitLimit, onUnit_of (by simp [dieOk])]
    refine congrArg Host.Outcome.next (congrArg (after s) ?_)
    rw [engWaitLimit]
    cases minBy (fun d => ((d.at_ + 1000 * (imgOf s d.image).waitUs : Nat) : Int)) ((hubOf s die).waitPool.filter fun d => !waitDone s d) with
    | none => exact ite_self _
    | some d => rfl
  case complete =>
    rw [exec, execDescriptorComplete, onUnit_of (by simp [dieOk, engine])]
    refine congrArg Host.Outcome.next (congrArg (after s) ?_)
    rw [descComplete]
    cases (engOf s die e).exec with
    | none => exact ite_self _
    | some run =>
      obtain ⟨d, n⟩ := run
      dsimp only
      by_cases up : dpRuns s = true
      · rw [if_pos up]
        by_cases sends : putPending s die d.id = true
        · rw [if_pos sends, if_neg (by simp [sends])]
        · rw [if_neg sends, if_pos (show dpRuns s = true ∧ putPending s die d.id = false from ⟨up, by simpa using sends⟩)]
      · rw [if_neg up, if_neg fun h => up h.1]

end Sys2Proof.Machine

/-! PROOFS. The Ladle's descriptors (O47). -/

namespace Sys2Proof.Machine

/-- A CONTRIB whose distance, chunk and room are good enters its item once its bytes have run. -/
theorem runContrib_enters {s : State} {d : Desc} (cs : List LadleCheck) (near : cDist s d < 4)
    (unformed : (harnOf s (cHarn d)).formed.contains (((harnOf s (cHarn d)).base + cDist s d) % 2 ^ 48, fld d 24 4) = false)
    (slow : harnFast s (cHarn d) = false)
    (room : needsSpill s { die := treeRoot (fld d 24 4), h := cHarn d, step := ((harnOf s (cHarn d)).base + cDist s d) % 2 ^ 48, chunk := fld d 24 4 } = false) :
    runContrib s d cs =
      enterItem (engRun s d (contribBytes s (cHarn d) (fld d 24 4)))
        { die := treeRoot (fld d 24 4), h := cHarn d, step := ((harnOf s (cHarn d)).base + cDist s d) % 2 ^ 48, chunk := fld d 24 4 } cs
        (itemOf s (cHarn d) (fld d 24 4) (fld d 18 1) (fld d 28 4) (engRead s d (fld d 32 8) (contribBytes s (cHarn d) (fld d 24 4)))) := by
  rw [runContrib]
  dsimp only
  rw [if_neg (not_or.mpr ⟨not_le.mpr near, by rw [unformed]; decide⟩), if_neg (by rw [slow]; exact fun h => absurd h.1 (by decide)),
    if_neg (by rw [room]; exact Bool.false_ne_true)]

/-- With no check that fails, ACC_ADD adds its inputs to the states, one by one. -/
theorem ladleAdds_ok (olds news : List Acc) :
    ((enum (olds.zip news)).map fun e => ladleSum .ok e.1 e.2.1 e.2.2) = (olds.zip news).map fun e => accAdd e.1 e.2 := by
  simp only [ladleSum_ok]
  conv_rhs => rw [← map_snd_enum (olds.zip news), List.map_map]
  rfl

theorem find?_residueMiss_none {l : List (Nat × Acc × Acc)} (sound : ∀ e ∈ l, residueMiss .ok e.1 e.2.1 e.2.2 = false) :
    (l.find? fun e => residueMiss .ok e.1 e.2.1 e.2.2) = none :=
  List.find?_eq_none.mpr fun e mem => by simp [sound e mem]

theorem engEcc_uncorrectable (s : State) (d : Desc) (a : Nat) : engEcc s d a .uncorrectable =
    match placeOf s d.t a with
    | .larder l _ => emitB (ueCount s l) d.block evLarderUe (ueItems s (l / 32 * 32))
    | _ => s := by
  unfold engEcc
  cases placeOf s d.t a <;> rfl

theorem accDone_memory (s : State) (d : Desc) (miss : Option Nat) (new : List Acc) : accDone s d .memory miss new = engFault s d 1 (fld d 40 8) :=
  if_pos rfl

theorem accDone_miss {s : State} {d : Desc} {c : LadleCheck} (good : c ≠ .memory) (j : Nat) (new : List Acc) :
    accDone s d c (some j) new = engFault s d 5 (fld d 40 8 + 40 * j) := by
  rw [accDone, if_neg good]

theorem accDone_ok {s : State} {d : Desc} {c : LadleCheck} (good : c ≠ .memory) (new : List Acc) :
    accDone s d c none new = engRun (engWrite s d (fld d 40 8) (new.flatMap accBytes)) d (40 * accN d) := by
  rw [accDone, if_neg good]

/-- Settles O47: each row is the Ladle's turn; a body ends in `accDone` or in the collective's entry. -/
theorem ladleDescriptorsTakeEffect : Obligations.LadleDescriptorsTakeEffect := by
  unfold Obligations.LadleDescriptorsTakeEffect
  refine ⟨fun s die ecc c cs dieOk => ⟨engRow_runs dieOk .., engRow_runs dieOk .., engRow_runs dieOk .., engRow_runs dieOk ..⟩,
    fun die e op ecc body s => ?turn, fun s d a => ?ue, fun s d cs near => runContrib_enters cs near,
    accDone_memory, fun s d c j new good => accDone_miss good j new, fun s d c new good => accDone_ok good new, fun s d c a bad => ?unread,
    fun s d old read sound => ?add, fun s d st read => ?round⟩
  case turn =>
    rw [engTurn] <;> rfl
  case ue =>
    rw [engUe, engEcc_uncorrectable] <;> rfl
  case unread =>
    rw [runAccAdd, runAccRound, bad]
    exact ⟨rfl, rfl⟩
  case add =>
    rw [runAccAdd, read]
    dsimp only
    rw [find?_residueMiss_none sound, ladleAdds_ok]
    exact accDone_ok (by decide) _
  case round =>
    rw [runAccRound, read]
    rfl

end Sys2Proof.Machine

/-! PROOFS. The Xtzgal instructions (O28). -/

namespace Sys2Proof.Machine

/-- Which types a SEND may have (08 R195). -/
theorem sendType_iff (typ : Nat) : (typ ≠ tWRITE ∧ typ ≠ tREADREQ ∧ typ ≠ tATOMIC ∧ typ ≠ tCALL) ↔ typ ∉ [tWRITE, tREADREQ, tATOMIC, tCALL] := by
  simp only [List.mem_cons, List.not_mem_nil, or_false, not_or]

/-- TZ.SEND: its template, its checks in order, the payload read, then the packet formed. -/
theorem tzSend_eq (u : State) (t : ThreadRef) (x y : Nat) (e : Ecc) : tzSend u t x y e = (
    let h := sendHeader u t (headerOf (plainRead u (placeOf u t x) 32))
    let typ := h.typ.toNat
    let k := blockOfThr u t
    if x % 32 ≠ 0 ∨ ownMem u t x 32 = false then threadFault u t 25 x
    else if e = .template then threadFault u t 29 x
    else if typ ∉ [tWRITE, tREADREQ, tATOMIC, tCALL] ∨ headerOk h = false then threadFault u t 27 x
    else if sendTarget u k h = false ∨ sendTagBad u k h = true then
      threadFault u t (if typ = tREADREQ then 5 else 7) (h.dst.toNat * 2 ^ 48 + h.addr.toNat)
    else if ((typ = tWRITE ∨ typ = tCALL) ∧ (y % 32 ≠ 0 ∨ spanOk u t y (32 * h.len.toNat) 0 = false)) ∨
        (typ = tREADREQ ∧ spanOk u t y (32 * h.chunk.toNat) 1 = false) ∨
        (typ = tATOMIC ∧ (spanOk u t y 32 0 = false ∨ spanOk u t y 32 1 = false)) then threadFault u t 25 y
    else if 0 < (thrOf u t).posted then u
    else
      let r := if typ = tREADREQ then thrRead u t x 0 e else thrRead u t y (32 * h.len.toNat) e
      match r.1 with
      | none => r.2
      | some payload =>
        if h.mcast = false ∧ h.dst.toNat = ownEpa r.2 then sendOwn r.2 t h payload y
        else
          let z := originate r.2 t.die k h payload (.thread t) (pace := some (paceKey r.2 t))
          if typ = tWRITE ∨ typ = tCALL then retire z.2 t else sleepIn z.2 t (.send h.dst.toNat z.1 y)) := by
  rw [tzSend]
  dsimp only
  generalize sendHeader u t (headerOf (plainRead u (placeOf u t x) 32)) = h
  generalize (if h.typ.toNat = tREADREQ then thrRead u t x 0 e else thrRead u t y (32 * h.len.toNat) e) = r
  refine if_congr (by simp) rfl (if_congr .rfl rfl (if_congr (or_congr (sendType_iff _) (by simp)) rfl (if_congr (by simp) rfl ?_)))
  rw [ite_or, ite_or]
  refine if_congr (by simp) rfl (if_congr (by simp) rfl (if_congr (by simp only [not_and_or, Bool.not_eq_true]) rfl (if_congr .rfl rfl ?_)))
  obtain ⟨_ | payload, v⟩ := r <;> rfl

/-- Settles O28: each instruction's effect on the state after it is noted as issued. -/
theorem xtzgalInstructionsTakeEffect : Obligations.XtzgalInstructionsTakeEffect := by
  unfold Obligations.XtzgalInstructionsTakeEffect
  refine ⟨fun s t a b here turns stands => ?submit, fun s t a b e here turns stands => ?send, fun s t rd a b here turns stands => ?wait,
    fun s t rd k p v here sleeps => ?wake, fun s t rd k p v here sleeps => ?limit, fun s t a here turns stands => ?brake,
    fun s t rd here turns stands => tzRow_runs here turns stands _, fun s t rd here turns stands => tzRow_runs here turns stands _,
    fun s t here turns stands => tzRow_runs here turns stands _, fun s t rd a b w e here waits c is => ?idle⟩
  case submit =>
    rw [exec, execTzSubmit, tzRow_runs here turns stands, tzSubmit]
    exact congrArg Host.Outcome.next (congrArg (after s) (if_congr (by simp) rfl rfl))
  case send =>
    rw [exec, execTzSend, tzRow_runs here turns stands, tzSend_eq] <;> rfl
  case wait =>
    rw [exec, execTzWait, tzRow_runs here turns stands, tzWait]
    exact congrArg Host.Outcome.next (congrArg (after s) (if_congr .rfl rfl (if_congr (by simp) rfl rfl)))
  case wake =>
    rw [exec, execTzWaitWake, onUnit_of here, tzWaitWake, sleeps]
    exact congrArg Host.Outcome.next (congrArg (after s) (if_congr (by simp) rfl rfl))
  case limit =>
    rw [exec, execWaitLimit, onUnit_of here, waitLimit, sleeps]
    exact congrArg Host.Outcome.next (congrArg (after s) (if_congr (by simp) rfl rfl))
  case brake =>
    rw [exec, execTzBrake, tzRow_runs here turns stands, tzBrake]
  case idle =>
    have row (f : Meaning → Option (State → State)) : issueRow t s f = .next (after s s) := issueRow_waits here waits f
    simp only [List.mem_cons, List.not_mem_nil, or_false] at is
    rcases is with rfl | rfl | rfl | rfl | rfl | rfl | rfl | rfl | rfl | rfl | rfl | rfl | rfl | rfl
    all_goals simp only [exec, execTzSubmit, execTzSend, execTzWait, execTzTake, execTzBrake, execTzAxle, execTzStep, execTzYield, execGalleyAccess,
      execFence, execExit, execLog, execEbreak, execIllegalInstruction, tzRow, row]

end Sys2Proof.Machine

/-! PROOFS. Thermal trips, the control cycle and the Ehrok cores (O13). -/

namespace Sys2Proof.Machine

/-- A flow that has changed is not stuck and is noted anew (16 R409). -/
theorem flowWatch_changed {s : State} {x : Sensed} (changed : x.flow ≠ s.cool.flow) :
    (flowWatch s x).stuck = false ∧ (flowWatch s x).flowAt = s.now := by
  rw [flowWatch, if_pos changed]
  exact ⟨rfl, rfl⟩

/-- A stuck flow has read the same for 60 s. -/
theorem flowWatch_stuck {s : State} {x : Sensed} (stuck : (flowWatch s x).stuck = true) : (flowWatch s x).flowAt + 60000000000 ≤ s.now := by
  by_cases changed : x.flow ≠ s.cool.flow
  · exact absurd stuck (by rw [(flowWatch_changed changed).1]; decide)
  · rw [flowWatch, if_neg changed] at stuck ⊢
    exact (of_decide_eq_true stuck).1

/-- A whole copy is the newest that the standby can load (15 R376). -/
theorem writeCopy_whole {s : State} (standby : 2 ≤ s.ehrok.bState) (ctrlA : s.ehrok.inB = false) :
    lastLoops (writeCopy s true) = some (loopCopy s) ∧ (writeCopy s true).ehrok.lastCopy = s.now := by
  have copied : 2 ≤ (if s.ehrok.inB then s.ehrok.aState else s.ehrok.bState) ∧ true = true := ⟨by rw [ctrlA]; exact standby, rfl⟩
  rw [writeCopy, if_pos copied]
  refine ⟨?_, rfl⟩
  cases newest : s.ehrok.newB <;> simp [lastLoops]

theorem writeCopy_partial (s : State) : writeCopy s false = { s with ehrok := { s.ehrok with sync := 0, waitBack := 0 } } := by
  rw [writeCopy, if_neg (by simp)]

theorem loadCopy_some {s : State} {c : LoopCopy} (last : lastLoops s = some c) : loadCopy s = { s with
    pwr := { s.pwr with dieLim := c.dieLim, ratio := c.ratio, thermCap := c.thermCap, rampLim := c.rampLim, rampW := c.rampW },
    therm := { s.therm with hot := c.hot, suspect := c.suspect, dual := c.dual },
    cool := { s.cool with flowAt := c.flowAt, drawLo := c.drawLo, drawHi := c.drawHi },
    lonus := { s.lonus with beatAt := c.beatAt } } := by
  rw [loadCopy, last]

theorem loadCopy_frame (s : State) : (loadCopy s).ehrok = s.ehrok ∧ (loadCopy s).now = s.now ∧
    (loadCopy s).lonus.outstanding = s.lonus.outstanding := by
  cases last : lastLoops s with
  | none =>
    rw [loadCopy, last]
    exact ⟨rfl, rfl, rfl⟩
  | some c =>
    rw [loadCopy_some last]
    exact ⟨rfl, rfl, rfl⟩

/-- With no command outstanding a restart completes none. -/
theorem restartAll_idle {s : State} (idle : s.lonus.outstanding = []) :
    (restartAll s).ehrok = { s.ehrok with sinceCopy := [] } ∧ (restartAll s).now = s.now := by
  rw [restartAll]
  dsimp only [updLonus]
  rw [idle]
  exact ⟨rfl, rfl⟩

theorem skipTelem_frame (s : State) : (skipTelem s).ehrok = s.ehrok ∧ (skipTelem s).now = s.now := by
  unfold skipTelem
  extract_lets u
  split <;> exact ⟨rfl, rfl⟩

/-- The core in control restarts where the module has no other (15 R379). -/
theorem takeover_alone {s : State} {cause : Nat} (on : s.mod.st ≠ .off) (booted : s.mod.bootRom = false) (ctrlA : s.ehrok.inB = false)
    (noB : s.ehrok.bState < 2) (runs : s.ehrok.aState = 3) : takeover s cause =
      { s with ehrok := stopCore { s.ehrok with sync := 0, waitBack := 0, dueAt := none } false
                                 (recent s s.ehrok.stopsA ++ [s.now]) (recent s s.ehrok.stopsB ++ [s.now]) } := by
  have ctrl : ctrlRuns s = true := by simp [ctrlRuns, alive_of on, booted, ctrlA, runs]
  rw [takeover]
  dsimp only
  rw [if_neg (by simp [alive_of on, booted]), if_pos (by simpa [ctrlA] using noB), stopAlone, if_pos ctrl]

theorem elapse_waited_lonus {c : Prop} {_ : Decidable c} (s : State) (t n : Nat) :
    (elapse (if c then waitUntil s t else s) n).lonus = s.lonus := by
  split <;> rfl

/-- The core that takes over goes on from the newest copy at the next boundary; the other has stopped, for the first time (15 R377, R379). -/
theorem takeover_standby {s : State} {cause : Nat} (on : s.mod.st ≠ .off) (booted : s.mod.bootRom = false) (ctrlA : s.ehrok.inB = false)
    (standby : 2 ≤ s.ehrok.bState) (first : s.ehrok.stopsA = []) (idle : s.lonus.outstanding = []) :
    (takeover s cause).ehrok.inB = true ∧ (takeover s cause).ehrok.aState = 1 ∧ (takeover s cause).ehrok.bState = 3 ∧
      (takeover s cause).ehrok.takeovers = min (s.ehrok.takeovers + 1) 65535 ∧ (takeover s cause).ehrok.single = s.ehrok.single ∧
      (takeover s cause).ehrok.dueAt = some (takeover s cause).now := by
  obtain ⟨r, is⟩ : ∃ r, takeover s cause = r := ⟨_, rfl⟩
  rw [is]
  unfold takeover at is
  extract_lets e other w u gap a b third e1 e2 x y z at is
  rw [if_neg (by simp [alive_of on, booted]), if_neg (by simpa [other, e, ctrlA, Nat.lt_iff_add_one_le] using standby)] at is
  have waited : u.lonus = s.lonus := elapse_waited_lonus ..
  clear_value u
  have once : third = false := by simp [third, a, e, ctrlA, first, recent]
  have core : x.ehrok = { e2 with sinceCopy := [] } ∧ x.now = u.now := by
    obtain ⟨ehrok, now, out⟩ := loadCopy_frame { u with ehrok := e2 }
    obtain ⟨ehrok', now'⟩ := restartAll_idle (out.trans ((congrArg Lonus.outstanding waited).trans idle))
    obtain ⟨ehrok'', now''⟩ := skipTelem_frame (restartAll (loadCopy { u with ehrok := e2 }))
    exact ⟨ehrok''.trans (ehrok'.trans (by rw [ehrok])), now''.trans (now'.trans now)⟩
  clear_value x
  have same : z = y := if_neg (by rw [once]; decide)
  have ehrok : r.ehrok = { e2 with sinceCopy := [] } := by rw [← is, same]; exact core.1
  have now : r.now = u.now := by rw [← is, same]; exact core.2
  rw [ehrok, now]
  simp [e2, e1, e, stopCore, ctrlA, once, satInc]

/-- A core that restarts with a good image is the standby, or in control where control was left to it (15 R379). -/
theorem coreRestart_A {s : State} (on : s.mod.st ≠ .off) (ok : Bool) : coreRestart s false ok =
    if s.ehrok.aState ≠ 1 then s
    else if ok = false then enterHold { s with ehrok := { s.ehrok with aState := 0 } } 11 none
    else { s with ehrok := { s.ehrok with sync := 0, waitBack := 0, copyA := none, copyB := none, lastCopy := s.now,
                                          aState := if s.ehrok.inB = true then 2 else 3 } } := by
  have role : (if s.ehrok.inB = false then 3 else 2) = if s.ehrok.inB = true then 2 else 3 := by cases s.ehrok.inB <;> rfl
  rw [coreRestart]
  simp only [alive_of on, Bool.not_true, Bool.false_or, Bool.false_eq_true, if_false, decide_eq_true_eq, Bool.not_eq_true', role]

theorem coreRestart_B {s : State} (on : s.mod.st ≠ .off) (ok : Bool) : coreRestart s true ok =
    if s.ehrok.bState ≠ 1 then s
    else if ok = false then enterHold { s with ehrok := { s.ehrok with bState := 0 } } 11 none
    else { s with ehrok := { s.ehrok with sync := 0, waitBack := 0, copyA := none, copyB := none, lastCopy := s.now,
                                          bState := if s.ehrok.inB = true then 3 else 2 } } := by
  rw [coreRestart]
  simp only [alive_of on, Bool.not_true, Bool.false_or, if_true, decide_eq_true_eq, Bool.not_eq_true']

/-- A synchronised core A takes control back at a boundary, once no command runs or 64 cycles have waited for it (15 R380). -/
theorem takeback_eq (s : State) : takeback s =
    let w := elapse s (toBoundary s)
    let u := { w with ehrok := { s.ehrok with
      inB := false, takebacks := min (s.ehrok.takebacks + 1) 65535, sync := 0, waitBack := 0, sinceCopy := [], dueAt := some w.now } }
    if ctrlRuns s = true ∧ s.ehrok.inB = true ∧ s.ehrok.aState = 3 ∧ 16 ≤ s.ehrok.sync then
      if (∀ c ∈ s.lonus.outstanding, c.running = false) then emit u evTakeback []
      else if 64 ≤ s.ehrok.waitBack then emit (restartAll u) evTakeback [] else s
    else s := by
  have running : s.lonus.outstanding.any Cmd.running = false ↔ ∀ c ∈ s.lonus.outstanding, c.running = false := by simp
  unfold takeback
  extract_lets e busy w u
  have busy_iff : busy = false ↔ ∀ c ∈ s.lonus.outstanding, c.running = false := running
  by_cases synced : ctrlRuns s = true ∧ s.ehrok.inB = true ∧ s.ehrok.aState = 3 ∧ 16 ≤ s.ehrok.sync
  · obtain ⟨ctrl, inB, aState, sync⟩ := synced
    rw [if_pos (show ctrlRuns s = true ∧ s.ehrok.inB = true ∧ s.ehrok.aState = 3 ∧ 16 ≤ s.ehrok.sync from ⟨ctrl, inB, aState, sync⟩)]
    by_cases free : busy = false
    · rw [if_pos (busy_iff.mp free), if_pos ⟨ctrl, inB, aState, sync, .inl free⟩, free]
      rfl
    · rw [if_neg fun h => free (busy_iff.mpr h), Bool.eq_true_of_not_eq_false free]
      exact if_congr (by simp [ctrl, inB, aState, sync, e]) rfl rfl
  · rw [if_neg synced, if_neg fun ⟨ctrl, inB, aState, sync, _⟩ => synced ⟨ctrl, inB, aState, sync⟩]

/-- Settles O13: each row by its check; the cores by what their takeover, restart and takeback leave. -/
theorem thermalAndCoreRowsTakeEffect : Obligations.ThermalAndCoreRowsTakeEffect := by
  unfold Obligations.ThermalAndCoreRowsTakeEffect
  refine ⟨fun s p die => ?hold, fun s p i v on die sensor => ?trip, fun s x k ctrl => ?cycle, fun s x k idle => ?noCtrl,
    fun s x => ⟨rfl, rfl, rfl, rfl, flowWatch_changed, flowWatch_stuck, rfl, rfl⟩, fun s standby ctrlA => ?copy, fun s c last => ?load, fun s cause => rfl,
    fun s cause on booted ctrlA standby first idle => ?takes, fun s cause on booted ctrlA noB runs => ?alone, fun s ok on => ?restartA, fun s ok on => ?restartB,
    fun s => ?back, fun s on booted => ?watch⟩
  case hold =>
    rw [exec, execThermalHold, onUnit_of die, thermalHold]
    exact congrArg Host.Outcome.next (congrArg (after s) (if_congr (by simp) rfl rfl))
  case trip =>
    rw [exec, execThermalTrip, onUnit_of (by simp [die, sensor]), thermalTrip, alive_of on]
    exact congrArg Host.Outcome.next (congrArg (after s) (if_congr (by simp) rfl rfl))
  case cycle =>
    rw [exec, execControlCycle, done_eq, controlCycle, if_neg (by simp [ctrl])]
    dsimp only [cycleAt, toBoundary, waitUntil]
  case noCtrl =>
    rw [exec, execControlCycle, done_eq, controlCycle, idle]
    rfl
  case copy =>
    obtain ⟨newest, at_⟩ := writeCopy_whole standby ctrlA
    rw [writeCopy_partial]
    exact ⟨newest, at_, rfl, rfl⟩
  case load =>
    rw [loadCopy_some last]
    exact ⟨rfl, rfl, rfl, rfl, rfl, rfl, rfl⟩
  case takes => exact takeover_standby on booted ctrlA standby first idle
  case alone =>
    rw [takeover_alone on booted ctrlA noB runs, stopCore, if_neg (by simp [ctrlA])]
    exact ⟨rfl, ctrlA, by simp [ctrlRuns, ctrlA]⟩
  case restartA => rw [exec, execCoreRestart, done_eq, coreRestart_A on]
  case restartB => rw [exec, execCoreRestart, done_eq, coreRestart_B on]
  case back => rw [exec, execEhrokTakeback, done_eq, takeback_eq]
  case watch =>
    rw [exec, execHardwareWatchdog, done_eq, watchdog, if_pos (by simp [alive_of on, booted])]
    rfl

end Sys2Proof.Machine
